-- ==== Sys2Proof/Word.lean ====
section
/-! DEFINITION. The word types of the Cezonto CX-8 and their plainest arithmetic: 64-bit words, bytes,
little-endian byte order (R4), sign extension and saturation of exact integers (R83). -/
namespace Sys2Proof

/-- A 64-bit register or memory word. -/
abbrev Word := BitVec 64
/-- One byte of memory or scratch. -/
abbrev Byte := BitVec 8
/-- A 512-byte vector register, accumulator row or latch value (R58: lane i in bits [32i+31:32i]). -/
abbrev VecVal := BitVec 4096
/-- A bit per vector lane. -/
abbrev Mask := BitVec 128

/-- The bytes of a number, lowest address first (R4). -/
def leBytes : Nat → Nat → List Byte
  | 0, _ => []
  | n + 1, x => BitVec.ofNat 8 x :: leBytes n (x / 256)

/-- The number that a little-endian byte string holds (R4). -/
def leNat : List Byte → Nat
  | [] => 0
  | b :: bs => b.toNat + 256 * leNat bs

/-- `x` read as a two's-complement value of width `w`. -/
def signedOf (w x : Nat) : Int :=
  let y := x % 2 ^ w
  if 2 * y < 2 ^ w then (y : Int) else (y : Int) - (2 ^ w : Nat)

/-- The low `w` bits of an exact integer. -/
def wrapNat (w : Nat) (x : Int) : Nat := (x % ((2 ^ w : Nat) : Int)).toNat

/-- The range of a `w`-bit signed or unsigned integer format. -/
def intMin (w : Nat) (unsigned : Bool) : Int := if unsigned then 0 else -((2 ^ (w - 1) : Nat) : Int)
/-- The largest value of a `w`-bit signed or unsigned integer format. -/
def intMax (w : Nat) (unsigned : Bool) : Int :=
  if unsigned then ((2 ^ w : Nat) : Int) - 1 else ((2 ^ (w - 1) : Nat) : Int) - 1

/-- Saturation to the range of a format (R83). -/
def satInt (w : Nat) (unsigned : Bool) (x : Int) : Int :=
  if x < intMin w unsigned then intMin w unsigned
  else if intMax w unsigned < x then intMax w unsigned else x

/-- An integer field read as signed or unsigned (R205, R222). -/
def readInt (w : Nat) (unsigned : Bool) (x : Nat) : Int :=
  if unsigned then ((x % 2 ^ w : Nat) : Int) else signedOf w x

/-- Bits [lo+len-1:lo] of a number. -/
def bitsOf (x lo len : Nat) : Nat := (x >>> lo) % 2 ^ len

/-- `x` with bits [lo+len-1:lo] replaced by the low bits of `v`. -/
def setBits (x lo len v : Nat) : Nat :=
  (x - bitsOf x lo len * 2 ^ lo) + (v % 2 ^ len) * 2 ^ lo

/-- The smallest multiple count: ⌈a / b⌉. -/
def ceilDiv (a b : Nat) : Nat := (a + b - 1) / b

/-- The 16-bit halves and bytes are built with this: a number below 2^k whose bit i is `f i`. -/
def natOfBits (k : Nat) (f : Nat → Bool) : Nat :=
  (List.range k).foldl (fun acc i => if f i then acc + 2 ^ i else acc) 0

/-- Field `[lo+len-1:lo]` of a bit vector. -/
abbrev fld {n : Nat} (x : BitVec n) (lo len : Nat) : BitVec len := x.extractLsb' lo len

end Sys2Proof
end

