-- ==== Sys2Proof/Syntax.lean ====
section
/-! DEFINITION. The instructions and events of the Cezonto CX-8: one constructor of `Instr` per row of
spec/opcode_table.json. The first 203 rows that have a word are slot operations (Tables 7.12–7.19),
with the operand fields of their encoding tables; the others are events, whose operands are what the
outside world or an agent of the package supplies. -/
namespace Sys2Proof

/-- A unit: crown index 0–7, or 8 for the brim core (Table 14.5 UNIT). -/
abbrev UnitId := Fin 9
/-- A crown index k = cy × 4 + cx (R110). -/
abbrev CrownId := Fin 8
/-- A copy engine ce0–ce11. -/
abbrev EngId := Fin 12
/-- A predicate register p0–p11. -/
abbrev PReg := Fin 12

/-- Boost levels (R179); code 3 is reserved. -/
inductive Boost | none | one | two
  deriving DecidableEq, Repr
/-- A guard predicate (R166). -/
structure Guard where
  gp : PReg
  neg : Bool
  deriving DecidableEq, Repr
/-- Bypass latches (R89). -/
inductive Latch | ls0 | ls1 | la0 | la1 | lv0 | lv1 | lvm | lac
  deriving DecidableEq, Repr
/-- The latches that S and A slots may name (Table 4.2). -/
inductive SLatch | ls0 | ls1 | la0 | la1
  deriving DecidableEq, Repr
/-- A source of an S slot. -/
inductive SSrc
  | reg (n : BitVec 6)
  | latch (l : SLatch)
  deriving DecidableEq, Repr
/-- A source of an A slot. -/
inductive ASrc
  | reg (n : BitVec 5)
  | latch (l : SLatch)
  deriving DecidableEq, Repr
/-- A source of a V0, V1, VM or SC slot. -/
inductive VSrc
  | reg (n : BitVec 6)
  | latch (l : Latch)
  deriving DecidableEq, Repr

/-- Integer widths of Table 8.7. -/
inductive IWidth | w64 | w32 | w16 | w8
  deriving DecidableEq, Repr
/-- Conditions of CMP and VCMP (Table 8.9). -/
inductive ICond | eq | ne | lt | ge | ltn | gen | le | gt | len | gtn
  deriving DecidableEq, Repr
/-- Conditions of FCMP and VFCMP (Table 8.10). -/
inductive FCond | eq | lt | le | un | ne | ge | gt
  deriving DecidableEq, Repr
/-- PLOG operations (Table 8.9). -/
inductive PLogOp | and | or | xor | andn | not | mov
  deriving DecidableEq, Repr
/-- The sixteen element formats of Table 3.2. -/
inductive Fmt
  | i8 | i16 | i32 | i64 | n8 | n16 | n32 | n64
  | e4m3 | e5m2 | e2m1 | bf16 | f16 | f32 | f64 | rns16
  deriving DecidableEq, Repr
/-- Rounding-mode codes of Table 3.3; code 7 is reserved. -/
inductive RMode | rne | rtz | rdn | rup | rna | sr | dyn
  deriving DecidableEq, Repr
/-- Reductions of VRED and VSCAN (R226). -/
inductive RedOp | add | min | max | and | or | xor
  deriving DecidableEq, Repr
/-- VSHUF modes (Table 9.6). -/
inductive ShufMode | xor | rot | bc | clx
  deriving DecidableEq, Repr
/-- Widths of VPACK and VUNPK (R228). -/
inductive PackW | w16 | w8 | w4
  deriving DecidableEq, Repr
/-- Access strength of a command (Table 11.1 STR). -/
inductive Strength | weak | strong | acq | rel
  deriving DecidableEq, Repr
/-- Scalar scratch sizes (R217). -/
inductive LsSize | b1 | b2 | b4
  deriving DecidableEq, Repr
/-- The levels at which software issues TSTOP, TRES and TPROG (Table 10.2). -/
inductive TileLvl | crown | package | gang
  deriving DecidableEq, Repr
/-- TDRAIN output formats (Table 10.9). -/
inductive DrainFmt | raw | bf16 | f16
  deriving DecidableEq, Repr
/-- TJOIN plane formats (Table 10.1 SUB). -/
inductive PlaneFmt | f32 | i32 | rns16
  deriving DecidableEq, Repr
/-- TLBI selectors (R292). -/
inductive TlbSel | all | asid | page
  deriving DecidableEq, Repr

/-! ### BR forms (Tables 8.1, 8.2, 8.5) -/
/-- B.T, B.F: offset in 8-byte units and the predicate tested. -/
structure BrCond where
  g : Guard
  off : BitVec 28
  bp : PReg
  deriving DecidableEq, Repr
/-- J. -/
structure BrJump where
  g : Guard
  off : BitVec 28
  deriving DecidableEq, Repr
/-- JX, RET. -/
structure BrReg where
  g : Guard
  sa : BitVec 6
  deriving DecidableEq, Repr
/-- CALL. -/
structure BrCall where
  g : Guard
  dst : BitVec 6
  off : BitVec 21
  deriving DecidableEq, Repr
/-- LOOP. -/
structure BrLoop where
  g : Guard
  sa : BitVec 6
  endoff : BitVec 14
  imm : BitVec 20
  deriving DecidableEq, Repr
/-- LOOPP. -/
structure BrLoopP where
  g : Guard
  sa : BitVec 6
  endoff : BitVec 14
  epi : BitVec 3
  rb : BitVec 5
  imm : BitVec 12
  deriving DecidableEq, Repr
/-- TRAPI: CODE in [19:0] (Table 8.5). -/
structure BrTrap where
  g : Guard
  code : BitVec 20
  deriving DecidableEq, Repr
/-- WAITN. -/
structure BrWait where
  g : Guard
  qmask : BitVec 12
  n : BitVec 8
  deriving DecidableEq, Repr

/-! ### S forms (Tables 8.6–8.10) -/
/-- Fields that every S and A operation carries: which of the two slots, guard, boost level and NW. -/
structure SHd where
  slot1 : Bool
  g : Guard
  bst : Boost
  nw : Bool
  deriving DecidableEq, Repr
/-- ADD, SUB, MUL. -/
structure SArith where
  h : SHd
  dst : BitVec 6
  a : SSrc
  b : SSrc
  w : IWidth
  u : Bool
  sat : Bool
  deriving DecidableEq, Repr
/-- AND, OR, XOR, ANDN, SHL, SHR, SAR, ROTL. -/
structure SLogic where
  h : SHd
  dst : BitVec 6
  a : SSrc
  b : SSrc
  w : IWidth
  u : Bool
  deriving DecidableEq, Repr
/-- Forms with an N twin (MULH, DIV, REM, MIN, MAX and their twins): the mnemonic fixes U (R205). -/
structure STwin where
  h : SHd
  dst : BitVec 6
  a : SSrc
  b : SSrc
  w : IWidth
  deriving DecidableEq, Repr
/-- CLZ, CTZ, POPC, BREV. -/
structure SUn where
  h : SHd
  dst : BitVec 6
  a : SSrc
  w : IWidth
  u : Bool
  deriving DecidableEq, Repr
/-- CMP. -/
structure SCmp where
  h : SHd
  dst : PReg
  a : SSrc
  b : SSrc
  w : IWidth
  cond : ICond
  deriving DecidableEq, Repr
/-- ADDI, ANDI, ORI, XORI. -/
structure SImm where
  h : SHd
  dst : BitVec 6
  a : SSrc
  imm : BitVec 20
  deriving DecidableEq, Repr
/-- MOVI. -/
structure SMovi where
  h : SHd
  dst : BitVec 6
  imm : BitVec 20
  deriving DecidableEq, Repr
/-- SHLI, SHRI, SARI. -/
structure SShI where
  h : SHd
  dst : BitVec 6
  a : SSrc
  d : BitVec 6
  deriving DecidableEq, Repr
/-- BEXT: POS and LEN − 1. -/
structure SBext where
  h : SHd
  dst : BitVec 6
  a : SSrc
  pos : BitVec 6
  len1 : BitVec 6
  deriving DecidableEq, Repr
/-- BINS. -/
structure SBins where
  h : SHd
  dst : BitVec 6
  a : SSrc
  b : SSrc
  pos : BitVec 6
  len1 : BitVec 6
  deriving DecidableEq, Repr
/-- SEXT, ZEXT. -/
structure SExt where
  h : SHd
  dst : BitVec 6
  a : SSrc
  len1 : BitVec 6
  deriving DecidableEq, Repr
/-- SEL. -/
structure SSel where
  h : SHd
  dst : BitVec 6
  k : PReg
  a : SSrc
  b : SSrc
  deriving DecidableEq, Repr
/-- PSET. -/
structure SPset where
  h : SHd
  dst : PReg
  a : SSrc
  b : SSrc
  lo : BitVec 8
  ni : BitVec 8
  deriving DecidableEq, Repr
/-- PLOG. -/
structure SPlog where
  h : SHd
  dst : PReg
  op : PLogOp
  a : PReg
  b : PReg
  deriving DecidableEq, Repr
/-- FADD, FSUB, FMUL, FDIV. -/
structure SFp2 where
  h : SHd
  dst : BitVec 6
  a : SSrc
  b : SSrc
  fmt : Fmt
  rm : RMode
  deriving DecidableEq, Repr
/-- FFMA. -/
structure SFp3 where
  h : SHd
  dst : BitVec 6
  a : SSrc
  b : SSrc
  c : SSrc
  fmt : Fmt
  rm : RMode
  deriving DecidableEq, Repr
/-- FSQRT. -/
structure SFp1 where
  h : SHd
  dst : BitVec 6
  a : SSrc
  fmt : Fmt
  rm : RMode
  deriving DecidableEq, Repr
/-- FMIN, FMAX. -/
structure SFmm where
  h : SHd
  dst : BitVec 6
  a : SSrc
  b : SSrc
  fmt : Fmt
  deriving DecidableEq, Repr
/-- FCMP. -/
structure SFcmp where
  h : SHd
  dst : PReg
  a : SSrc
  b : SSrc
  fmt : Fmt
  cond : FCond
  deriving DecidableEq, Repr
/-- FCVT. -/
structure SFcvt where
  h : SHd
  dst : BitVec 6
  a : SSrc
  dfmt : Fmt
  sfmt : Fmt
  sat : Bool
  rm : RMode
  deriving DecidableEq, Repr
/-- FCLASS. -/
structure SFclass where
  h : SHd
  dst : BitVec 6
  a : SSrc
  fmt : Fmt
  deriving DecidableEq, Repr
/-- MOVCB (no boost: R179). -/
structure SMovCb where
  slot1 : Bool
  g : Guard
  nw : Bool
  dst : BitVec 4
  a : SSrc
  deriving DecidableEq, Repr
/-- MOVQ. -/
structure SMovQ where
  slot1 : Bool
  g : Guard
  nw : Bool
  dst : BitVec 5
  a : SSrc
  deriving DecidableEq, Repr
/-- CSRR. -/
structure SCsrr where
  h : SHd
  dst : BitVec 6
  csr : BitVec 12
  deriving DecidableEq, Repr
/-- CSRW. -/
structure SCsrw where
  slot1 : Bool
  g : Guard
  nw : Bool
  a : SSrc
  csr : BitVec 12
  deriving DecidableEq, Repr

/-! ### A forms (Table 8.12, R217) -/
/-- AADD. -/
structure AAdd where
  h : SHd
  dst : BitVec 5
  a : ASrc
  b : ASrc
  deriving DecidableEq, Repr
/-- AADDI. -/
structure AAddi where
  h : SHd
  dst : BitVec 5
  a : ASrc
  disp : BitVec 16
  deriving DecidableEq, Repr
/-- AMOV, AGET. -/
structure AMov where
  h : SHd
  dst : BitVec 5
  a : ASrc
  deriving DecidableEq, Repr
/-- The arguments of AMODE by mode (R216). -/
inductive AModeArg
  | plain
  | incr (inc : BitVec 18)
  | modulo (len : ASrc) (inc : BitVec 18)
  | bitrev (base : ASrc) (k : BitVec 5) (esh : BitVec 5)
  deriving DecidableEq, Repr
/-- AMODE. -/
structure AMode where
  h : SHd
  dst : BitVec 5
  arg : AModeArg
  deriving DecidableEq, Repr
/-- LDS. -/
structure ALds where
  h : SHd
  dst : BitVec 5
  a : ASrc
  sz : LsSize
  sgn : Bool
  pm : Bool
  disp : BitVec 16
  deriving DecidableEq, Repr
/-- STS (no boost: R179). -/
structure ASts where
  slot1 : Bool
  g : Guard
  nw : Bool
  a : ASrc
  b : ASrc
  sz : LsSize
  pm : Bool
  disp : BitVec 16
  deriving DecidableEq, Repr

/-! ### V0, V1 forms (chapter 09) -/
/-- Fields of every V0 and V1 word: slot, lane predicate, boost, NW and sticky STEP code. -/
structure VHd where
  slot1 : Bool
  pred : PReg
  bst : Boost
  nw : Bool
  step : BitVec 2
  deriving DecidableEq, Repr
/-- VADD, VSUB, VMUL. -/
structure VInt2S where
  h : VHd
  dst : BitVec 6
  a : VSrc
  b : VSrc
  fmt : Fmt
  sat : Bool
  deriving DecidableEq, Repr
/-- VMULH, VMIN, VMAX, VSHL, VSHR, VSAR. -/
structure VInt2 where
  h : VHd
  dst : BitVec 6
  a : VSrc
  b : VSrc
  fmt : Fmt
  deriving DecidableEq, Repr
/-- VMAD. -/
structure VInt3S where
  h : VHd
  dst : BitVec 6
  a : VSrc
  b : VSrc
  c : VSrc
  fmt : Fmt
  sat : Bool
  deriving DecidableEq, Repr
/-- VCLMP. -/
structure VInt3 where
  h : VHd
  dst : BitVec 6
  a : VSrc
  b : VSrc
  c : VSrc
  fmt : Fmt
  deriving DecidableEq, Repr
/-- VABS, VNEG. -/
structure VInt1S where
  h : VHd
  dst : BitVec 6
  a : VSrc
  fmt : Fmt
  sat : Bool
  deriving DecidableEq, Repr
/-- VAND, VOR, VXOR, VPERM: whole lanes. -/
structure VLane2 where
  h : VHd
  dst : BitVec 6
  a : VSrc
  b : VSrc
  deriving DecidableEq, Repr
/-- VNOT, VMOV, VRNS, VCRT. -/
structure VLane1 where
  h : VHd
  dst : BitVec 6
  a : VSrc
  deriving DecidableEq, Repr
/-- VFADD, VFSUB, VFMUL. -/
structure VFp2 where
  h : VHd
  dst : BitVec 6
  a : VSrc
  b : VSrc
  fmt : Fmt
  rm : RMode
  deriving DecidableEq, Repr
/-- VFMA. -/
structure VFp3 where
  h : VHd
  dst : BitVec 6
  a : VSrc
  b : VSrc
  c : VSrc
  fmt : Fmt
  rm : RMode
  deriving DecidableEq, Repr
/-- VFMIN, VFMAX. -/
structure VFmm where
  h : VHd
  dst : BitVec 6
  a : VSrc
  b : VSrc
  fmt : Fmt
  deriving DecidableEq, Repr
/-- VFABS, VFNEG. -/
structure VFsg where
  h : VHd
  dst : BitVec 6
  a : VSrc
  fmt : Fmt
  deriving DecidableEq, Repr
/-- VCMP. -/
structure VCmp where
  h : VHd
  dst : PReg
  a : VSrc
  b : VSrc
  cond : ICond
  deriving DecidableEq, Repr
/-- VFCMP. -/
structure VFcmp where
  h : VHd
  dst : PReg
  a : VSrc
  b : VSrc
  fmt : Fmt
  cond : FCond
  deriving DecidableEq, Repr
/-- VSEL. -/
structure VSel where
  h : VHd
  dst : BitVec 6
  selp : PReg
  a : VSrc
  b : VSrc
  deriving DecidableEq, Repr
/-- VBCAST. -/
structure VBcast where
  h : VHd
  dst : BitVec 6
  a : VSrc
  fmt : Fmt
  idx : BitVec 10
  deriving DecidableEq, Repr
/-- VEXT. -/
structure VExt where
  h : VHd
  dst : BitVec 6
  a : VSrc
  b : VSrc
  k : BitVec 7
  deriving DecidableEq, Repr
/-- VIOTA. -/
structure VIota where
  h : VHd
  dst : BitVec 6
  fmt : Fmt
  base : BitVec 11
  deriving DecidableEq, Repr
/-- VROT. -/
structure VRot where
  h : VHd
  dst : BitVec 6
  a : VSrc
  k : BitVec 7
  deriving DecidableEq, Repr
/-- VSHUF. -/
structure VShuf where
  h : VHd
  dst : BitVec 6
  a : VSrc
  mode : ShufMode
  m : BitVec 4
  deriving DecidableEq, Repr
/-- VRED, VSCAN. -/
structure VRedF where
  h : VHd
  dst : BitVec 6
  a : VSrc
  op : RedOp
  cl : Bool
  fmt : Fmt
  rm : RMode
  deriving DecidableEq, Repr
/-- VCVT. -/
structure VCvt where
  h : VHd
  dst : BitVec 6
  a : VSrc
  dfmt : Fmt
  sfmt : Fmt
  sat : Bool
  rm : RMode
  deriving DecidableEq, Repr
/-- VPACK. -/
structure VPackF where
  h : VHd
  dst : BitVec 6
  a : VSrc
  fmt : Fmt
  w : PackW
  q : BitVec 3
  sat : Bool
  deriving DecidableEq, Repr
/-- VUNPK. -/
structure VUnpkF where
  h : VHd
  dst : BitVec 6
  a : VSrc
  fmt : Fmt
  w : PackW
  q : BitVec 3
  deriving DecidableEq, Repr
/-- VEXP2, VLOG2, VRCP, VRSQ, VTANH: V1 only (R230). -/
structure VSpec where
  pred : PReg
  bst : Boost
  nw : Bool
  step : BitVec 2
  dst : BitVec 6
  a : VSrc
  fmt : Fmt
  rm : RMode
  deriving DecidableEq, Repr

/-! ### VM forms (Tables 9.9, 9.10) -/
/-- Fields of every VM word: lane predicate, boost, NW, STEP, base register AR and PM. -/
structure MHd where
  pred : PReg
  bst : Boost
  nw : Bool
  step : BitVec 2
  ar : BitVec 5
  pm : Bool
  deriving DecidableEq, Repr
/-- VLD, VLD.FE.C, VLD.FE.K, ACCRD. -/
structure MLoad where
  h : MHd
  dst : BitVec 6
  deriving DecidableEq, Repr
/-- VST, VST.F, VST.E, ACCWR. -/
structure MStore where
  h : MHd
  a : VSrc
  deriving DecidableEq, Repr
/-- VLDS. -/
structure MLoadS where
  h : MHd
  dst : BitVec 6
  fmt : Fmt
  as : BitVec 5
  deriving DecidableEq, Repr
/-- VSTS. -/
structure MStoreS where
  h : MHd
  a : VSrc
  fmt : Fmt
  as : BitVec 5
  deriving DecidableEq, Repr
/-- VGTH. -/
structure MGather where
  h : MHd
  dst : BitVec 6
  b : VSrc
  fmt : Fmt
  deriving DecidableEq, Repr
/-- VSCT. -/
structure MScatter where
  h : MHd
  a : VSrc
  b : VSrc
  fmt : Fmt
  deriving DecidableEq, Repr
/-- FESET, FECLR. -/
structure MFe where
  h : MHd
  deriving DecidableEq, Repr
/-- FEPROB. -/
structure MProb where
  h : MHd
  dst : PReg
  deriving DecidableEq, Repr

/-! ### CB and SC forms (Tables 10.1, 10.6) -/
/-- TMMA, TMMAS at CROWN level: layer mask, Z, first slot. -/
structure CbMma where
  g : Guard
  lm : BitVec 8
  z : Bool
  acc : BitVec 5
  deriving DecidableEq, Repr
/-- TMMA at PACKAGE and GANG level, TMMA.P: no slot field. -/
structure CbMmaP where
  g : Guard
  lm : BitVec 8
  z : Bool
  deriving DecidableEq, Repr
/-- TZERO, TLOAD: slot count − 1 and first slot. -/
structure CbSlots where
  g : Guard
  n1 : BitVec 5
  acc : BitVec 5
  deriving DecidableEq, Repr
/-- TDRAIN. -/
structure CbDrain where
  g : Guard
  n1 : BitVec 5
  acc : BitVec 5
  fmt : DrainFmt
  deriving DecidableEq, Repr
/-- TTRN. -/
structure CbTrn where
  g : Guard
  deriving DecidableEq, Repr
/-- TJOIN, TJOIN.SUM. -/
structure CbJoin where
  g : Guard
  lm : BitVec 8
  fmt : PlaneFmt
  acc : BitVec 5
  deriving DecidableEq, Repr
/-- TSTOP, TRES. -/
structure CbCtl where
  g : Guard
  lvl : TileLvl
  deriving DecidableEq, Repr
/-- TPROG. -/
structure CbProg where
  g : Guard
  lvl : TileLvl
  dst : BitVec 6
  deriving DecidableEq, Repr
/-- SCW. -/
structure ScW where
  g : Guard
  a : VSrc
  step : BitVec 2
  ar : BitVec 5
  pm : Bool
  bk : Bool
  deriving DecidableEq, Repr
/-- SCS. -/
structure ScS where
  g : Guard
  e : BitVec 8
  bk : Bool
  deriving DecidableEq, Repr
/-- SCSEL. -/
structure ScSel where
  g : Guard
  mode : BitVec 2
  deriving DecidableEq, Repr

/-! ### CP and SY forms (Tables 11.1, 11.9, 11.11, 11.12) -/
/-- CPY, CPYX, CPYF. -/
structure CpCopy where
  g : Guard
  eng : EngId
  str : Strength
  qb : BitVec 5
  bar : BitVec 5
  be : Bool
  deriving DecidableEq, Repr
/-- CPYW: STR must be 0. -/
structure CpWeight where
  g : Guard
  eng : EngId
  qb : BitVec 5
  bar : BitVec 5
  be : Bool
  deriving DecidableEq, Repr
/-- AMO except CAS. -/
structure CpAmo where
  g : Guard
  eng : EngId
  str : Strength
  qb : BitVec 5
  fmt : Fmt
  ret : Bool
  deriving DecidableEq, Repr
/-- AMO.CAS. -/
structure CpCas where
  g : Guard
  eng : EngId
  str : Strength
  qb : BitVec 5
  fmt : Fmt
  wide : Bool
  ret : Bool
  deriving DecidableEq, Repr
/-- FLUSHX. -/
structure CpFlush where
  g : Guard
  eng : EngId
  str : Strength
  qb : BitVec 5
  deriving DecidableEq, Repr
/-- PFH, MIGR: STR must be 0. -/
structure CpPlain where
  g : Guard
  eng : EngId
  qb : BitVec 5
  deriving DecidableEq, Repr
/-- CPQ. -/
structure CpQ where
  g : Guard
  dst : BitVec 6
  eng : EngId
  deriving DecidableEq, Repr
/-- CPSTOP, CPRES, FENCEQ, SLDRAIN: a queue mask. -/
structure CpMask where
  g : Guard
  qmask : BitVec 12
  deriving DecidableEq, Repr
/-- BARI. -/
structure SyBari where
  g : Guard
  n : BitVec 5
  expect : BitVec 8
  deriving DecidableEq, Repr
/-- BARA. -/
structure SyBara where
  g : Guard
  n : BitVec 5
  deriving DecidableEq, Repr
/-- BARX. -/
structure SyBarx where
  g : Guard
  n : BitVec 5
  sa : BitVec 6
  imm : BitVec 15
  deriving DecidableEq, Repr
/-- BARW. -/
structure SyBarw where
  g : Guard
  n : BitVec 5
  q : Bool
  deriving DecidableEq, Repr
/-- PHASE, CBWAIT, FENCE, GANGC, YIELD and the BR words with no field: a guard alone. -/
structure GuardOnly where
  g : Guard
  deriving DecidableEq, Repr
/-- TPOST. -/
structure SyPost where
  g : Guard
  sa : BitVec 6
  pool : BitVec 4
  deriving DecidableEq, Repr
/-- EVINC. -/
structure SyEvinc where
  g : Guard
  c : BitVec 12
  inc : BitVec 8
  deriving DecidableEq, Repr
/-- EVWAIT. -/
structure SyEvwait where
  g : Guard
  sa : BitVec 6
  c : BitVec 12
  deriving DecidableEq, Repr
/-- TLBI. -/
structure SyTlbi where
  g : Guard
  sel : TlbSel
  sa : BitVec 6
  sb : BitVec 6
  deriving DecidableEq, Repr
/-- TRCON, TRCOFF. -/
structure SyTrc where
  g : Guard
  src : BitVec 16
  deriving DecidableEq, Repr
/-- PMRD. -/
structure SyPmrd where
  g : Guard
  dst : BitVec 6
  n : BitVec 6
  deriving DecidableEq, Repr
/-- ENRD. -/
structure SyEnrd where
  g : Guard
  dst : BitVec 6
  deriving DecidableEq, Repr

/-! ### Prefix words (R176, R177) -/
/-- XIMM: the 44 payload bits. -/
structure XimmArg where
  payload : BitVec 44
  deriving DecidableEq, Repr
/-- XADR: the upper 16 displacement bits. -/
structure XadrArg where
  hi : BitVec 16
  deriving DecidableEq, Repr

/-! ### Operands of the events (spec/95): what the outside world or an agent supplies -/
/-- Atomic operations (R280). -/
inductive AmoOp | add | min | max | and | or | xor | swp | cas | faddx
  deriving DecidableEq, Repr
/-- What a fabric request asks of its home device (R331). -/
inductive RemoteOp
  | read (len : Nat)
  | write (bytes : List Byte) (poison : Bool)
  | amo (op : AmoOp) (fmt : Fmt) (wide red : Bool) (ops : List Word)
  | flush
  deriving DecidableEq, Repr
/-- A fabric request with its tag extension (R329). -/
structure FabReq where
  port : Fin 24
  id : Nat
  dest : BitVec 14
  src : BitVec 14
  owner : BitVec 12
  key : Word
  rwin : BitVec 12
  off : Nat
  op : RemoteOp
  deriving DecidableEq, Repr
/-- A gang message (R316, R317, R457–R459). -/
structure GangMsg where
  gtag : BitVec 10
  owner : BitVec 12
  src : BitVec 14
  gm : BitVec 14
  gn1 : BitVec 14
  deriving DecidableEq, Repr
/-- State of an exact reduction cell (R115). -/
inductive CellSt | finite | satPos | satNeg | posInf | negInf | nan
  deriving DecidableEq, Repr
/-- An element of an all-reduce: an integer, or the exact fixed-point form of R114 and R115 with its state. -/
structure ArVal where
  st : CellSt
  val : Int
  z0 : Bool
  deriving DecidableEq, Repr
/-- An all-reduce partial or result (R335). -/
structure ArMsg where
  g : Fin 64
  round : BitVec 32
  owner : BitVec 12
  src : BitVec 14
  vals : List ArVal
  deriving DecidableEq, Repr
/-- The result of an ECC check of one protected copy (R408, R424). -/
inductive Ecc | clean | correctable | uncorrectable
  deriving DecidableEq, Repr
/-- How the host link trained (R321). -/
inductive LinkMode | down | cxl | pcie
  deriving DecidableEq, Repr
/-- What the boot sequence finds and is given (Table 15.1). BIST results (R15, R350, R351): the failed batt positions of each crown,
its base die, both of its HBM4E stacks, its felt router, its link to the brim die, and the ten crown-to-crown felt links. The repair
data of the stacks: crown, pseudo-channel, bank, defective row and its spare row (R423). What is loaded
and measured: firmware stages 1 and 2 and the crown microcode. Installation data: IXSIZE, the REDSPILLs, CARDHOT.BASE; what stage 2
writes: registers of the fabric block by offset, and PARTCFG. -/
structure BootArg where
  failed : List (BitVec 9)
  dieOk : BitVec 8
  stackOk : BitVec 8
  routerOk : BitVec 8
  brimLinkOk : BitVec 8
  linkOk : BitVec 10
  repair : List (CrownId × Fin 128 × Fin 16 × BitVec 16 × Nat)
  stage1 : List Byte
  stage2 : List Byte
  microcode : List Byte
  ixsize : BitVec 8
  spill : List Word
  hotBase : BitVec 36
  fab : List (Nat × Word)
  part : List Word
  deriving DecidableEq, Repr
/-- One unit. -/
structure UnitArg where
  u : UnitId
  deriving DecidableEq, Repr
/-- One engine of one unit. -/
structure EngArg where
  u : UnitId
  e : EngId
  deriving DecidableEq, Repr
/-- One element of a queued command. -/
structure ElemArg where
  u : UnitId
  e : EngId
  cmd : Nat
  elt : Nat
  deriving DecidableEq, Repr
/-- A batt of a crown. -/
structure BattArg where
  k : CrownId
  b : Fin 8
  deriving DecidableEq, Repr
/-- The trailer of a KIND 2 bundle. -/
structure SegEndArg where
  cnt : BitVec 32
  sig : BitVec 32
  deriving DecidableEq, Repr
/-- A write of a register by a unit or the host. -/
structure UnitWriteArg where
  u : UnitId
  v : Word
  deriving DecidableEq, Repr
/-- A request bit written to PREQ of a unit. -/
structure PreqArg where
  u : UnitId
  req : Bool
  deriving DecidableEq, Repr
/-- STOPCTL.GO of a unit, with the RELOAD bit of the same write. -/
structure GoArg where
  u : UnitId
  reload : Bool
  deriving DecidableEq, Repr
/-- A write of MHCFG[c]. -/
structure MhcfgArg where
  c : Fin 16
  v : Word
  deriving DecidableEq, Repr
/-- Which of PMCTL (0), PMPER (1) or PMSEL[n] (2 + n) is written. -/
structure PmArg where
  u : UnitId
  reg : Fin 18
  v : Word
  deriving DecidableEq, Repr
/-- A write of V (and KEY) of an export window (R333). -/
structure RevokeArg where
  i : BitVec 12
  v : Bool
  key : Option Word
  deriving DecidableEq, Repr
/-- A host write of word 7 of launch slot p. -/
structure Word7Arg where
  p : Fin 16
  v : Word
  deriving DecidableEq, Repr
/-- A host write to launch slot p at a byte offset, of a size in bytes (R389). -/
structure SlotArg where
  p : Fin 16
  off : BitVec 6
  size : Nat
  v : Word
  deriving DecidableEq, Repr
/-- An ATTEST message (R357). -/
structure AttestArg where
  src : BitVec 14
  nonce : BitVec 256
  deriving DecidableEq, Repr
/-- A host write of a BAR0 register. -/
structure BarWriteArg where
  off : BitVec 22
  v : Word
  deriving DecidableEq, Repr
/-- A host read of a BAR0 register. -/
structure BarReadArg where
  off : BitVec 22
  deriving DecidableEq, Repr
/-- An HDM read. -/
structure HdmReadArg where
  pa : BitVec 52
  len : Nat
  deriving DecidableEq, Repr
/-- An HDM write. -/
structure HdmWriteArg where
  pa : BitVec 52
  bytes : List Byte
  deriving DecidableEq, Repr
/-- A fabric response to an outstanding request. -/
structure FabRespArg where
  id : Nat
  status : BitVec 8
  data : List Byte
  deriving DecidableEq, Repr
/-- A host-link completion of an outstanding request (R323). -/
structure HostCplArg where
  id : Nat
  data : List Byte
  deriving DecidableEq, Repr
/-- A port event with its outcome. -/
structure PortArg where
  j : Fin 24
  ok : Bool
  deriving DecidableEq, Repr
/-- CXL port training: whether it trained and the expander's capacity in bytes (R324). -/
structure CxlArg where
  p : Fin 4
  ok : Bool
  cap : Nat
  deriving DecidableEq, Repr
/-- The module power of a window, in W, and the crowns for which the thermal governor requests a step (R353). -/
structure PowerArg where
  watts : BitVec 16
  gov : BitVec 8
  deriving DecidableEq, Repr
/-- A coolant reading: inlet in °C, flow in tenths of a litre per minute (R354). -/
structure CoolArg where
  inlet : BitVec 8
  flow : Nat
  deriving DecidableEq, Repr
/-- One governor sample of a crown: the temperature of each logical batt (R410). -/
structure GovArg where
  k : CrownId
  temps : Vector (BitVec 8) 8
  deriving DecidableEq, Repr
/-- A check of BMAP and its shadow (R408). -/
structure BmapArg where
  k : CrownId
  prim : Ecc
  shadow : Ecc
  deriving DecidableEq, Repr
/-- Where an error is found (R419–R421, R438, Table 20.2): a word of face scratch or weight buffer; a block of DRAM; a block of DRAM
whose controller reports the error for a write; a word of the working bank, of the committed bank, of a plane accumulator; an exact cell
or its spill entry, named by its word; the registers of a unit; an entry of an engine's TLB, of the victim TLB, a line of the I-cache. -/
inductive ScrubWhat
  | face (k : CrownId) (addr : BitVec 32) (e : Ecc)
  | dram (pa : BitVec 52) (e : Ecc)
  | dramWrite (pa : BitVec 52)
  | acc (k : CrownId) (slot : BitVec 5) (row col : BitVec 7)
  | committed (k : CrownId) (slot : BitVec 5) (row col : BitVec 7)
  | plane (k : CrownId) (b : Fin 8) (row col : BitVec 7)
  | cell (pa : BitVec 52)
  | regs (u : UnitId)
  | tlb (u : UnitId) (eng : EngId) (i : Nat)
  | victim (u : UnitId) (i : Nat)
  | icache (u : UnitId) (i : Nat)
  deriving DecidableEq, Repr
/-- An error found, and what finds it: a read made for a unit, or with `none` the patrol scrub (R422). -/
structure ScrubArg where
  what : ScrubWhat
  reader : Option UnitId
  deriving DecidableEq, Repr
/-- A remap lookup that finds errors in its entry's copies (R424). -/
structure RemapArg where
  k : CrownId
  pc : Fin 128
  bank : Fin 16
  row : BitVec 16
  prim : Ecc
  shadow : Ecc
  deriving DecidableEq, Repr
/-- A bank of a pseudo-channel of a crown. -/
structure BankArg where
  k : CrownId
  pc : Fin 128
  bank : Fin 16
  deriving DecidableEq, Repr
/-- A pseudo-channel of a crown. -/
structure PchArg where
  k : CrownId
  pc : Fin 128
  deriving DecidableEq, Repr
/-- A stack's temperature range (R468). -/
structure RangeArg where
  c : Fin 16
  extended : Bool
  deriving DecidableEq, Repr

/-- The instructions and events: one constructor per row of spec/opcode_table.json. Rows that other rows bring about stand
first; what the outside world alone brings about stands last. -/
inductive Instr
  | bundleInstance (a : UnitArg)
  | segmentEnd (a : SegEndArg)
  | marker (a : BitVec 32)
  | nop (a : Fin 12)
  | bT (a : BrCond)
  | bF (a : BrCond)
  | j (a : BrJump)
  | jx (a : BrReg)
  | call (a : BrCall)
  | ret (a : BrReg)
  | loop (a : BrLoop)
  | loopp (a : BrLoopP)
  | lexit (a : GuardOnly)
  | commit (a : GuardOnly)
  | squash (a : GuardOnly)
  | exit (a : GuardOnly)
  | trapi (a : BrTrap)
  | tret (a : GuardOnly)
  | waitn (a : BrWait)
  | add (a : SArith)
  | sub (a : SArith)
  | mul (a : SArith)
  | mulh (a : STwin)
  | mulhn (a : STwin)
  | div (a : STwin)
  | divn (a : STwin)
  | rem (a : STwin)
  | remn (a : STwin)
  | and (a : SLogic)
  | andi (a : SImm)
  | or (a : SLogic)
  | ori (a : SImm)
  | xor (a : SLogic)
  | xori (a : SImm)
  | andn (a : SLogic)
  | addi (a : SImm)
  | shl (a : SLogic)
  | shli (a : SShI)
  | shr (a : SLogic)
  | shri (a : SShI)
  | sar (a : SLogic)
  | sari (a : SShI)
  | rotl (a : SLogic)
  | min (a : STwin)
  | minn (a : STwin)
  | max (a : STwin)
  | maxn (a : STwin)
  | clz (a : SUn)
  | ctz (a : SUn)
  | popc (a : SUn)
  | brev (a : SUn)
  | bext (a : SBext)
  | bins (a : SBins)
  | sext (a : SExt)
  | zext (a : SExt)
  | movi (a : SMovi)
  | sel (a : SSel)
  | cmp (a : SCmp)
  | pset (a : SPset)
  | plog (a : SPlog)
  | fadd (a : SFp2)
  | fsub (a : SFp2)
  | fmul (a : SFp2)
  | ffma (a : SFp3)
  | fdiv (a : SFp2)
  | fsqrt (a : SFp1)
  | fmin (a : SFmm)
  | fmax (a : SFmm)
  | fcmp (a : SFcmp)
  | fcvt (a : SFcvt)
  | fclass (a : SFclass)
  | movcb (a : SMovCb)
  | movq (a : SMovQ)
  | csrr (a : SCsrr)
  | csrw (a : SCsrw)
  | ximm (a : XimmArg)
  | aadd (a : AAdd)
  | aaddi (a : AAddi)
  | amov (a : AMov)
  | aget (a : AMov)
  | amode (a : AMode)
  | lds (a : ALds)
  | sts (a : ASts)
  | xadr (a : XadrArg)
  | vadd (a : VInt2S)
  | vsub (a : VInt2S)
  | vmul (a : VInt2S)
  | vmulh (a : VInt2)
  | vmad (a : VInt3S)
  | vmin (a : VInt2)
  | vmax (a : VInt2)
  | vabs (a : VInt1S)
  | vneg (a : VInt1S)
  | vand (a : VLane2)
  | vor (a : VLane2)
  | vxor (a : VLane2)
  | vnot (a : VLane1)
  | vshl (a : VInt2)
  | vshr (a : VInt2)
  | vsar (a : VInt2)
  | vclmp (a : VInt3)
  | vfadd (a : VFp2)
  | vfsub (a : VFp2)
  | vfmul (a : VFp2)
  | vfma (a : VFp3)
  | vfmin (a : VFmm)
  | vfmax (a : VFmm)
  | vfabs (a : VFsg)
  | vfneg (a : VFsg)
  | vcmp (a : VCmp)
  | vfcmp (a : VFcmp)
  | vsel (a : VSel)
  | vmov (a : VLane1)
  | vbcast (a : VBcast)
  | vext (a : VExt)
  | viota (a : VIota)
  | vperm (a : VLane2)
  | vrot (a : VRot)
  | vshuf (a : VShuf)
  | vred (a : VRedF)
  | vscan (a : VRedF)
  | vcvt (a : VCvt)
  | vpack (a : VPackF)
  | vunpk (a : VUnpkF)
  | vrns (a : VLane1)
  | vcrt (a : VLane1)
  | vexp2 (a : VSpec)
  | vlog2 (a : VSpec)
  | vrcp (a : VSpec)
  | vrsq (a : VSpec)
  | vtanh (a : VSpec)
  | vld (a : MLoad)
  | vldFeC (a : MLoad)
  | vldFeK (a : MLoad)
  | vst (a : MStore)
  | vstF (a : MStore)
  | vstE (a : MStore)
  | vlds (a : MLoadS)
  | vsts (a : MStoreS)
  | vgth (a : MGather)
  | vsct (a : MScatter)
  | accrd (a : MLoad)
  | accwr (a : MStore)
  | feset (a : MFe)
  | feclr (a : MFe)
  | feprob (a : MProb)
  | tmma (a : CbMma)
  | tmmaPkg (a : CbMmaP)
  | tmmaGang (a : CbMmaP)
  | tmmas (a : CbMma)
  | tmmaP (a : CbMmaP)
  | tzero (a : CbSlots)
  | tdrain (a : CbDrain)
  | tload (a : CbSlots)
  | ttrn (a : CbTrn)
  | tjoin (a : CbJoin)
  | tjoinSum (a : CbJoin)
  | tstop (a : CbCtl)
  | tres (a : CbCtl)
  | tprog (a : CbProg)
  | scw (a : ScW)
  | scs (a : ScS)
  | scz (a : GuardOnly)
  | scsel (a : ScSel)
  | cpy (a : CpCopy)
  | cpyw (a : CpWeight)
  | cpyx (a : CpCopy)
  | cpyf (a : CpCopy)
  | amoAdd (a : CpAmo)
  | amoMin (a : CpAmo)
  | amoMax (a : CpAmo)
  | amoAnd (a : CpAmo)
  | amoOr (a : CpAmo)
  | amoXor (a : CpAmo)
  | amoSwp (a : CpAmo)
  | amoCas (a : CpCas)
  | amoFaddx (a : CpAmo)
  | flushx (a : CpFlush)
  | pfh (a : CpPlain)
  | migr (a : CpPlain)
  | cpq (a : CpQ)
  | cpstop (a : CpMask)
  | cpres (a : CpMask)
  | bari (a : SyBari)
  | bara (a : SyBara)
  | barx (a : SyBarx)
  | barw (a : SyBarw)
  | phaseCommit (a : GuardOnly)
  | phaseOn (a : GuardOnly)
  | phaseOff (a : GuardOnly)
  | cbwait (a : GuardOnly)
  | fenceAcq (a : GuardOnly)
  | fenceRel (a : GuardOnly)
  | fenceFull (a : GuardOnly)
  | fenceq (a : CpMask)
  | tpost (a : SyPost)
  | evinc (a : SyEvinc)
  | evwait (a : SyEvwait)
  | tlbi (a : SyTlbi)
  | sldrain (a : CpMask)
  | trcon (a : SyTrc)
  | trcoff (a : SyTrc)
  | pmrd (a : SyPmrd)
  | enrd (a : SyEnrd)
  | gangc (a : GuardOnly)
  | yield (a : GuardOnly)
  | injectionComplete (a : UnitArg)
  | dumpComplete (a : UnitArg)
  | refetchComplete (a : UnitArg)
  | saveRecordComplete (a : UnitArg)
  | exitComplete (a : UnitArg)
  | staticCharge (a : UnitArg)
  | icacheFill (a : UnitArg)
  | copyElement (a : ElemArg)
  | pageWalk (a : EngArg)
  | copyComplete (a : EngArg)
  | fenceMarkerComplete (a : EngArg)
  | evincIncrement (a : UnitArg)
  | tpostRecordWrite (a : UnitArg)
  | tlbiRemoval (a : UnitArg)
  | deferredCauseTaken (a : UnitArg)
  | killEnd (a : UnitArg)
  | watchdog (a : UnitArg)
  | cubeStep (a : UnitArg)
  | cubeCommandComplete (a : UnitArg)
  | planeWrite (a : BattArg)
  | tjoinDrain (a : UnitArg)
  | deliveredCommandStart (a : UnitArg)
  | carderChunkRead (a : Nat)
  | passEnd (a : Nat)
  | fabricIngress (a : FabReq)
  | fabricResponse (a : FabRespArg)
  | gangStartAck (a : GangMsg)
  | gangVote (a : GangMsg)
  | gangCommit (a : GangMsg)
  | gangAbort (a : GangMsg)
  | killReport (a : GangMsg)
  | gangRefused (a : GangMsg)
  | allreduceRoundStart (a : Fin 64)
  | allreducePartial (a : ArMsg)
  | allreduceResult (a : ArMsg)
  | selfRefreshExit (a : PchArg)
  | dispatchDecision (a : Fin 8)
  | shootdown (a : EngArg)
  | shootdownAck
  | powerOnReset (a : BootArg)
  | hostLinkTraining (a : LinkMode)
  | cxlPortTraining (a : CxlArg)
  | segmentBegin
  | vseedWrite (a : UnitWriteArg)
  | preqWrite (a : PreqArg)
  | stopctlStop (a : UnitArg)
  | stopctlGo (a : GoArg)
  | injhdrWrite (a : UnitWriteArg)
  | mhcfgWrite (a : MhcfgArg)
  | pmctlWrite (a : PmArg)
  | cardctlWrite (a : Word)
  | windowRevoke (a : RevokeArg)
  | fpstatRetrain (a : PortArg)
  | launchWord7Write (a : Word7Arg)
  | launchSlotWrite (a : SlotArg)
  | report
  | extend
  | attest (a : AttestArg)
  | registerWrite (a : BarWriteArg)
  | rcRead (a : BarReadArg)
  | decompositionAction
  | packageCommandComplete
  | migrationStart
  | declineRecordWrite
  | hotnessHalve
  | hdmRead (a : HdmReadArg)
  | hdmWrite (a : HdmWriteArg)
  | noResponse (a : Nat)
  | linkRetry (a : Fin 24)
  | retryStorm (a : Fin 24)
  | portRetrainComplete (a : PortArg)
  | gangTimeout (a : BitVec 10)
  | heldAckTimeout (a : GangMsg)
  | abortDecisionExpiry (a : BitVec 10)
  | powerWindow (a : PowerArg)
  | coolantLimit (a : CoolArg)
  | governorSample (a : GovArg)
  | battTrip
  | bmapScrub (a : BmapArg)
  | patrolScrub (a : ScrubArg)
  | remapReload (a : RemapArg)
  | rfm
  | perBankRefresh (a : BankArg)
  | refreshWindowStart (a : PchArg)
  | selfRefreshEntry (a : PchArg)
  | groupRefused (a : ArMsg)
  | counterSetRotate
  | coolantWithinLimits (a : CoolArg)
  | attestationReportSigned
  | fabricPortTraining (a : PortArg)
  | hostLinkCompletion (a : HostCplArg)
  | hbmTemperatureRangeChange (a : RangeArg)
  deriving DecidableEq, Repr

end Sys2Proof
end

