-- ==== Sys2Proof/WellFormed.lean ====
section
/-! DEFINITION. The static limits that the form tables of chapters 08–11 set on the fields of one slot
operation, beyond the types of Syntax.lean. A word that breaks one raises ILLEGAL_OPERAND (R218, R237,
R269, R299); limits that depend on the state (VCTL.DRM, the repeat count, the unit) are tested at issue. -/
namespace Sys2Proof

/-- The set FA of Table 9.1. -/
def Fmt.inFA : Fmt → Bool
  | .bf16 | .f16 | .f32 | .f64 => true
  | _ => false
/-- The set IW of Table 9.1. -/
def Fmt.inIW : Fmt → Bool
  | .i8 | .i16 | .i32 | .n8 | .n16 | .n32 => true
  | _ => false
/-- The set MV of Table 9.1. -/
def Fmt.inMV : Fmt → Bool
  | .i8 | .i16 | .i32 | .n8 | .n16 | .n32 | .e4m3 | .e5m2 | .bf16 | .f16 | .f32 | .rns16 => true
  | _ => false
/-- The width of an element in bits (Table 3.1). -/
def Fmt.bits : Fmt → Nat
  | .i8 | .n8 | .e4m3 | .e5m2 => 8
  | .i16 | .n16 | .bf16 | .f16 | .rns16 => 16
  | .i32 | .n32 | .f32 => 32
  | .i64 | .n64 | .f64 => 64
  | .e2m1 => 4
/-- A floating-point element format. -/
def Fmt.isFloat : Fmt → Bool
  | .e4m3 | .e5m2 | .e2m1 | .bf16 | .f16 | .f32 | .f64 => true
  | _ => false
/-- An unsigned integer format. -/
def Fmt.isUnsigned : Fmt → Bool
  | .n8 | .n16 | .n32 | .n64 => true
  | _ => false
/-- A signed integer format. -/
def Fmt.isSigned : Fmt → Bool
  | .i8 | .i16 | .i32 | .i64 => true
  | _ => false
/-- The formats of FCVT (Table 8.10). -/
def Fmt.inFcvt : Fmt → Bool
  | .i32 | .i64 | .n32 | .n64 | .bf16 | .f16 | .f32 | .f64 => true
  | _ => false
/-- The formats of AMO ADD, AND, OR, XOR, SWP, MIN, MAX (R280). -/
def Fmt.inAmo : Fmt → Bool
  | .i32 | .i64 | .n32 | .n64 => true
  | _ => false
/-- The formats of the special functions (R230). -/
def Fmt.inSpec : Fmt → Bool
  | .bf16 | .f16 | .f32 => true
  | _ => false

/-- The width in bits of a packing code (R228). -/
def PackW.bits : PackW → Nat
  | .w16 => 16
  | .w8 => 8
  | .w4 => 4

/-- A latch that an A or S source names, not a register. -/
def ASrc.isLatch : ASrc → Bool
  | .latch _ => true
  | .reg _ => false

/-- VPACK and VUNPK: FMT consistent with W (R228). -/
def packFmtOk (f : Fmt) (w : PackW) : Bool :=
  (f.inIW && w.bits ≤ f.bits) || (f == .e2m1 && w.bits == 4) ||
    ((f == .e4m3 || f == .e5m2) && w.bits == 8) ||
    ((f == .bf16 || f == .f16 || f == .rns16) && w.bits == 16)

/-- VRED and VSCAN (R226). -/
def redOk (a : VRedF) : Bool :=
  match a.fmt with
  | .i32 | .n32 => a.rm == .rne
  | .f32 => (a.op == .add && a.rm != .sr) || ((a.op == .min || a.op == .max) && a.rm == .rne)
  | _ => false

/-- The arguments of AMODE that are fixed by the word (R216). -/
def amodeOk : AModeArg → Bool
  | .bitrev _ k esh => 1 ≤ k.toNat && k.toNat ≤ 24 && esh.toNat ≤ 12
  | _ => true

/-- The static limits of every form. -/
def Instr.wf : Instr → Bool
  | .plog a => (a.op != .not && a.op != .mov) || a.b == 0
  | .fadd a | .fsub a | .fmul a | .fdiv a => a.fmt.inFA && a.rm != .sr
  | .ffma a => a.fmt.inFA && a.rm != .sr
  | .fsqrt a => a.fmt.inFA && a.rm != .sr
  | .fmin a | .fmax a => a.fmt.inFA
  | .fcmp a => a.fmt.inFA
  | .fclass a => a.fmt.inFA
  | .fcvt a => a.dfmt.inFcvt && a.sfmt.inFcvt && (a.dfmt.isFloat || a.sfmt.isFloat) && a.rm != .sr
  | .amode a => amodeOk a.arg
  | .lds a => !(a.a.isLatch && a.pm)
  | .sts a => !(a.a.isLatch && a.pm)
  | .vadd a | .vsub a | .vmul a => a.fmt.inIW || (a.fmt == .rns16 && !a.sat)
  | .vmulh a | .vmin a | .vmax a | .vshl a | .vshr a | .vsar a => a.fmt.inIW
  | .vmad a => a.fmt.inIW
  | .vclmp a => a.fmt.inIW
  | .vabs a | .vneg a => a.fmt.inIW
  | .vfadd a | .vfsub a | .vfmul a => a.fmt.inFA && a.rm != .sr
  | .vfma a => a.fmt.inFA && a.rm != .sr
  | .vfmin a | .vfmax a => a.fmt.inFA
  | .vfabs a | .vfneg a => a.fmt.inFA
  | .vfcmp a => a.fmt == .f32 || a.fmt == .f64
  | .vbcast a => a.idx.toNat < 4096 / a.fmt.bits
  | .viota a => a.fmt.inIW
  | .vshuf a => a.mode != .clx || a.m.toNat < 8
  | .vred a | .vscan a => redOk a
  | .vcvt a => a.dfmt != .rns16 && a.sfmt != .rns16
  | .vpack a => packFmtOk a.fmt a.w && a.q.toNat < 32 / a.w.bits && (!a.sat || a.fmt.inIW)
  | .vunpk a => packFmtOk a.fmt a.w && a.q.toNat < 32 / a.w.bits
  | .vexp2 a | .vlog2 a | .vrcp a | .vrsq a | .vtanh a => a.fmt.inSpec && a.rm != .sr
  | .vldFeC a | .vldFeK a => a.h.bst == .none
  | .vst a | .vstF a | .vstE a | .accwr a => a.h.bst == .none
  | .vlds a => a.fmt.inMV
  | .vsts a => a.fmt.inMV && a.h.bst == .none
  | .vgth a => a.fmt.inMV
  | .vsct a => a.fmt.inMV && a.h.bst == .none
  | .feset a | .feclr a => a.h.bst == .none
  | .feprob a => a.h.bst == .none
  | .cpyw a => a.qb.toNat ≤ 28
  | .cpyx a => a.qb.toNat ≤ 25
  | .amoAdd a | .amoMin a | .amoMax a | .amoAnd a | .amoOr a | .amoXor a | .amoSwp a =>
      a.qb.toNat ≤ 26 && a.fmt.inAmo
  | .amoFaddx a => a.qb.toNat ≤ 26 && a.fmt.inSpec
  | .amoCas a => a.qb.toNat ≤ 26 && (a.fmt == .n64 || (a.fmt == .n32 && !a.wide))
  | .pfh a => a.qb.toNat ≤ 30
  | .migr a => a.qb.toNat ≤ 29
  | .fenceq a => a.qmask != 0
  | .bari a => a.expect != 0
  | .evinc a => a.inc != 0
  | _ => true

end Sys2Proof
end

