-- ==== Sys2Proof/Decode.lean ====
section
/-! DEFINITION. Decoding: the bundle header (R161–R163), the generic slot word (R165), the operand codes (R90,
R168) and every form of Tables 7.12–7.19 with its field tables of chapters 08–11; then the encoder, written
from the same tables. Decoding is total: a word is an instruction or is refused by the cause R372 names. -/
namespace Sys2Proof

/-- The generic slot word of Tables 7.4 and 7.5 (guarded families). -/
structure RawWord where
  opc : BitVec 8
  bst : BitVec 2
  nw : BitVec 1
  dst : BitVec 7
  sa : BitVec 7
  sb : BitVec 7
  scc : BitVec 7
  gp : BitVec 4
  gn : BitVec 1
  imm : BitVec 20
  deriving DecidableEq, Repr

/-- The fields of a slot word (Tables 7.4, 7.5). -/
def RawWord.ofBits (w : Word) : RawWord :=
  { opc := fld w 56 8, bst := fld w 54 2, nw := fld w 53 1, dst := fld w 46 7, sa := fld w 39 7,
    sb := fld w 32 7, scc := fld w 25 7, gp := fld w 21 4, gn := fld w 20 1, imm := fld w 0 20 }

/-- The slot word with these fields (Tables 7.4, 7.5). -/
def RawWord.toBits (r : RawWord) : Word :=
  r.opc ++ r.bst ++ r.nw ++ r.dst ++ r.sa ++ r.sb ++ r.scc ++ r.gp ++ r.gn ++ r.imm

/-- Why a word is refused (R372, R383, R384). -/
inductive DecErr | illegalOpcode | illegalPrefix | boostIllegal | illegalOperand
  deriving DecidableEq, Repr

/-- The bits of a word that are one-bit fields. -/
abbrev bit1 (b : Bool) : BitVec 1 := BitVec.ofBool b
/-- A one-bit field as a Bool. -/
abbrev asBool (b : BitVec 1) : Bool := b == 1#1

/-- A field that must be zero. -/
def zf {n : Nat} (b : BitVec n) : Option Unit := if b = 0 then some () else none

/-! ### Codes of the small enumerations, each with its encoder -/
/-- A predicate code 0–11 (R166). -/
def decP {n : Nat} (b : BitVec n) : Option PReg := if h : b.toNat < 12 then some ⟨b.toNat, h⟩ else none
/-- The code of a predicate. -/
def encP {n : Nat} (p : PReg) : BitVec n := BitVec.ofNat n p.val
/-- An engine code 0–11 (Table 11.1). -/
def decEng (b : BitVec 4) : Option EngId := if h : b.toNat < 12 then some ⟨b.toNat, h⟩ else none
/-- The code of an engine. -/
def encEng (p : EngId) : BitVec 4 := BitVec.ofNat 4 p.val
/-- A guard (Table 7.5). -/
def decG (r : RawWord) : Option Guard := do
  let p ← decP r.gp
  some { gp := p, neg := asBool r.gn }
/-- A register code 0x00–0x3F. -/
def dec6 (b : BitVec 7) : Option (BitVec 6) := if b.toNat < 64 then some (fld b 0 6) else none
/-- The code of a register. -/
def enc6 (n : BitVec 6) : BitVec 7 := 0#1 ++ n
/-- An address-register code 0x00–0x1F (R168). -/
def dec5 (b : BitVec 7) : Option (BitVec 5) := if b.toNat < 32 then some (fld b 0 5) else none
/-- The code of an address register. -/
def enc5 (n : BitVec 5) : BitVec 7 := 0#2 ++ n
/-- A staging register of cb: codes 0x00–0x0F (R212). -/
def dec4 (b : BitVec 7) : Option (BitVec 4) := if b.toNat < 16 then some (fld b 0 4) else none
/-- The code of a cb register. -/
def enc4 (n : BitVec 4) : BitVec 7 := 0#3 ++ n
/-- The latches of S and A slots (R90, Table 4.2). -/
def decSL (b : BitVec 7) : Option SLatch :=
  if b = 0x40 then some .ls0 else if b = 0x41 then some .ls1 else if b = 0x42 then some .la0
  else if b = 0x43 then some .la1 else none
/-- Their codes. -/
def encSL : SLatch → BitVec 7
  | .ls0 => 0x40 | .ls1 => 0x41 | .la0 => 0x42 | .la1 => 0x43
/-- An S-slot source. -/
def decSS (b : BitVec 7) : Option SSrc :=
  if b.toNat < 64 then some (.reg (fld b 0 6)) else (decSL b).map .latch
/-- Its code. -/
def encSS : SSrc → BitVec 7
  | .reg n => enc6 n
  | .latch l => encSL l
/-- An A-slot source. -/
def decAS (b : BitVec 7) : Option ASrc :=
  if b.toNat < 32 then some (.reg (fld b 0 5)) else (decSL b).map .latch
/-- Its code. -/
def encAS : ASrc → BitVec 7
  | .reg n => enc5 n
  | .latch l => encSL l
/-- The eight latches (R90). -/
def decLat (b : BitVec 7) : Option Latch :=
  if b = 0x40 then some .ls0 else if b = 0x41 then some .ls1 else if b = 0x42 then some .la0
  else if b = 0x43 then some .la1 else if b = 0x44 then some .lv0 else if b = 0x45 then some .lv1
  else if b = 0x46 then some .lvm else if b = 0x47 then some .lac else none
/-- Their codes. -/
def encLat : Latch → BitVec 7
  | .ls0 => 0x40 | .ls1 => 0x41 | .la0 => 0x42 | .la1 => 0x43
  | .lv0 => 0x44 | .lv1 => 0x45 | .lvm => 0x46 | .lac => 0x47
/-- A vector source. -/
def decVS (b : BitVec 7) : Option VSrc :=
  if b.toNat < 64 then some (.reg (fld b 0 6)) else (decLat b).map .latch
/-- Its code. -/
def encVS : VSrc → BitVec 7
  | .reg n => enc6 n
  | .latch l => encLat l
/-- Boost level (Table 7.4); 3 is reserved. -/
def decBst (b : BitVec 2) : Option Boost :=
  if b = 0 then some .none else if b = 1 then some .one else if b = 2 then some .two else none
/-- Its code. -/
def encBst : Boost → BitVec 2
  | .none => 0
  | .one => 1
  | .two => 2
/-- Integer width (Table 8.7). -/
def decW (b : BitVec 2) : Option IWidth :=
  if b = 0 then some .w64 else if b = 1 then some .w32 else if b = 2 then some .w16 else if b = 3 then some .w8 else none
/-- Its code. -/
def encW : IWidth → BitVec 2
  | .w64 => 0
  | .w32 => 1
  | .w16 => 2
  | .w8 => 3
/-- Integer condition (Table 8.9). -/
def decIC (b : BitVec 4) : Option ICond :=
  if b = 0 then some .eq else if b = 1 then some .ne else if b = 2 then some .lt else if b = 3 then some .ge else if b = 4 then some .ltn else if b = 5 then some .gen else if b = 6 then some .le else if b = 7 then some .gt else if b = 8 then some .len else if b = 9 then some .gtn else none
/-- Its code. -/
def encIC : ICond → BitVec 4
  | .eq => 0
  | .ne => 1
  | .lt => 2
  | .ge => 3
  | .ltn => 4
  | .gen => 5
  | .le => 6
  | .gt => 7
  | .len => 8
  | .gtn => 9
/-- Floating condition (Table 8.10). -/
def decFC (b : BitVec 4) : Option FCond :=
  if b = 0 then some .eq else if b = 1 then some .lt else if b = 2 then some .le else if b = 3 then some .un else if b = 4 then some .ne else if b = 5 then some .ge else if b = 6 then some .gt else none
/-- Its code. -/
def encFC : FCond → BitVec 4
  | .eq => 0
  | .lt => 1
  | .le => 2
  | .un => 3
  | .ne => 4
  | .ge => 5
  | .gt => 6
/-- PLOG operation (Table 8.9). -/
def decPL (b : BitVec 3) : Option PLogOp :=
  if b = 0 then some .and else if b = 1 then some .or else if b = 2 then some .xor else if b = 3 then some .andn else if b = 4 then some .not else if b = 5 then some .mov else none
/-- Its code. -/
def encPL : PLogOp → BitVec 3
  | .and => 0
  | .or => 1
  | .xor => 2
  | .andn => 3
  | .not => 4
  | .mov => 5
/-- Element format (Table 3.2). -/
def decFmt (b : BitVec 4) : Option Fmt :=
  if b = 0 then some .i8 else if b = 1 then some .i16 else if b = 2 then some .i32 else if b = 3 then some .i64 else if b = 4 then some .n8 else if b = 5 then some .n16 else if b = 6 then some .n32 else if b = 7 then some .n64 else if b = 8 then some .e4m3 else if b = 9 then some .e5m2 else if b = 10 then some .e2m1 else if b = 11 then some .bf16 else if b = 12 then some .f16 else if b = 13 then some .f32 else if b = 14 then some .f64 else if b = 15 then some .rns16 else none
/-- Its code. -/
def encFmt : Fmt → BitVec 4
  | .i8 => 0
  | .i16 => 1
  | .i32 => 2
  | .i64 => 3
  | .n8 => 4
  | .n16 => 5
  | .n32 => 6
  | .n64 => 7
  | .e4m3 => 8
  | .e5m2 => 9
  | .e2m1 => 10
  | .bf16 => 11
  | .f16 => 12
  | .f32 => 13
  | .f64 => 14
  | .rns16 => 15
/-- Rounding mode (Table 3.3); 7 is reserved. -/
def decRM (b : BitVec 3) : Option RMode :=
  if b = 0 then some .rne else if b = 1 then some .rtz else if b = 2 then some .rdn else if b = 3 then some .rup else if b = 4 then some .rna else if b = 5 then some .sr else if b = 6 then some .dyn else none
/-- Its code. -/
def encRM : RMode → BitVec 3
  | .rne => 0
  | .rtz => 1
  | .rdn => 2
  | .rup => 3
  | .rna => 4
  | .sr => 5
  | .dyn => 6
/-- Reduction (R226). -/
def decRed (b : BitVec 3) : Option RedOp :=
  if b = 0 then some .add else if b = 1 then some .min else if b = 2 then some .max else if b = 3 then some .and else if b = 4 then some .or else if b = 5 then some .xor else none
/-- Its code. -/
def encRed : RedOp → BitVec 3
  | .add => 0
  | .min => 1
  | .max => 2
  | .and => 3
  | .or => 4
  | .xor => 5
/-- Shuffle mode (Table 9.6). -/
def decShuf (b : BitVec 3) : Option ShufMode :=
  if b = 0 then some .xor else if b = 1 then some .rot else if b = 2 then some .bc else if b = 3 then some .clx else none
/-- Its code. -/
def encShuf : ShufMode → BitVec 3
  | .xor => 0
  | .rot => 1
  | .bc => 2
  | .clx => 3
/-- Packing width (R228). -/
def decPW (b : BitVec 2) : Option PackW :=
  if b = 0 then some .w16 else if b = 1 then some .w8 else if b = 2 then some .w4 else none
/-- Its code. -/
def encPW : PackW → BitVec 2
  | .w16 => 0
  | .w8 => 1
  | .w4 => 2
/-- Strength (Table 11.1). -/
def decStr (b : BitVec 2) : Option Strength :=
  if b = 0 then some .weak else if b = 1 then some .strong else if b = 2 then some .acq else if b = 3 then some .rel else none
/-- Its code. -/
def encStr : Strength → BitVec 2
  | .weak => 0
  | .strong => 1
  | .acq => 2
  | .rel => 3
/-- Scalar scratch size (R217). -/
def decSz (b : BitVec 2) : Option LsSize :=
  if b = 0 then some .b1 else if b = 1 then some .b2 else if b = 2 then some .b4 else none
/-- Its code. -/
def encSz : LsSize → BitVec 2
  | .b1 => 0
  | .b2 => 1
  | .b4 => 2
/-- Level at which software issues a tile instruction (Table 10.1). -/
def decLvl (b : BitVec 3) : Option TileLvl :=
  if b = 2 then some .crown else if b = 3 then some .package else if b = 4 then some .gang else none
/-- Its code. -/
def encLvl : TileLvl → BitVec 3
  | .crown => 2
  | .package => 3
  | .gang => 4
/-- TDRAIN format (Table 10.9). -/
def decDF (b : BitVec 3) : Option DrainFmt :=
  if b = 0 then some .raw else if b = 1 then some .bf16 else if b = 2 then some .f16 else none
/-- Its code. -/
def encDF : DrainFmt → BitVec 3
  | .raw => 0
  | .bf16 => 1
  | .f16 => 2
/-- TJOIN plane format (Table 10.1). -/
def decPF (b : BitVec 3) : Option PlaneFmt :=
  if b = 0 then some .f32 else if b = 1 then some .i32 else if b = 2 then some .rns16 else none
/-- Its code. -/
def encPF : PlaneFmt → BitVec 3
  | .f32 => 0
  | .i32 => 1
  | .rns16 => 2
/-- TLBI selector (R292). -/
def decSel (b : BitVec 2) : Option TlbSel :=
  if b = 0 then some .all else if b = 1 then some .asid else if b = 2 then some .page else none
/-- Its code. -/
def encSel : TlbSel → BitVec 2
  | .all => 0
  | .asid => 1
  | .page => 2

/-! ### Headers of the families -/
/-- Guard, boost and NW of an S or A word. -/
def decSHd (s1 : Bool) (r : RawWord) : Option SHd := do
  let g ← decG r
  let b ← decBst r.bst
  some { slot1 := s1, g := g, bst := b, nw := asBool r.nw }
/-- Guard and NW of an S or A word that R179 excludes from boosting. -/
def decG0 (r : RawWord) : Option Guard := do
  zf r.bst
  decG r
/-- Guard of a BR, CB, SC, CP or SY word: BST and NW are zero. -/
def decG00 (r : RawWord) : Option Guard := do
  zf r.nw
  decG0 r
/-- The low 21 bits of a vector word (Table 7.5): FMT, STEP, RM, SAT and the slot-specific bits. -/
structure VLow where
  fmt : BitVec 4
  step : BitVec 2
  rm : BitVec 3
  sat : BitVec 1
  low : BitVec 11
  deriving DecidableEq, Repr
/-- The vector refinement of a word. -/
def RawWord.vlow (r : RawWord) : VLow :=
  let x : BitVec 21 := r.gn ++ r.imm
  { fmt := fld x 17 4, step := fld x 15 2, rm := fld x 12 3, sat := fld x 11 1, low := fld x 0 11 }
/-- The vector refinement as GN and the low twenty bits. -/
def VLow.bits (v : VLow) : BitVec 21 := v.fmt ++ v.step ++ v.rm ++ v.sat ++ v.low
/-- PRED, BST, NW and STEP of a V0 or V1 word. -/
def decVHd (s1 : Bool) (r : RawWord) : Option VHd := do
  let p ← decP r.gp
  let b ← decBst r.bst
  some { slot1 := s1, pred := p, bst := b, nw := asBool r.nw, step := r.vlow.step }
/-- PRED, BST, NW, STEP, AR and PM of a VM word (Table 9.9); RM, SAT and SCC are zero in every VM form. -/
def decMHd (r : RawWord) : Option MHd := do
  let p ← decP r.gp
  let b ← decBst r.bst
  zf r.vlow.rm
  zf r.vlow.sat
  zf r.scc
  some { pred := p, bst := b, nw := asBool r.nw, step := r.vlow.step, ar := fld r.vlow.low 6 5,
         pm := asBool (fld r.vlow.low 5 1) }

/-- An empty word with an opcode. -/
def rawOp (opc : BitVec 8) : RawWord :=
  { opc := opc, bst := 0, nw := 0, dst := 0, sa := 0, sb := 0, scc := 0, gp := 0, gn := 0, imm := 0 }
/-- A word with the header of an S or A form. -/
def rawS (opc : BitVec 8) (h : SHd) : RawWord :=
  { rawOp opc with bst := encBst h.bst, nw := bit1 h.nw, gp := encP h.g.gp, gn := bit1 h.g.neg }
/-- A word with a guard. -/
def rawG (opc : BitVec 8) (g : Guard) : RawWord :=
  { rawOp opc with gp := encP g.gp, gn := bit1 g.neg }
/-- A word with the refinement of a vector form. -/
def rawLow (r : RawWord) (v : VLow) : RawWord :=
  { r with gn := fld v.bits 20 1, imm := fld v.bits 0 20 }
/-- A word with the header of a V0 or V1 form. -/
def rawV (opc : BitVec 8) (h : VHd) (fmt : BitVec 4) (rm : BitVec 3) (sat : BitVec 1) (low : BitVec 11) :
    RawWord :=
  rawLow { rawOp opc with bst := encBst h.bst, nw := bit1 h.nw, gp := encP h.pred }
    { fmt := fmt, step := h.step, rm := rm, sat := sat, low := low }
/-- A word with the header of a VM form. -/
def rawM (opc : BitVec 8) (h : MHd) (fmt : BitVec 4) (low : BitVec 5) : RawWord :=
  rawLow { rawOp opc with bst := encBst h.bst, nw := bit1 h.nw, gp := encP h.pred }
    { fmt := fmt, step := h.step, rm := 0, sat := 0, low := h.ar ++ bit1 h.pm ++ low }

/-! ### One decoder and one encoder for each form -/
/-- Table 8.1. -/
def dec_BrCond (r : RawWord) : Option BrCond := do
  let g ← decG00 r
  let off : BitVec 28 := r.dst ++ r.sa ++ r.sb ++ r.scc
  let p ← decP (fld r.imm 16 4)
  zf (fld r.imm 0 16)
  some { g := g, off := off, bp := p }
/-- The word of BrCond. -/
def enc_BrCond (o : BitVec 8) (a : BrCond) : RawWord :=
  { rawG o a.g with dst := fld a.off 21 7, sa := fld a.off 14 7, sb := fld a.off 7 7, scc := fld a.off 0 7, imm := (encP a.bp : BitVec 4) ++ 0#16 }
/-- Table 8.1. -/
def dec_BrJump (r : RawWord) : Option BrJump := do
  let g ← decG00 r
  let off : BitVec 28 := r.dst ++ r.sa ++ r.sb ++ r.scc
  zf r.imm
  some { g := g, off := off }
/-- The word of BrJump. -/
def enc_BrJump (o : BitVec 8) (a : BrJump) : RawWord :=
  { rawG o a.g with dst := fld a.off 21 7, sa := fld a.off 14 7, sb := fld a.off 7 7, scc := fld a.off 0 7 }
/-- Table 8.1. -/
def dec_BrReg (r : RawWord) : Option BrReg := do
  let g ← decG00 r
  zf r.dst
  zf r.sb
  zf r.scc
  zf r.imm
  let s ← dec6 r.sa
  some { g := g, sa := s }
/-- The word of BrReg. -/
def enc_BrReg (o : BitVec 8) (a : BrReg) : RawWord :=
  { rawG o a.g with sa := enc6 a.sa }
/-- Table 8.1. -/
def dec_BrCall (r : RawWord) : Option BrCall := do
  let g ← decG00 r
  zf r.imm
  let d ← dec6 r.dst
  some { g := g, dst := d, off := r.sa ++ r.sb ++ r.scc }
/-- The word of BrCall. -/
def enc_BrCall (o : BitVec 8) (a : BrCall) : RawWord :=
  { rawG o a.g with dst := enc6 a.dst, sa := fld a.off 14 7, sb := fld a.off 7 7, scc := fld a.off 0 7 }
/-- Table 8.2. -/
def dec_BrLoop (r : RawWord) : Option BrLoop := do
  let g ← decG00 r
  zf r.dst
  let s ← dec6 r.sa
  some { g := g, sa := s, endoff := r.sb ++ r.scc, imm := r.imm }
/-- The word of BrLoop. -/
def enc_BrLoop (o : BitVec 8) (a : BrLoop) : RawWord :=
  { rawG o a.g with sa := enc6 a.sa, sb := fld a.endoff 7 7, scc := fld a.endoff 0 7, imm := a.imm }
/-- Table 8.2. -/
def dec_BrLoopP (r : RawWord) : Option BrLoopP := do
  let g ← decG00 r
  zf r.dst
  let s ← dec6 r.sa
  some { g := g, sa := s, endoff := r.sb ++ r.scc, epi := fld r.imm 17 3, rb := fld r.imm 12 5, imm := fld r.imm 0 12 }
/-- The word of BrLoopP. -/
def enc_BrLoopP (o : BitVec 8) (a : BrLoopP) : RawWord :=
  { rawG o a.g with sa := enc6 a.sa, sb := fld a.endoff 7 7, scc := fld a.endoff 0 7, imm := a.epi ++ a.rb ++ a.imm }
/-- Table 8.5. -/
def dec_BrTrap (r : RawWord) : Option BrTrap := do
  let g ← decG00 r
  zf r.dst
  zf r.sa
  zf r.sb
  zf r.scc
  some { g := g, code := r.imm }
/-- The word of BrTrap. -/
def enc_BrTrap (o : BitVec 8) (a : BrTrap) : RawWord :=
  { rawG o a.g with imm := a.code }
/-- Table 8.5. -/
def dec_BrWait (r : RawWord) : Option BrWait := do
  let g ← decG00 r
  zf r.dst
  zf r.sa
  zf r.sb
  zf r.scc
  some { g := g, qmask := fld r.imm 8 12, n := fld r.imm 0 8 }
/-- The word of BrWait. -/
def enc_BrWait (o : BitVec 8) (a : BrWait) : RawWord :=
  { rawG o a.g with imm := a.qmask ++ a.n }
/-- A word with no field but its guard. -/
def dec_Guard (r : RawWord) : Option GuardOnly := do
  let g ← decG00 r
  zf r.dst
  zf r.sa
  zf r.sb
  zf r.scc
  zf r.imm
  some { g := g }
/-- The word of GuardOnly. -/
def enc_Guard (o : BitVec 8) (a : GuardOnly) : RawWord :=
  rawG o a.g
/-- Tables 8.6, 8.7 with SAT. -/
def dec_SArith (s1 : Bool) (r : RawWord) : Option SArith := do
  let h ← decSHd s1 r
  let d ← dec6 r.dst
  let a ← decSS r.sa
  let b ← decSS r.sb
  zf r.scc
  let w ← decW (fld r.imm 18 2)
  zf (fld r.imm 16 1)
  zf (fld r.imm 0 15)
  some { h := h, dst := d, a := a, b := b, w := w, u := asBool (fld r.imm 17 1), sat := asBool (fld r.imm 15 1) }
/-- The word of SArith. -/
def enc_SArith (o : BitVec 8) (a : SArith) : RawWord :=
  { rawS o a.h with dst := enc6 a.dst, sa := encSS a.a, sb := encSS a.b, imm := encW a.w ++ bit1 a.u ++ 0#1 ++ bit1 a.sat ++ 0#15 }
/-- Tables 8.6, 8.7. -/
def dec_SLogic (s1 : Bool) (r : RawWord) : Option SLogic := do
  let h ← decSHd s1 r
  let d ← dec6 r.dst
  let a ← decSS r.sa
  let b ← decSS r.sb
  zf r.scc
  let w ← decW (fld r.imm 18 2)
  zf (fld r.imm 0 17)
  some { h := h, dst := d, a := a, b := b, w := w, u := asBool (fld r.imm 17 1) }
/-- The word of SLogic. -/
def enc_SLogic (o : BitVec 8) (a : SLogic) : RawWord :=
  { rawS o a.h with dst := enc6 a.dst, sa := encSS a.a, sb := encSS a.b, imm := encW a.w ++ bit1 a.u ++ 0#17 }
/-- Tables 8.6, 8.7 with U fixed by the mnemonic (R205). -/
def dec_STwin (u : Bool) (s1 : Bool) (r : RawWord) : Option STwin := do
  let h ← decSHd s1 r
  let d ← dec6 r.dst
  let a ← decSS r.sa
  let b ← decSS r.sb
  zf r.scc
  let w ← decW (fld r.imm 18 2)
  if fld r.imm 17 1 = bit1 u then
    zf (fld r.imm 0 17)
    some { h := h, dst := d, a := a, b := b, w := w }
  else none
/-- The word of STwin. -/
def enc_STwin (u : Bool) (o : BitVec 8) (a : STwin) : RawWord :=
  { rawS o a.h with dst := enc6 a.dst, sa := encSS a.a, sb := encSS a.b, imm := encW a.w ++ bit1 u ++ 0#17 }
/-- Table 8.6, one source. -/
def dec_SUn (s1 : Bool) (r : RawWord) : Option SUn := do
  let h ← decSHd s1 r
  let d ← dec6 r.dst
  let a ← decSS r.sa
  zf r.sb
  zf r.scc
  let w ← decW (fld r.imm 18 2)
  zf (fld r.imm 0 17)
  some { h := h, dst := d, a := a, w := w, u := asBool (fld r.imm 17 1) }
/-- The word of SUn. -/
def enc_SUn (o : BitVec 8) (a : SUn) : RawWord :=
  { rawS o a.h with dst := enc6 a.dst, sa := encSS a.a, imm := encW a.w ++ bit1 a.u ++ 0#17 }
/-- Table 8.9 CMP. -/
def dec_SCmp (s1 : Bool) (r : RawWord) : Option SCmp := do
  let h ← decSHd s1 r
  let d ← decP r.dst
  let a ← decSS r.sa
  let b ← decSS r.sb
  zf r.scc
  let w ← decW (fld r.imm 18 2)
  zf (fld r.imm 16 2)
  let c ← decIC (fld r.imm 12 4)
  zf (fld r.imm 0 12)
  some { h := h, dst := d, a := a, b := b, w := w, cond := c }
/-- The word of SCmp. -/
def enc_SCmp (o : BitVec 8) (a : SCmp) : RawWord :=
  { rawS o a.h with dst := encP a.dst, sa := encSS a.a, sb := encSS a.b, imm := encW a.w ++ 0#2 ++ encIC a.cond ++ 0#12 }
/-- Table 8.8. -/
def dec_SImm (s1 : Bool) (r : RawWord) : Option SImm := do
  let h ← decSHd s1 r
  let d ← dec6 r.dst
  let a ← decSS r.sa
  zf r.sb
  zf r.scc
  some { h := h, dst := d, a := a, imm := r.imm }
/-- The word of SImm. -/
def enc_SImm (o : BitVec 8) (a : SImm) : RawWord :=
  { rawS o a.h with dst := enc6 a.dst, sa := encSS a.a, imm := a.imm }
/-- Table 8.8. -/
def dec_SMovi (s1 : Bool) (r : RawWord) : Option SMovi := do
  let h ← decSHd s1 r
  let d ← dec6 r.dst
  zf r.sa
  zf r.sb
  zf r.scc
  some { h := h, dst := d, imm := r.imm }
/-- The word of SMovi. -/
def enc_SMovi (o : BitVec 8) (a : SMovi) : RawWord :=
  { rawS o a.h with dst := enc6 a.dst, imm := a.imm }
/-- Table 8.8. -/
def dec_SShI (s1 : Bool) (r : RawWord) : Option SShI := do
  let h ← decSHd s1 r
  let d ← dec6 r.dst
  let a ← decSS r.sa
  zf r.sb
  zf r.scc
  zf (fld r.imm 6 14)
  some { h := h, dst := d, a := a, d := fld r.imm 0 6 }
/-- The word of SShI. -/
def enc_SShI (o : BitVec 8) (a : SShI) : RawWord :=
  { rawS o a.h with dst := enc6 a.dst, sa := encSS a.a, imm := 0#14 ++ a.d }
/-- Table 8.8. -/
def dec_SBext (s1 : Bool) (r : RawWord) : Option SBext := do
  let h ← decSHd s1 r
  let d ← dec6 r.dst
  let a ← decSS r.sa
  zf r.sb
  zf r.scc
  zf (fld r.imm 12 8)
  some { h := h, dst := d, a := a, pos := fld r.imm 6 6, len1 := fld r.imm 0 6 }
/-- The word of SBext. -/
def enc_SBext (o : BitVec 8) (a : SBext) : RawWord :=
  { rawS o a.h with dst := enc6 a.dst, sa := encSS a.a, imm := 0#8 ++ a.pos ++ a.len1 }
/-- Table 8.8. -/
def dec_SBins (s1 : Bool) (r : RawWord) : Option SBins := do
  let h ← decSHd s1 r
  let d ← dec6 r.dst
  let a ← decSS r.sa
  let b ← decSS r.sb
  zf r.scc
  zf (fld r.imm 12 8)
  some { h := h, dst := d, a := a, b := b, pos := fld r.imm 6 6, len1 := fld r.imm 0 6 }
/-- The word of SBins. -/
def enc_SBins (o : BitVec 8) (a : SBins) : RawWord :=
  { rawS o a.h with dst := enc6 a.dst, sa := encSS a.a, sb := encSS a.b, imm := 0#8 ++ a.pos ++ a.len1 }
/-- Table 8.8. -/
def dec_SExt (s1 : Bool) (r : RawWord) : Option SExt := do
  let h ← decSHd s1 r
  let d ← dec6 r.dst
  let a ← decSS r.sa
  zf r.sb
  zf r.scc
  zf (fld r.imm 6 14)
  some { h := h, dst := d, a := a, len1 := fld r.imm 0 6 }
/-- The word of SExt. -/
def enc_SExt (o : BitVec 8) (a : SExt) : RawWord :=
  { rawS o a.h with dst := enc6 a.dst, sa := encSS a.a, imm := 0#14 ++ a.len1 }
/-- R210. -/
def dec_SSel (s1 : Bool) (r : RawWord) : Option SSel := do
  let h ← decSHd s1 r
  let d ← dec6 r.dst
  let a ← decSS r.sa
  let b ← decSS r.sb
  zf r.scc
  let k ← decP (fld r.imm 16 4)
  zf (fld r.imm 0 16)
  some { h := h, dst := d, k := k, a := a, b := b }
/-- The word of SSel. -/
def enc_SSel (o : BitVec 8) (a : SSel) : RawWord :=
  { rawS o a.h with dst := enc6 a.dst, sa := encSS a.a, sb := encSS a.b, imm := (encP a.k : BitVec 4) ++ 0#16 }
/-- Table 8.9 PSET. -/
def dec_SPset (s1 : Bool) (r : RawWord) : Option SPset := do
  let h ← decSHd s1 r
  let d ← decP r.dst
  let a ← decSS r.sa
  let b ← decSS r.sb
  zf r.scc
  zf (fld r.imm 0 4)
  some { h := h, dst := d, a := a, b := b, lo := fld r.imm 12 8, ni := fld r.imm 4 8 }
/-- The word of SPset. -/
def enc_SPset (o : BitVec 8) (a : SPset) : RawWord :=
  { rawS o a.h with dst := encP a.dst, sa := encSS a.a, sb := encSS a.b, imm := a.lo ++ a.ni ++ 0#4 }
/-- Table 8.9 PLOG. -/
def dec_SPlog (s1 : Bool) (r : RawWord) : Option SPlog := do
  let h ← decSHd s1 r
  let d ← decP r.dst
  let a ← decP r.sa
  let b ← decP r.sb
  zf r.scc
  let o ← decPL (fld r.imm 17 3)
  zf (fld r.imm 0 17)
  some { h := h, dst := d, op := o, a := a, b := b }
/-- The word of SPlog. -/
def enc_SPlog (o : BitVec 8) (a : SPlog) : RawWord :=
  { rawS o a.h with dst := encP a.dst, sa := encP a.a, sb := encP a.b, imm := encPL a.op ++ 0#17 }
/-- Table 8.10. -/
def dec_SFp2 (s1 : Bool) (r : RawWord) : Option SFp2 := do
  let h ← decSHd s1 r
  let d ← dec6 r.dst
  let a ← decSS r.sa
  let b ← decSS r.sb
  zf r.scc
  let f ← decFmt (fld r.imm 16 4)
  zf (fld r.imm 15 1)
  let m ← decRM (fld r.imm 12 3)
  zf (fld r.imm 0 12)
  some { h := h, dst := d, a := a, b := b, fmt := f, rm := m }
/-- The word of SFp2. -/
def enc_SFp2 (o : BitVec 8) (a : SFp2) : RawWord :=
  { rawS o a.h with dst := enc6 a.dst, sa := encSS a.a, sb := encSS a.b, imm := encFmt a.fmt ++ 0#1 ++ encRM a.rm ++ 0#12 }
/-- Table 8.10 FFMA. -/
def dec_SFp3 (s1 : Bool) (r : RawWord) : Option SFp3 := do
  let h ← decSHd s1 r
  let d ← dec6 r.dst
  let a ← decSS r.sa
  let b ← decSS r.sb
  let c ← decSS r.scc
  let f ← decFmt (fld r.imm 16 4)
  zf (fld r.imm 15 1)
  let m ← decRM (fld r.imm 12 3)
  zf (fld r.imm 0 12)
  some { h := h, dst := d, a := a, b := b, c := c, fmt := f, rm := m }
/-- The word of SFp3. -/
def enc_SFp3 (o : BitVec 8) (a : SFp3) : RawWord :=
  { rawS o a.h with dst := enc6 a.dst, sa := encSS a.a, sb := encSS a.b, scc := encSS a.c, imm := encFmt a.fmt ++ 0#1 ++ encRM a.rm ++ 0#12 }
/-- Table 8.10 FSQRT. -/
def dec_SFp1 (s1 : Bool) (r : RawWord) : Option SFp1 := do
  let h ← decSHd s1 r
  let d ← dec6 r.dst
  let a ← decSS r.sa
  zf r.sb
  zf r.scc
  let f ← decFmt (fld r.imm 16 4)
  zf (fld r.imm 15 1)
  let m ← decRM (fld r.imm 12 3)
  zf (fld r.imm 0 12)
  some { h := h, dst := d, a := a, fmt := f, rm := m }
/-- The word of SFp1. -/
def enc_SFp1 (o : BitVec 8) (a : SFp1) : RawWord :=
  { rawS o a.h with dst := enc6 a.dst, sa := encSS a.a, imm := encFmt a.fmt ++ 0#1 ++ encRM a.rm ++ 0#12 }
/-- Table 8.10 FMIN, FMAX. -/
def dec_SFmm (s1 : Bool) (r : RawWord) : Option SFmm := do
  let h ← decSHd s1 r
  let d ← dec6 r.dst
  let a ← decSS r.sa
  let b ← decSS r.sb
  zf r.scc
  let f ← decFmt (fld r.imm 16 4)
  zf (fld r.imm 0 16)
  some { h := h, dst := d, a := a, b := b, fmt := f }
/-- The word of SFmm. -/
def enc_SFmm (o : BitVec 8) (a : SFmm) : RawWord :=
  { rawS o a.h with dst := enc6 a.dst, sa := encSS a.a, sb := encSS a.b, imm := encFmt a.fmt ++ 0#16 }
/-- Table 8.10 FCMP. -/
def dec_SFcmp (s1 : Bool) (r : RawWord) : Option SFcmp := do
  let h ← decSHd s1 r
  let d ← decP r.dst
  let a ← decSS r.sa
  let b ← decSS r.sb
  zf r.scc
  let f ← decFmt (fld r.imm 16 4)
  zf (fld r.imm 12 4)
  let c ← decFC (fld r.imm 8 4)
  zf (fld r.imm 0 8)
  some { h := h, dst := d, a := a, b := b, fmt := f, cond := c }
/-- The word of SFcmp. -/
def enc_SFcmp (o : BitVec 8) (a : SFcmp) : RawWord :=
  { rawS o a.h with dst := encP a.dst, sa := encSS a.a, sb := encSS a.b, imm := encFmt a.fmt ++ 0#4 ++ encFC a.cond ++ 0#8 }
/-- Table 8.10 FCVT. -/
def dec_SFcvt (s1 : Bool) (r : RawWord) : Option SFcvt := do
  let h ← decSHd s1 r
  let d ← dec6 r.dst
  let a ← decSS r.sa
  zf r.sb
  zf r.scc
  let f ← decFmt (fld r.imm 16 4)
  let m ← decRM (fld r.imm 12 3)
  let s ← decFmt (fld r.imm 8 4)
  zf (fld r.imm 0 8)
  some { h := h, dst := d, a := a, dfmt := f, sfmt := s, sat := asBool (fld r.imm 15 1), rm := m }
/-- The word of SFcvt. -/
def enc_SFcvt (o : BitVec 8) (a : SFcvt) : RawWord :=
  { rawS o a.h with dst := enc6 a.dst, sa := encSS a.a, imm := encFmt a.dfmt ++ bit1 a.sat ++ encRM a.rm ++ encFmt a.sfmt ++ 0#8 }
/-- Table 8.10 FCLASS. -/
def dec_SFclass (s1 : Bool) (r : RawWord) : Option SFclass := do
  let h ← decSHd s1 r
  let d ← dec6 r.dst
  let a ← decSS r.sa
  zf r.sb
  zf r.scc
  let f ← decFmt (fld r.imm 16 4)
  zf (fld r.imm 0 16)
  some { h := h, dst := d, a := a, fmt := f }
/-- The word of SFclass. -/
def enc_SFclass (o : BitVec 8) (a : SFclass) : RawWord :=
  { rawS o a.h with dst := enc6 a.dst, sa := encSS a.a, imm := encFmt a.fmt ++ 0#16 }
/-- R212. -/
def dec_SMovCb (s1 : Bool) (r : RawWord) : Option SMovCb := do
  let g ← decG0 r
  let d ← dec4 r.dst
  let a ← decSS r.sa
  zf r.sb
  zf r.scc
  zf r.imm
  some { slot1 := s1, g := g, nw := asBool r.nw, dst := d, a := a }
/-- The word of SMovCb. -/
def enc_SMovCb (o : BitVec 8) (a : SMovCb) : RawWord :=
  { rawG o a.g with nw := bit1 a.nw, dst := enc4 a.dst, sa := encSS a.a }
/-- R212. -/
def dec_SMovQ (s1 : Bool) (r : RawWord) : Option SMovQ := do
  let g ← decG0 r
  let d ← dec5 r.dst
  let a ← decSS r.sa
  zf r.sb
  zf r.scc
  zf r.imm
  some { slot1 := s1, g := g, nw := asBool r.nw, dst := d, a := a }
/-- The word of SMovQ. -/
def enc_SMovQ (o : BitVec 8) (a : SMovQ) : RawWord :=
  { rawG o a.g with nw := bit1 a.nw, dst := enc5 a.dst, sa := encSS a.a }
/-- R213. -/
def dec_SCsrr (s1 : Bool) (r : RawWord) : Option SCsrr := do
  let h ← decSHd s1 r
  let d ← dec6 r.dst
  zf r.sa
  zf r.sb
  zf r.scc
  zf (fld r.imm 0 8)
  some { h := h, dst := d, csr := fld r.imm 8 12 }
/-- The word of SCsrr. -/
def enc_SCsrr (o : BitVec 8) (a : SCsrr) : RawWord :=
  { rawS o a.h with dst := enc6 a.dst, imm := a.csr ++ 0#8 }
/-- R213. -/
def dec_SCsrw (s1 : Bool) (r : RawWord) : Option SCsrw := do
  let g ← decG0 r
  let a ← decSS r.sa
  zf r.dst
  zf r.sb
  zf r.scc
  zf (fld r.imm 0 8)
  some { slot1 := s1, g := g, nw := asBool r.nw, a := a, csr := fld r.imm 8 12 }
/-- The word of SCsrw. -/
def enc_SCsrw (o : BitVec 8) (a : SCsrw) : RawWord :=
  { rawG o a.g with nw := bit1 a.nw, sa := encSS a.a, imm := a.csr ++ 0#8 }
/-- Table 8.12. -/
def dec_AAdd (s1 : Bool) (r : RawWord) : Option AAdd := do
  let h ← decSHd s1 r
  let d ← dec5 r.dst
  let a ← decAS r.sa
  let b ← decAS r.sb
  zf r.scc
  zf r.imm
  some { h := h, dst := d, a := a, b := b }
/-- The word of AAdd. -/
def enc_AAdd (o : BitVec 8) (a : AAdd) : RawWord :=
  { rawS o a.h with dst := enc5 a.dst, sa := encAS a.a, sb := encAS a.b }
/-- Table 8.12. -/
def dec_AAddi (s1 : Bool) (r : RawWord) : Option AAddi := do
  let h ← decSHd s1 r
  let d ← dec5 r.dst
  let a ← decAS r.sa
  zf r.sb
  zf r.scc
  zf (fld r.imm 16 4)
  some { h := h, dst := d, a := a, disp := fld r.imm 0 16 }
/-- The word of AAddi. -/
def enc_AAddi (o : BitVec 8) (a : AAddi) : RawWord :=
  { rawS o a.h with dst := enc5 a.dst, sa := encAS a.a, imm := 0#4 ++ a.disp }
/-- Table 8.12. -/
def dec_AMov (s1 : Bool) (r : RawWord) : Option AMov := do
  let h ← decSHd s1 r
  let d ← dec5 r.dst
  let a ← decAS r.sa
  zf r.sb
  zf r.scc
  zf r.imm
  some { h := h, dst := d, a := a }
/-- The word of AMov. -/
def enc_AMov (o : BitVec 8) (a : AMov) : RawWord :=
  { rawS o a.h with dst := enc5 a.dst, sa := encAS a.a }
/-- The arguments of AMODE (R216). -/
def decAModeArg (r : RawWord) : Option AModeArg :=
  if fld r.imm 18 2 = 0#2 then do
    zf r.sa
    zf (fld r.imm 0 18)
    some .plain
  else if fld r.imm 18 2 = 1#2 then do
    zf r.sa
    some (.incr (fld r.imm 0 18))
  else if fld r.imm 18 2 = 2#2 then do
    let a ← decAS r.sa
    some (.modulo a (fld r.imm 0 18))
  else do
    let a ← decAS r.sa
    zf (fld r.imm 10 8)
    some (.bitrev a (fld r.imm 0 5) (fld r.imm 5 5))
/-- Their fields: SA and bits [19:0]. -/
def encAModeArg : AModeArg → BitVec 7 × BitVec 20
  | .plain => (0, 0)
  | .incr i => (0, 1#2 ++ i)
  | .modulo a i => (encAS a, 2#2 ++ i)
  | .bitrev a k e => (encAS a, 3#2 ++ 0#8 ++ e ++ k)
/-- Table 8.12 AMODE. -/
def dec_AMode (s1 : Bool) (r : RawWord) : Option AMode := do
  let h ← decSHd s1 r
  let d ← dec5 r.dst
  zf r.sb
  zf r.scc
  let m ← decAModeArg r
  some { h := h, dst := d, arg := m }
/-- The word of AMode. -/
def enc_AMode (o : BitVec 8) (a : AMode) : RawWord :=
  { rawS o a.h with dst := enc5 a.dst, sa := (encAModeArg a.arg).1, imm := (encAModeArg a.arg).2 }
/-- R217 LDS. -/
def dec_ALds (s1 : Bool) (r : RawWord) : Option ALds := do
  let h ← decSHd s1 r
  let d ← dec5 r.dst
  let a ← decAS r.sa
  zf r.sb
  zf r.scc
  let z ← decSz (fld r.imm 18 2)
  some { h := h, dst := d, a := a, sz := z, sgn := asBool (fld r.imm 17 1), pm := asBool (fld r.imm 16 1), disp := fld r.imm 0 16 }
/-- The word of ALds. -/
def enc_ALds (o : BitVec 8) (a : ALds) : RawWord :=
  { rawS o a.h with dst := enc5 a.dst, sa := encAS a.a, imm := encSz a.sz ++ bit1 a.sgn ++ bit1 a.pm ++ a.disp }
/-- R217 STS. -/
def dec_ASts (s1 : Bool) (r : RawWord) : Option ASts := do
  let g ← decG0 r
  let a ← decAS r.sa
  let b ← decAS r.sb
  zf r.dst
  zf r.scc
  let z ← decSz (fld r.imm 18 2)
  zf (fld r.imm 17 1)
  some { slot1 := s1, g := g, nw := asBool r.nw, a := a, b := b, sz := z, pm := asBool (fld r.imm 16 1), disp := fld r.imm 0 16 }
/-- The word of ASts. -/
def enc_ASts (o : BitVec 8) (a : ASts) : RawWord :=
  { rawG o a.g with nw := bit1 a.nw, sa := encAS a.a, sb := encAS a.b, imm := encSz a.sz ++ 0#1 ++ bit1 a.pm ++ a.disp }
/-- Table 9.2 with .s. -/
def dec_VInt2S (s1 : Bool) (r : RawWord) : Option VInt2S := do
  let h ← decVHd s1 r
  let d ← dec6 r.dst
  let a ← decVS r.sa
  let b ← decVS r.sb
  zf r.scc
  let f ← decFmt r.vlow.fmt
  zf r.vlow.rm
  zf r.vlow.low
  some { h := h, dst := d, a := a, b := b, fmt := f, sat := asBool r.vlow.sat }
/-- The word of VInt2S. -/
def enc_VInt2S (o : BitVec 8) (a : VInt2S) : RawWord :=
  { rawV o a.h (encFmt a.fmt) (0) (bit1 a.sat) (0) with dst := enc6 a.dst, sa := encVS a.a, sb := encVS a.b }
/-- Table 9.2. -/
def dec_VInt2 (s1 : Bool) (r : RawWord) : Option VInt2 := do
  let h ← decVHd s1 r
  let d ← dec6 r.dst
  let a ← decVS r.sa
  let b ← decVS r.sb
  zf r.scc
  let f ← decFmt r.vlow.fmt
  zf r.vlow.rm
  zf r.vlow.sat
  zf r.vlow.low
  some { h := h, dst := d, a := a, b := b, fmt := f }
/-- The word of VInt2. -/
def enc_VInt2 (o : BitVec 8) (a : VInt2) : RawWord :=
  { rawV o a.h (encFmt a.fmt) (0) (0) (0) with dst := enc6 a.dst, sa := encVS a.a, sb := encVS a.b }
/-- Table 9.2 VMAD. -/
def dec_VInt3S (s1 : Bool) (r : RawWord) : Option VInt3S := do
  let h ← decVHd s1 r
  let d ← dec6 r.dst
  let a ← decVS r.sa
  let b ← decVS r.sb
  let c ← decVS r.scc
  let f ← decFmt r.vlow.fmt
  zf r.vlow.rm
  zf r.vlow.low
  some { h := h, dst := d, a := a, b := b, c := c, fmt := f, sat := asBool r.vlow.sat }
/-- The word of VInt3S. -/
def enc_VInt3S (o : BitVec 8) (a : VInt3S) : RawWord :=
  { rawV o a.h (encFmt a.fmt) (0) (bit1 a.sat) (0) with dst := enc6 a.dst, sa := encVS a.a, sb := encVS a.b, scc := encVS a.c }
/-- Table 9.2 VCLMP. -/
def dec_VInt3 (s1 : Bool) (r : RawWord) : Option VInt3 := do
  let h ← decVHd s1 r
  let d ← dec6 r.dst
  let a ← decVS r.sa
  let b ← decVS r.sb
  let c ← decVS r.scc
  let f ← decFmt r.vlow.fmt
  zf r.vlow.rm
  zf r.vlow.sat
  zf r.vlow.low
  some { h := h, dst := d, a := a, b := b, c := c, fmt := f }
/-- The word of VInt3. -/
def enc_VInt3 (o : BitVec 8) (a : VInt3) : RawWord :=
  { rawV o a.h (encFmt a.fmt) (0) (0) (0) with dst := enc6 a.dst, sa := encVS a.a, sb := encVS a.b, scc := encVS a.c }
/-- Table 9.2 VABS, VNEG. -/
def dec_VInt1S (s1 : Bool) (r : RawWord) : Option VInt1S := do
  let h ← decVHd s1 r
  let d ← dec6 r.dst
  let a ← decVS r.sa
  zf r.sb
  zf r.scc
  let f ← decFmt r.vlow.fmt
  zf r.vlow.rm
  zf r.vlow.low
  some { h := h, dst := d, a := a, fmt := f, sat := asBool r.vlow.sat }
/-- The word of VInt1S. -/
def enc_VInt1S (o : BitVec 8) (a : VInt1S) : RawWord :=
  { rawV o a.h (encFmt a.fmt) (0) (bit1 a.sat) (0) with dst := enc6 a.dst, sa := encVS a.a }
/-- Tables 9.2, 9.5, whole lanes. -/
def dec_VLane2 (s1 : Bool) (r : RawWord) : Option VLane2 := do
  let h ← decVHd s1 r
  let d ← dec6 r.dst
  let a ← decVS r.sa
  let b ← decVS r.sb
  zf r.scc
  if r.vlow.fmt = 2#4 then pure () else none
  zf r.vlow.rm
  zf r.vlow.sat
  zf r.vlow.low
  some { h := h, dst := d, a := a, b := b }
/-- The word of VLane2. -/
def enc_VLane2 (o : BitVec 8) (a : VLane2) : RawWord :=
  { rawV o a.h (2) (0) (0) (0) with dst := enc6 a.dst, sa := encVS a.a, sb := encVS a.b }
/-- Tables 9.2, 9.5, whole lanes. -/
def dec_VLane1 (s1 : Bool) (r : RawWord) : Option VLane1 := do
  let h ← decVHd s1 r
  let d ← dec6 r.dst
  let a ← decVS r.sa
  zf r.sb
  zf r.scc
  if r.vlow.fmt = 2#4 then pure () else none
  zf r.vlow.rm
  zf r.vlow.sat
  zf r.vlow.low
  some { h := h, dst := d, a := a }
/-- The word of VLane1. -/
def enc_VLane1 (o : BitVec 8) (a : VLane1) : RawWord :=
  { rawV o a.h (2) (0) (0) (0) with dst := enc6 a.dst, sa := encVS a.a }
/-- R229. -/
def dec_VRns (s1 : Bool) (r : RawWord) : Option VLane1 := do
  let h ← decVHd s1 r
  let d ← dec6 r.dst
  let a ← decVS r.sa
  zf r.sb
  zf r.scc
  if r.vlow.fmt = 15#4 then pure () else none
  zf r.vlow.rm
  zf r.vlow.sat
  zf r.vlow.low
  some { h := h, dst := d, a := a }
/-- The word of VLane1. -/
def enc_VRns (o : BitVec 8) (a : VLane1) : RawWord :=
  { rawV o a.h (15) (0) (0) (0) with dst := enc6 a.dst, sa := encVS a.a }
/-- Table 9.3. -/
def dec_VFp2 (s1 : Bool) (r : RawWord) : Option VFp2 := do
  let h ← decVHd s1 r
  let d ← dec6 r.dst
  let a ← decVS r.sa
  let b ← decVS r.sb
  zf r.scc
  let f ← decFmt r.vlow.fmt
  let m ← decRM r.vlow.rm
  zf r.vlow.sat
  zf r.vlow.low
  some { h := h, dst := d, a := a, b := b, fmt := f, rm := m }
/-- The word of VFp2. -/
def enc_VFp2 (o : BitVec 8) (a : VFp2) : RawWord :=
  { rawV o a.h (encFmt a.fmt) (encRM a.rm) (0) (0) with dst := enc6 a.dst, sa := encVS a.a, sb := encVS a.b }
/-- Table 9.3 VFMA. -/
def dec_VFp3 (s1 : Bool) (r : RawWord) : Option VFp3 := do
  let h ← decVHd s1 r
  let d ← dec6 r.dst
  let a ← decVS r.sa
  let b ← decVS r.sb
  let c ← decVS r.scc
  let f ← decFmt r.vlow.fmt
  let m ← decRM r.vlow.rm
  zf r.vlow.sat
  zf r.vlow.low
  some { h := h, dst := d, a := a, b := b, c := c, fmt := f, rm := m }
/-- The word of VFp3. -/
def enc_VFp3 (o : BitVec 8) (a : VFp3) : RawWord :=
  { rawV o a.h (encFmt a.fmt) (encRM a.rm) (0) (0) with dst := enc6 a.dst, sa := encVS a.a, sb := encVS a.b, scc := encVS a.c }
/-- Table 9.3 VFMIN, VFMAX. -/
def dec_VFmm (s1 : Bool) (r : RawWord) : Option VFmm := do
  let h ← decVHd s1 r
  let d ← dec6 r.dst
  let a ← decVS r.sa
  let b ← decVS r.sb
  zf r.scc
  let f ← decFmt r.vlow.fmt
  zf r.vlow.rm
  zf r.vlow.sat
  zf r.vlow.low
  some { h := h, dst := d, a := a, b := b, fmt := f }
/-- The word of VFmm. -/
def enc_VFmm (o : BitVec 8) (a : VFmm) : RawWord :=
  { rawV o a.h (encFmt a.fmt) (0) (0) (0) with dst := enc6 a.dst, sa := encVS a.a, sb := encVS a.b }
/-- Table 9.3 VFABS, VFNEG. -/
def dec_VFsg (s1 : Bool) (r : RawWord) : Option VFsg := do
  let h ← decVHd s1 r
  let d ← dec6 r.dst
  let a ← decVS r.sa
  zf r.sb
  zf r.scc
  let f ← decFmt r.vlow.fmt
  zf r.vlow.rm
  zf r.vlow.sat
  zf r.vlow.low
  some { h := h, dst := d, a := a, fmt := f }
/-- The word of VFsg. -/
def enc_VFsg (o : BitVec 8) (a : VFsg) : RawWord :=
  { rawV o a.h (encFmt a.fmt) (0) (0) (0) with dst := enc6 a.dst, sa := encVS a.a }
/-- Table 9.4. -/
def dec_VCmp (s1 : Bool) (r : RawWord) : Option VCmp := do
  let h ← decVHd s1 r
  let d ← decP r.dst
  let a ← decVS r.sa
  let b ← decVS r.sb
  zf r.scc
  if r.vlow.fmt = 2#4 then pure () else none
  zf r.vlow.rm
  zf r.vlow.sat
  let c ← decIC (fld r.vlow.low 7 4)
  zf (fld r.vlow.low 0 7)
  some { h := h, dst := d, a := a, b := b, cond := c }
/-- The word of VCmp. -/
def enc_VCmp (o : BitVec 8) (a : VCmp) : RawWord :=
  { rawV o a.h (2) (0) (0) (encIC a.cond ++ 0#7) with dst := encP a.dst, sa := encVS a.a, sb := encVS a.b }
/-- Table 9.4. -/
def dec_VFcmp (s1 : Bool) (r : RawWord) : Option VFcmp := do
  let h ← decVHd s1 r
  let d ← decP r.dst
  let a ← decVS r.sa
  let b ← decVS r.sb
  zf r.scc
  let f ← decFmt r.vlow.fmt
  zf r.vlow.rm
  zf r.vlow.sat
  let c ← decFC (fld r.vlow.low 7 4)
  zf (fld r.vlow.low 0 7)
  some { h := h, dst := d, a := a, b := b, fmt := f, cond := c }
/-- The word of VFcmp. -/
def enc_VFcmp (o : BitVec 8) (a : VFcmp) : RawWord :=
  { rawV o a.h (encFmt a.fmt) (0) (0) (encFC a.cond ++ 0#7) with dst := encP a.dst, sa := encVS a.a, sb := encVS a.b }
/-- Table 9.4. -/
def dec_VSel (s1 : Bool) (r : RawWord) : Option VSel := do
  let h ← decVHd s1 r
  let d ← dec6 r.dst
  let a ← decVS r.sa
  let b ← decVS r.sb
  zf r.scc
  if r.vlow.fmt = 2#4 then pure () else none
  zf r.vlow.rm
  zf r.vlow.sat
  let p ← decP (fld r.vlow.low 7 4)
  zf (fld r.vlow.low 0 7)
  some { h := h, dst := d, selp := p, a := a, b := b }
/-- The word of VSel. -/
def enc_VSel (o : BitVec 8) (a : VSel) : RawWord :=
  { rawV o a.h (2) (0) (0) ((encP a.selp : BitVec 4) ++ 0#7) with dst := enc6 a.dst, sa := encVS a.a, sb := encVS a.b }
/-- Table 9.5. -/
def dec_VBcast (s1 : Bool) (r : RawWord) : Option VBcast := do
  let h ← decVHd s1 r
  let d ← dec6 r.dst
  let a ← decVS r.sa
  zf r.sb
  zf r.scc
  let f ← decFmt r.vlow.fmt
  zf r.vlow.rm
  zf r.vlow.sat
  zf (fld r.vlow.low 10 1)
  some { h := h, dst := d, a := a, fmt := f, idx := fld r.vlow.low 0 10 }
/-- The word of VBcast. -/
def enc_VBcast (o : BitVec 8) (a : VBcast) : RawWord :=
  { rawV o a.h (encFmt a.fmt) (0) (0) (0#1 ++ a.idx) with dst := enc6 a.dst, sa := encVS a.a }
/-- Table 9.5. -/
def dec_VExt (s1 : Bool) (r : RawWord) : Option VExt := do
  let h ← decVHd s1 r
  let d ← dec6 r.dst
  let a ← decVS r.sa
  let b ← decVS r.sb
  zf r.scc
  if r.vlow.fmt = 2#4 then pure () else none
  zf r.vlow.rm
  zf r.vlow.sat
  zf (fld r.vlow.low 7 4)
  some { h := h, dst := d, a := a, b := b, k := fld r.vlow.low 0 7 }
/-- The word of VExt. -/
def enc_VExt (o : BitVec 8) (a : VExt) : RawWord :=
  { rawV o a.h (2) (0) (0) (0#4 ++ a.k) with dst := enc6 a.dst, sa := encVS a.a, sb := encVS a.b }
/-- Table 9.5. -/
def dec_VIota (s1 : Bool) (r : RawWord) : Option VIota := do
  let h ← decVHd s1 r
  let d ← dec6 r.dst
  zf r.sa
  zf r.sb
  zf r.scc
  let f ← decFmt r.vlow.fmt
  zf r.vlow.rm
  zf r.vlow.sat
  some { h := h, dst := d, fmt := f, base := r.vlow.low }
/-- The word of VIota. -/
def enc_VIota (o : BitVec 8) (a : VIota) : RawWord :=
  { rawV o a.h (encFmt a.fmt) (0) (0) (a.base) with dst := enc6 a.dst }
/-- Table 9.5. -/
def dec_VRot (s1 : Bool) (r : RawWord) : Option VRot := do
  let h ← decVHd s1 r
  let d ← dec6 r.dst
  let a ← decVS r.sa
  zf r.sb
  zf r.scc
  if r.vlow.fmt = 2#4 then pure () else none
  zf r.vlow.rm
  zf r.vlow.sat
  zf (fld r.vlow.low 7 4)
  some { h := h, dst := d, a := a, k := fld r.vlow.low 0 7 }
/-- The word of VRot. -/
def enc_VRot (o : BitVec 8) (a : VRot) : RawWord :=
  { rawV o a.h (2) (0) (0) (0#4 ++ a.k) with dst := enc6 a.dst, sa := encVS a.a }
/-- Table 9.6. -/
def dec_VShuf (s1 : Bool) (r : RawWord) : Option VShuf := do
  let h ← decVHd s1 r
  let d ← dec6 r.dst
  let a ← decVS r.sa
  zf r.sb
  zf r.scc
  if r.vlow.fmt = 2#4 then pure () else none
  zf r.vlow.rm
  zf r.vlow.sat
  let s ← decShuf (fld r.vlow.low 8 3)
  zf (fld r.vlow.low 4 4)
  some { h := h, dst := d, a := a, mode := s, m := fld r.vlow.low 0 4 }
/-- The word of VShuf. -/
def enc_VShuf (o : BitVec 8) (a : VShuf) : RawWord :=
  { rawV o a.h (2) (0) (0) (encShuf a.mode ++ 0#4 ++ a.m) with dst := enc6 a.dst, sa := encVS a.a }
/-- R226. -/
def dec_VRedF (s1 : Bool) (r : RawWord) : Option VRedF := do
  let h ← decVHd s1 r
  let d ← dec6 r.dst
  let a ← decVS r.sa
  zf r.sb
  zf r.scc
  let f ← decFmt r.vlow.fmt
  let m ← decRM r.vlow.rm
  zf r.vlow.sat
  let o ← decRed (fld r.vlow.low 8 3)
  zf (fld r.vlow.low 0 7)
  some { h := h, dst := d, a := a, op := o, cl := asBool (fld r.vlow.low 7 1), fmt := f, rm := m }
/-- The word of VRedF. -/
def enc_VRedF (o : BitVec 8) (a : VRedF) : RawWord :=
  { rawV o a.h (encFmt a.fmt) (encRM a.rm) (0) (encRed a.op ++ bit1 a.cl ++ 0#7) with dst := enc6 a.dst, sa := encVS a.a }
/-- R227. -/
def dec_VCvt (s1 : Bool) (r : RawWord) : Option VCvt := do
  let h ← decVHd s1 r
  let d ← dec6 r.dst
  let a ← decVS r.sa
  zf r.sb
  zf r.scc
  let f ← decFmt r.vlow.fmt
  let m ← decRM r.vlow.rm
  let s ← decFmt (fld r.vlow.low 7 4)
  zf (fld r.vlow.low 0 7)
  some { h := h, dst := d, a := a, dfmt := f, sfmt := s, sat := asBool r.vlow.sat, rm := m }
/-- The word of VCvt. -/
def enc_VCvt (o : BitVec 8) (a : VCvt) : RawWord :=
  { rawV o a.h (encFmt a.dfmt) (encRM a.rm) (bit1 a.sat) (encFmt a.sfmt ++ 0#7) with dst := enc6 a.dst, sa := encVS a.a }
/-- R228. -/
def dec_VPackF (s1 : Bool) (r : RawWord) : Option VPackF := do
  let h ← decVHd s1 r
  let d ← dec6 r.dst
  let a ← decVS r.sa
  zf r.sb
  zf r.scc
  let f ← decFmt r.vlow.fmt
  zf r.vlow.rm
  let w ← decPW (fld r.vlow.low 9 2)
  zf (fld r.vlow.low 0 6)
  some { h := h, dst := d, a := a, fmt := f, w := w, q := fld r.vlow.low 6 3, sat := asBool r.vlow.sat }
/-- The word of VPackF. -/
def enc_VPackF (o : BitVec 8) (a : VPackF) : RawWord :=
  { rawV o a.h (encFmt a.fmt) (0) (bit1 a.sat) (encPW a.w ++ a.q ++ 0#6) with dst := enc6 a.dst, sa := encVS a.a }
/-- R228. -/
def dec_VUnpkF (s1 : Bool) (r : RawWord) : Option VUnpkF := do
  let h ← decVHd s1 r
  let d ← dec6 r.dst
  let a ← decVS r.sa
  zf r.sb
  zf r.scc
  let f ← decFmt r.vlow.fmt
  zf r.vlow.rm
  zf r.vlow.sat
  let w ← decPW (fld r.vlow.low 9 2)
  zf (fld r.vlow.low 0 6)
  some { h := h, dst := d, a := a, fmt := f, w := w, q := fld r.vlow.low 6 3 }
/-- The word of VUnpkF. -/
def enc_VUnpkF (o : BitVec 8) (a : VUnpkF) : RawWord :=
  { rawV o a.h (encFmt a.fmt) (0) (0) (encPW a.w ++ a.q ++ 0#6) with dst := enc6 a.dst, sa := encVS a.a }
/-- R230. -/
def dec_VSpec (r : RawWord) : Option VSpec := do
  let h ← decVHd true r
  let d ← dec6 r.dst
  let a ← decVS r.sa
  zf r.sb
  zf r.scc
  let f ← decFmt r.vlow.fmt
  let m ← decRM r.vlow.rm
  zf r.vlow.sat
  zf r.vlow.low
  some { pred := h.pred, bst := h.bst, nw := h.nw, step := h.step, dst := d, a := a, fmt := f, rm := m }
/-- The word of VSpec. -/
def enc_VSpec (o : BitVec 8) (a : VSpec) : RawWord :=
  { rawV o { slot1 := true, pred := a.pred, bst := a.bst, nw := a.nw, step := a.step } (encFmt a.fmt) (encRM a.rm) 0 0 with
      dst := enc6 a.dst, sa := encVS a.a }
/-- Table 9.10 loads; bits [4:0] are tested by the caller. -/
def dec_MLoad (r : RawWord) : Option MLoad := do
  let h ← decMHd r
  let d ← dec6 r.dst
  zf r.sa
  zf r.sb
  zf r.vlow.fmt
  some { h := h, dst := d }
/-- The word of MLoad. -/
def enc_MLoad (o : BitVec 8) (a : MLoad) : RawWord :=
  { rawM o a.h 0 0 with dst := enc6 a.dst }
/-- Table 9.10 stores; bits [4:0] are tested by the caller. -/
def dec_MStore (r : RawWord) : Option MStore := do
  let h ← decMHd r
  let a ← decVS r.sa
  zf r.dst
  zf r.sb
  zf r.vlow.fmt
  some { h := h, a := a }
/-- The word of MStore. -/
def enc_MStore (o : BitVec 8) (a : MStore) : RawWord :=
  { rawM o a.h 0 0 with sa := encVS a.a }
/-- Table 9.10 VLDS. -/
def dec_MLoadS (r : RawWord) : Option MLoadS := do
  let h ← decMHd r
  let d ← dec6 r.dst
  zf r.sa
  zf r.sb
  let f ← decFmt r.vlow.fmt
  some { h := h, dst := d, fmt := f, as := fld r.vlow.low 0 5 }
/-- The word of MLoadS. -/
def enc_MLoadS (o : BitVec 8) (a : MLoadS) : RawWord :=
  { rawM o a.h (encFmt a.fmt) a.as with dst := enc6 a.dst }
/-- Table 9.10 VSTS. -/
def dec_MStoreS (r : RawWord) : Option MStoreS := do
  let h ← decMHd r
  let a ← decVS r.sa
  zf r.dst
  zf r.sb
  let f ← decFmt r.vlow.fmt
  some { h := h, a := a, fmt := f, as := fld r.vlow.low 0 5 }
/-- The word of MStoreS. -/
def enc_MStoreS (o : BitVec 8) (a : MStoreS) : RawWord :=
  { rawM o a.h (encFmt a.fmt) a.as with sa := encVS a.a }
/-- Table 9.10 VGTH. -/
def dec_MGather (r : RawWord) : Option MGather := do
  let h ← decMHd r
  let d ← dec6 r.dst
  zf r.sa
  let b ← decVS r.sb
  let f ← decFmt r.vlow.fmt
  zf (fld r.vlow.low 0 5)
  some { h := h, dst := d, b := b, fmt := f }
/-- The word of MGather. -/
def enc_MGather (o : BitVec 8) (a : MGather) : RawWord :=
  { rawM o a.h (encFmt a.fmt) 0 with dst := enc6 a.dst, sb := encVS a.b }
/-- Table 9.10 VSCT. -/
def dec_MScatter (r : RawWord) : Option MScatter := do
  let h ← decMHd r
  zf r.dst
  let a ← decVS r.sa
  let b ← decVS r.sb
  let f ← decFmt r.vlow.fmt
  zf (fld r.vlow.low 0 5)
  some { h := h, a := a, b := b, fmt := f }
/-- The word of MScatter. -/
def enc_MScatter (o : BitVec 8) (a : MScatter) : RawWord :=
  { rawM o a.h (encFmt a.fmt) 0 with sa := encVS a.a, sb := encVS a.b }
/-- Table 9.10 FESET, FECLR. -/
def dec_MFe (r : RawWord) : Option MFe := do
  let h ← decMHd r
  zf r.dst
  zf r.sa
  zf r.sb
  zf r.vlow.fmt
  zf (fld r.vlow.low 0 5)
  some { h := h }
/-- The word of MFe. -/
def enc_MFe (o : BitVec 8) (a : MFe) : RawWord :=
  rawM o a.h 0 0
/-- Table 9.10 FEPROB. -/
def dec_MProb (r : RawWord) : Option MProb := do
  let h ← decMHd r
  let d ← decP r.dst
  zf r.sa
  zf r.sb
  zf r.vlow.fmt
  zf (fld r.vlow.low 0 5)
  some { h := h, dst := d }
/-- The word of MProb. -/
def enc_MProb (o : BitVec 8) (a : MProb) : RawWord :=
  { rawM o a.h 0 0 with dst := encP a.dst }
/-- The low five bits of a VM word (Table 9.9): FEM in [4:3]. -/
def rawFem (r : RawWord) (fem : BitVec 2) : RawWord := { r with imm := r.imm ||| (0#15 ++ fem ++ 0#3) }
/-- The LVL field of a CB word (Table 10.1). -/
abbrev lvlOf (r : RawWord) : BitVec 3 := fld r.imm 9 3
/-- Table 10.1, TMMA and TMMAS at CROWN level. -/
def dec_CbMma (r : RawWord) : Option CbMma := do
  let g ← decG00 r
  zf r.dst
  zf r.sa
  zf r.sb
  zf r.scc
  zf (fld r.imm 5 3)
  if lvlOf r = 2#3 then pure () else none
  some { g := g, lm := fld r.imm 12 8, z := asBool (fld r.imm 8 1), acc := fld r.imm 0 5 }
/-- The word of CbMma. -/
def enc_CbMma (o : BitVec 8) (a : CbMma) : RawWord :=
  { rawG o a.g with imm := a.lm ++ 2#3 ++ bit1 a.z ++ 0#3 ++ a.acc }
/-- Table 10.1: TMMA at PACKAGE or GANG level, TMMA.P; ACC and SUB are zero. -/
def dec_CbMmaP (lvl : BitVec 3) (r : RawWord) : Option CbMmaP := do
  let g ← decG00 r
  zf r.dst
  zf r.sa
  zf r.sb
  zf r.scc
  zf (fld r.imm 0 8)
  if lvlOf r = lvl then pure () else none
  some { g := g, lm := fld r.imm 12 8, z := asBool (fld r.imm 8 1) }
/-- The word of CbMmaP. -/
def enc_CbMmaP (lvl : BitVec 3) (o : BitVec 8) (a : CbMmaP) : RawWord :=
  { rawG o a.g with imm := a.lm ++ lvl ++ bit1 a.z ++ 0#8 }
/-- Table 10.1 TZERO, TLOAD. -/
def dec_CbSlots (r : RawWord) : Option CbSlots := do
  let g ← decG00 r
  zf r.dst
  zf r.sa
  zf r.sb
  zf r.scc
  zf (fld r.imm 17 3)
  zf (fld r.imm 5 4)
  if lvlOf r = 2#3 then pure () else none
  some { g := g, n1 := fld r.imm 12 5, acc := fld r.imm 0 5 }
/-- The word of CbSlots. -/
def enc_CbSlots (o : BitVec 8) (a : CbSlots) : RawWord :=
  { rawG o a.g with imm := 0#3 ++ a.n1 ++ 2#3 ++ 0#4 ++ a.acc }
/-- Table 10.1 TDRAIN. -/
def dec_CbDrain (r : RawWord) : Option CbDrain := do
  let g ← decG00 r
  zf r.dst
  zf r.sa
  zf r.sb
  zf r.scc
  zf (fld r.imm 17 3)
  zf (fld r.imm 8 1)
  if lvlOf r = 2#3 then pure () else none
  let f ← decDF (fld r.imm 5 3)
  some { g := g, n1 := fld r.imm 12 5, acc := fld r.imm 0 5, fmt := f }
/-- The word of CbDrain. -/
def enc_CbDrain (o : BitVec 8) (a : CbDrain) : RawWord :=
  { rawG o a.g with imm := 0#3 ++ a.n1 ++ 2#3 ++ 0#1 ++ encDF a.fmt ++ a.acc }
/-- Table 10.1 TTRN. -/
def dec_CbTrn (r : RawWord) : Option CbTrn := do
  let g ← decG00 r
  zf r.dst
  zf r.sa
  zf r.sb
  zf r.scc
  zf (fld r.imm 12 8)
  zf (fld r.imm 0 9)
  if lvlOf r = 2#3 then pure () else none
  some { g := g }
/-- The word of CbTrn. -/
def enc_CbTrn (o : BitVec 8) (a : CbTrn) : RawWord :=
  { rawG o a.g with imm := 0#8 ++ 2#3 ++ 0#9 }
/-- Table 10.1: TJOIN, with SUM in bit 8. -/
def dec_CbJoin (sum : Bool) (r : RawWord) : Option CbJoin := do
  let g ← decG00 r
  zf r.dst
  zf r.sa
  zf r.sb
  zf r.scc
  if lvlOf r = 2#3 then pure () else none
  let f ← decPF (fld r.imm 5 3)
  if fld r.imm 8 1 = bit1 sum then some { g := g, lm := fld r.imm 12 8, fmt := f, acc := fld r.imm 0 5 } else none
/-- The word of CbJoin. -/
def enc_CbJoin (sum : Bool) (o : BitVec 8) (a : CbJoin) : RawWord :=
  { rawG o a.g with imm := a.lm ++ 2#3 ++ bit1 sum ++ encPF a.fmt ++ a.acc }
/-- Table 10.1 TSTOP, TRES. -/
def dec_CbCtl (r : RawWord) : Option CbCtl := do
  let g ← decG00 r
  zf r.dst
  zf r.sa
  zf r.sb
  zf r.scc
  zf (fld r.imm 12 8)
  zf (fld r.imm 0 9)
  let l ← decLvl (lvlOf r)
  some { g := g, lvl := l }
/-- The word of CbCtl. -/
def enc_CbCtl (o : BitVec 8) (a : CbCtl) : RawWord :=
  { rawG o a.g with imm := 0#8 ++ encLvl a.lvl ++ 0#9 }
/-- Table 10.1 TPROG. -/
def dec_CbProg (r : RawWord) : Option CbProg := do
  let g ← decG00 r
  let d ← dec6 r.dst
  zf r.sa
  zf r.sb
  zf r.scc
  zf (fld r.imm 12 8)
  zf (fld r.imm 0 9)
  let l ← decLvl (lvlOf r)
  some { g := g, lvl := l, dst := d }
/-- The word of CbProg. -/
def enc_CbProg (o : BitVec 8) (a : CbProg) : RawWord :=
  { rawG o a.g with dst := enc6 a.dst, imm := 0#8 ++ encLvl a.lvl ++ 0#9 }
/-- Table 10.6. -/
def dec_ScW (r : RawWord) : Option ScW := do
  let g ← decG00 r
  let a ← decVS r.sa
  zf r.dst
  zf r.sb
  zf r.scc
  zf (fld r.imm 17 3)
  zf (fld r.imm 0 8)
  some { g := g, a := a, step := fld r.imm 15 2, ar := fld r.imm 10 5, pm := asBool (fld r.imm 9 1), bk := asBool (fld r.imm 8 1) }
/-- The word of ScW. -/
def enc_ScW (o : BitVec 8) (a : ScW) : RawWord :=
  { rawG o a.g with sa := encVS a.a, imm := 0#3 ++ a.step ++ a.ar ++ bit1 a.pm ++ bit1 a.bk ++ 0#8 }
/-- Table 10.6. -/
def dec_ScS (r : RawWord) : Option ScS := do
  let g ← decG00 r
  zf r.dst
  zf r.sa
  zf r.sb
  zf r.scc
  zf (fld r.imm 9 3)
  zf (fld r.imm 0 8)
  some { g := g, e := fld r.imm 12 8, bk := asBool (fld r.imm 8 1) }
/-- The word of ScS. -/
def enc_ScS (o : BitVec 8) (a : ScS) : RawWord :=
  { rawG o a.g with imm := a.e ++ 0#3 ++ bit1 a.bk ++ 0#8 }
/-- Table 10.6. -/
def dec_ScSel (r : RawWord) : Option ScSel := do
  let g ← decG00 r
  zf r.dst
  zf r.sa
  zf r.sb
  zf r.scc
  zf (fld r.imm 2 18)
  some { g := g, mode := fld r.imm 0 2 }
/-- The word of ScSel. -/
def enc_ScSel (o : BitVec 8) (a : ScSel) : RawWord :=
  { rawG o a.g with imm := 0#18 ++ a.mode }
/-- Table 11.1. -/
def dec_CpCopy (r : RawWord) : Option CpCopy := do
  let g ← decG00 r
  zf r.dst
  zf r.sa
  zf r.sb
  zf r.scc
  let e ← decEng (fld r.imm 16 4)
  let s ← decStr (fld r.imm 14 2)
  zf (fld r.imm 0 3)
  some { g := g, eng := e, str := s, qb := fld r.imm 9 5, bar := fld r.imm 4 5, be := asBool (fld r.imm 3 1) }
/-- The word of CpCopy. -/
def enc_CpCopy (o : BitVec 8) (a : CpCopy) : RawWord :=
  { rawG o a.g with imm := encEng a.eng ++ encStr a.str ++ a.qb ++ a.bar ++ bit1 a.be ++ 0#3 }
/-- Table 11.1 CPYW. -/
def dec_CpWeight (r : RawWord) : Option CpWeight := do
  let g ← decG00 r
  zf r.dst
  zf r.sa
  zf r.sb
  zf r.scc
  let e ← decEng (fld r.imm 16 4)
  zf (fld r.imm 14 2)
  zf (fld r.imm 0 3)
  some { g := g, eng := e, qb := fld r.imm 9 5, bar := fld r.imm 4 5, be := asBool (fld r.imm 3 1) }
/-- The word of CpWeight. -/
def enc_CpWeight (o : BitVec 8) (a : CpWeight) : RawWord :=
  { rawG o a.g with imm := encEng a.eng ++ 0#2 ++ a.qb ++ a.bar ++ bit1 a.be ++ 0#3 }
/-- Table 11.1 AMO. -/
def dec_CpAmo (r : RawWord) : Option CpAmo := do
  let g ← decG00 r
  zf r.dst
  zf r.sa
  zf r.sb
  zf r.scc
  let e ← decEng (fld r.imm 16 4)
  let s ← decStr (fld r.imm 14 2)
  let f ← decFmt (fld r.imm 5 4)
  zf (fld r.imm 4 1)
  zf (fld r.imm 0 3)
  some { g := g, eng := e, str := s, qb := fld r.imm 9 5, fmt := f, ret := asBool (fld r.imm 3 1) }
/-- The word of CpAmo. -/
def enc_CpAmo (o : BitVec 8) (a : CpAmo) : RawWord :=
  { rawG o a.g with imm := encEng a.eng ++ encStr a.str ++ a.qb ++ encFmt a.fmt ++ 0#1 ++ bit1 a.ret ++ 0#3 }
/-- Table 11.1 AMO.CAS. -/
def dec_CpCas (r : RawWord) : Option CpCas := do
  let g ← decG00 r
  zf r.dst
  zf r.sa
  zf r.sb
  zf r.scc
  let e ← decEng (fld r.imm 16 4)
  let s ← decStr (fld r.imm 14 2)
  let f ← decFmt (fld r.imm 5 4)
  zf (fld r.imm 0 3)
  some { g := g, eng := e, str := s, qb := fld r.imm 9 5, fmt := f, wide := asBool (fld r.imm 4 1), ret := asBool (fld r.imm 3 1) }
/-- The word of CpCas. -/
def enc_CpCas (o : BitVec 8) (a : CpCas) : RawWord :=
  { rawG o a.g with imm := encEng a.eng ++ encStr a.str ++ a.qb ++ encFmt a.fmt ++ bit1 a.wide ++ bit1 a.ret ++ 0#3 }
/-- Table 11.1 FLUSHX. -/
def dec_CpFlush (r : RawWord) : Option CpFlush := do
  let g ← decG00 r
  zf r.dst
  zf r.sa
  zf r.sb
  zf r.scc
  let e ← decEng (fld r.imm 16 4)
  let s ← decStr (fld r.imm 14 2)
  zf (fld r.imm 0 9)
  some { g := g, eng := e, str := s, qb := fld r.imm 9 5 }
/-- The word of CpFlush. -/
def enc_CpFlush (o : BitVec 8) (a : CpFlush) : RawWord :=
  { rawG o a.g with imm := encEng a.eng ++ encStr a.str ++ a.qb ++ 0#9 }
/-- Table 11.1 PFH, MIGR. -/
def dec_CpPlain (r : RawWord) : Option CpPlain := do
  let g ← decG00 r
  zf r.dst
  zf r.sa
  zf r.sb
  zf r.scc
  let e ← decEng (fld r.imm 16 4)
  zf (fld r.imm 14 2)
  zf (fld r.imm 0 9)
  some { g := g, eng := e, qb := fld r.imm 9 5 }
/-- The word of CpPlain. -/
def enc_CpPlain (o : BitVec 8) (a : CpPlain) : RawWord :=
  { rawG o a.g with imm := encEng a.eng ++ 0#2 ++ a.qb ++ 0#9 }
/-- Table 11.9 CPQ. -/
def dec_CpQ (r : RawWord) : Option CpQ := do
  let g ← decG00 r
  let d ← dec6 r.dst
  zf r.sa
  zf r.sb
  zf r.scc
  let e ← decEng (fld r.imm 16 4)
  zf (fld r.imm 0 16)
  some { g := g, dst := d, eng := e }
/-- The word of CpQ. -/
def enc_CpQ (o : BitVec 8) (a : CpQ) : RawWord :=
  { rawG o a.g with dst := enc6 a.dst, imm := encEng a.eng ++ 0#16 }
/-- A queue mask in [19:8]. -/
def dec_CpMask (r : RawWord) : Option CpMask := do
  let g ← decG00 r
  zf r.dst
  zf r.sa
  zf r.sb
  zf r.scc
  zf (fld r.imm 0 8)
  some { g := g, qmask := fld r.imm 8 12 }
/-- The word of CpMask. -/
def enc_CpMask (o : BitVec 8) (a : CpMask) : RawWord :=
  { rawG o a.g with imm := a.qmask ++ 0#8 }
/-- Table 11.11. -/
def dec_SyBari (r : RawWord) : Option SyBari := do
  let g ← decG00 r
  zf r.dst
  zf r.sa
  zf r.sb
  zf r.scc
  zf (fld r.imm 0 7)
  some { g := g, n := fld r.imm 15 5, expect := fld r.imm 7 8 }
/-- The word of SyBari. -/
def enc_SyBari (o : BitVec 8) (a : SyBari) : RawWord :=
  { rawG o a.g with imm := a.n ++ a.expect ++ 0#7 }
/-- Table 11.11. -/
def dec_SyBara (r : RawWord) : Option SyBara := do
  let g ← decG00 r
  zf r.dst
  zf r.sa
  zf r.sb
  zf r.scc
  zf (fld r.imm 0 15)
  some { g := g, n := fld r.imm 15 5 }
/-- The word of SyBara. -/
def enc_SyBara (o : BitVec 8) (a : SyBara) : RawWord :=
  { rawG o a.g with imm := a.n ++ 0#15 }
/-- Table 11.11. -/
def dec_SyBarx (r : RawWord) : Option SyBarx := do
  let g ← decG00 r
  zf r.dst
  zf r.sb
  zf r.scc
  let s ← dec6 r.sa
  some { g := g, n := fld r.imm 15 5, sa := s, imm := fld r.imm 0 15 }
/-- The word of SyBarx. -/
def enc_SyBarx (o : BitVec 8) (a : SyBarx) : RawWord :=
  { rawG o a.g with sa := enc6 a.sa, imm := a.n ++ a.imm }
/-- Table 11.11. -/
def dec_SyBarw (r : RawWord) : Option SyBarw := do
  let g ← decG00 r
  zf r.dst
  zf r.sa
  zf r.sb
  zf r.scc
  zf (fld r.imm 0 14)
  some { g := g, n := fld r.imm 15 5, q := asBool (fld r.imm 14 1) }
/-- The word of SyBarw. -/
def enc_SyBarw (o : BitVec 8) (a : SyBarw) : RawWord :=
  { rawG o a.g with imm := a.n ++ bit1 a.q ++ 0#14 }
/-- PHASE and FENCE: a guard and a code in the immediate (R286, R288). -/
def dec_Code (c : BitVec 20) (r : RawWord) : Option GuardOnly := do
  let g ← decG00 r
  zf r.dst
  zf r.sa
  zf r.sb
  zf r.scc
  if r.imm = c then some { g := g } else none
/-- The word of such a form. -/
def enc_Code (c : BitVec 20) (o : BitVec 8) (a : GuardOnly) : RawWord := { rawG o a.g with imm := c }
/-- Table 11.12. -/
def dec_SyPost (r : RawWord) : Option SyPost := do
  let g ← decG00 r
  zf r.dst
  zf r.sb
  zf r.scc
  let s ← dec6 r.sa
  zf (fld r.imm 0 16)
  some { g := g, sa := s, pool := fld r.imm 16 4 }
/-- The word of SyPost. -/
def enc_SyPost (o : BitVec 8) (a : SyPost) : RawWord :=
  { rawG o a.g with sa := enc6 a.sa, imm := a.pool ++ 0#16 }
/-- Table 11.12. -/
def dec_SyEvinc (r : RawWord) : Option SyEvinc := do
  let g ← decG00 r
  zf r.dst
  zf r.sa
  zf r.sb
  zf r.scc
  some { g := g, c := fld r.imm 8 12, inc := fld r.imm 0 8 }
/-- The word of SyEvinc. -/
def enc_SyEvinc (o : BitVec 8) (a : SyEvinc) : RawWord :=
  { rawG o a.g with imm := a.c ++ a.inc }
/-- Table 11.12. -/
def dec_SyEvwait (r : RawWord) : Option SyEvwait := do
  let g ← decG00 r
  zf r.dst
  zf r.sb
  zf r.scc
  let s ← dec6 r.sa
  zf (fld r.imm 0 8)
  some { g := g, sa := s, c := fld r.imm 8 12 }
/-- The word of SyEvwait. -/
def enc_SyEvwait (o : BitVec 8) (a : SyEvwait) : RawWord :=
  { rawG o a.g with sa := enc6 a.sa, imm := a.c ++ 0#8 }
/-- R292. -/
def dec_SyTlbi (r : RawWord) : Option SyTlbi := do
  let g ← decG00 r
  zf r.dst
  zf r.scc
  let s ← dec6 r.sa
  let t ← dec6 r.sb
  let e ← decSel (fld r.imm 18 2)
  zf (fld r.imm 0 18)
  some { g := g, sel := e, sa := s, sb := t }
/-- The word of SyTlbi. -/
def enc_SyTlbi (o : BitVec 8) (a : SyTlbi) : RawWord :=
  { rawG o a.g with sa := enc6 a.sa, sb := enc6 a.sb, imm := encSel a.sel ++ 0#18 }
/-- R294. -/
def dec_SyTrc (r : RawWord) : Option SyTrc := do
  let g ← decG00 r
  zf r.dst
  zf r.sa
  zf r.sb
  zf r.scc
  zf (fld r.imm 16 4)
  some { g := g, src := fld r.imm 0 16 }
/-- The word of SyTrc. -/
def enc_SyTrc (o : BitVec 8) (a : SyTrc) : RawWord :=
  { rawG o a.g with imm := 0#4 ++ a.src }
/-- R294. -/
def dec_SyPmrd (r : RawWord) : Option SyPmrd := do
  let g ← decG00 r
  let d ← dec6 r.dst
  zf r.sa
  zf r.sb
  zf r.scc
  zf (fld r.imm 6 14)
  some { g := g, dst := d, n := fld r.imm 0 6 }
/-- The word of SyPmrd. -/
def enc_SyPmrd (o : BitVec 8) (a : SyPmrd) : RawWord :=
  { rawG o a.g with dst := enc6 a.dst, imm := 0#14 ++ a.n }
/-- R294. -/
def dec_SyEnrd (r : RawWord) : Option SyEnrd := do
  let g ← decG00 r
  let d ← dec6 r.dst
  zf r.sa
  zf r.sb
  zf r.scc
  zf r.imm
  some { g := g, dst := d }
/-- The word of SyEnrd. -/
def enc_SyEnrd (o : BitVec 8) (a : SyEnrd) : RawWord :=
  { rawG o a.g with dst := enc6 a.dst }

/-! ### Opcode maps (Tables 7.12–7.19) -/
/-- Table 7.12. `none`: no opcode of the slot. -/
def decBr (r : RawWord) : Option (Option Instr) :=
  match r.opc.toNat with
  | 0x1 => some ((dec_BrCond r).map .bT)
  | 0x2 => some ((dec_BrCond r).map .bF)
  | 0x3 => some ((dec_BrJump r).map .j)
  | 0x4 => some ((dec_BrReg r).map .jx)
  | 0x5 => some ((dec_BrCall r).map .call)
  | 0x6 => some ((dec_BrReg r).map .ret)
  | 0x8 => some ((dec_BrLoop r).map .loop)
  | 0x9 => some ((dec_BrLoopP r).map .loopp)
  | 0xa => some ((dec_Guard r).map .lexit)
  | 0xc => some ((dec_Guard r).map .commit)
  | 0xd => some ((dec_Guard r).map .squash)
  | 0x10 => some ((dec_Guard r).map .exit)
  | 0x11 => some ((dec_BrTrap r).map .trapi)
  | 0x12 => some ((dec_Guard r).map .tret)
  | 0x13 => some ((dec_BrWait r).map .waitn)
  | _ => none
/-- Table 7.13. `none`: no opcode of the slot. -/
def decS (s1 : Bool) (r : RawWord) : Option (Option Instr) :=
  match r.opc.toNat with
  | 0x1 => some ((dec_SArith s1 r).map .add)
  | 0x2 => some ((dec_SImm s1 r).map .addi)
  | 0x3 => some ((dec_SArith s1 r).map .sub)
  | 0x4 => some ((dec_SArith s1 r).map .mul)
  | 0x5 => some ((dec_STwin false s1 r).map .mulh)
  | 0x6 => some ((dec_STwin true s1 r).map .mulhn)
  | 0x7 => some ((dec_STwin false s1 r).map .div)
  | 0x8 => some ((dec_STwin true s1 r).map .divn)
  | 0x9 => some ((dec_STwin false s1 r).map .rem)
  | 0xa => some ((dec_STwin true s1 r).map .remn)
  | 0x10 => some ((dec_SLogic s1 r).map .and)
  | 0x11 => some ((dec_SImm s1 r).map .andi)
  | 0x12 => some ((dec_SLogic s1 r).map .or)
  | 0x13 => some ((dec_SImm s1 r).map .ori)
  | 0x14 => some ((dec_SLogic s1 r).map .xor)
  | 0x15 => some ((dec_SImm s1 r).map .xori)
  | 0x16 => some ((dec_SLogic s1 r).map .andn)
  | 0x17 => some ((dec_SLogic s1 r).map .shl)
  | 0x18 => some ((dec_SShI s1 r).map .shli)
  | 0x19 => some ((dec_SLogic s1 r).map .shr)
  | 0x1a => some ((dec_SShI s1 r).map .shri)
  | 0x1b => some ((dec_SLogic s1 r).map .sar)
  | 0x1c => some ((dec_SShI s1 r).map .sari)
  | 0x1d => some ((dec_SLogic s1 r).map .rotl)
  | 0x20 => some ((dec_STwin false s1 r).map .min)
  | 0x21 => some ((dec_STwin true s1 r).map .minn)
  | 0x22 => some ((dec_STwin false s1 r).map .max)
  | 0x23 => some ((dec_STwin true s1 r).map .maxn)
  | 0x28 => some ((dec_SUn s1 r).map .clz)
  | 0x29 => some ((dec_SUn s1 r).map .ctz)
  | 0x2a => some ((dec_SUn s1 r).map .popc)
  | 0x2b => some ((dec_SUn s1 r).map .brev)
  | 0x2c => some ((dec_SBext s1 r).map .bext)
  | 0x2d => some ((dec_SBins s1 r).map .bins)
  | 0x2e => some ((dec_SExt s1 r).map .sext)
  | 0x2f => some ((dec_SExt s1 r).map .zext)
  | 0x30 => some ((dec_SMovi s1 r).map .movi)
  | 0x31 => some ((dec_SSel s1 r).map .sel)
  | 0x32 => some ((dec_SCmp s1 r).map .cmp)
  | 0x33 => some ((dec_SPset s1 r).map .pset)
  | 0x34 => some ((dec_SPlog s1 r).map .plog)
  | 0x40 => some ((dec_SFp2 s1 r).map .fadd)
  | 0x41 => some ((dec_SFp2 s1 r).map .fsub)
  | 0x42 => some ((dec_SFp2 s1 r).map .fmul)
  | 0x43 => some ((dec_SFp3 s1 r).map .ffma)
  | 0x44 => some ((dec_SFp2 s1 r).map .fdiv)
  | 0x45 => some ((dec_SFp1 s1 r).map .fsqrt)
  | 0x46 => some ((dec_SFmm s1 r).map .fmin)
  | 0x47 => some ((dec_SFmm s1 r).map .fmax)
  | 0x48 => some ((dec_SFcmp s1 r).map .fcmp)
  | 0x49 => some ((dec_SFcvt s1 r).map .fcvt)
  | 0x4a => some ((dec_SFclass s1 r).map .fclass)
  | 0x50 => some ((dec_SMovCb s1 r).map .movcb)
  | 0x51 => some ((dec_SMovQ s1 r).map .movq)
  | 0x52 => some ((dec_SCsrr s1 r).map .csrr)
  | 0x53 => some ((dec_SCsrw s1 r).map .csrw)
  | _ => none
/-- Table 7.14. `none`: no opcode of the slot. -/
def decA (s1 : Bool) (r : RawWord) : Option (Option Instr) :=
  match r.opc.toNat with
  | 0x1 => some ((dec_AAdd s1 r).map .aadd)
  | 0x2 => some ((dec_AAddi s1 r).map .aaddi)
  | 0x3 => some ((dec_AMov s1 r).map .amov)
  | 0x4 => some ((dec_AMov s1 r).map .aget)
  | 0x5 => some ((dec_AMode s1 r).map .amode)
  | 0x10 => some ((dec_ALds s1 r).map .lds)
  | 0x11 => some ((dec_ASts s1 r).map .sts)
  | _ => none
/-- The form of a V1-only opcode (Table 7.15). -/
def decVsp (r : RawWord) : Option (Option Instr) :=
  match r.opc.toNat with
  | 0x60 => some ((dec_VSpec r).map .vexp2)
  | 0x61 => some ((dec_VSpec r).map .vlog2)
  | 0x62 => some ((dec_VSpec r).map .vrcp)
  | 0x63 => some ((dec_VSpec r).map .vrsq)
  | 0x64 => some ((dec_VSpec r).map .vtanh)
  | _ => none
/-- Table 7.15, the opcodes that both slots host. `none`: no opcode of the slot. -/
def decVc (s1 : Bool) (r : RawWord) : Option (Option Instr) :=
  match r.opc.toNat with
  | 0x1 => some ((dec_VInt2S s1 r).map .vadd)
  | 0x2 => some ((dec_VInt2S s1 r).map .vsub)
  | 0x3 => some ((dec_VInt2S s1 r).map .vmul)
  | 0x4 => some ((dec_VInt2 s1 r).map .vmulh)
  | 0x5 => some ((dec_VInt3S s1 r).map .vmad)
  | 0x6 => some ((dec_VInt2 s1 r).map .vmin)
  | 0x7 => some ((dec_VInt2 s1 r).map .vmax)
  | 0x8 => some ((dec_VInt1S s1 r).map .vabs)
  | 0x9 => some ((dec_VInt1S s1 r).map .vneg)
  | 0xa => some ((dec_VLane2 s1 r).map .vand)
  | 0xb => some ((dec_VLane2 s1 r).map .vor)
  | 0xc => some ((dec_VLane2 s1 r).map .vxor)
  | 0xd => some ((dec_VLane1 s1 r).map .vnot)
  | 0xe => some ((dec_VInt2 s1 r).map .vshl)
  | 0xf => some ((dec_VInt2 s1 r).map .vshr)
  | 0x10 => some ((dec_VInt2 s1 r).map .vsar)
  | 0x11 => some ((dec_VInt3 s1 r).map .vclmp)
  | 0x20 => some ((dec_VFp2 s1 r).map .vfadd)
  | 0x21 => some ((dec_VFp2 s1 r).map .vfsub)
  | 0x22 => some ((dec_VFp2 s1 r).map .vfmul)
  | 0x23 => some ((dec_VFp3 s1 r).map .vfma)
  | 0x24 => some ((dec_VFmm s1 r).map .vfmin)
  | 0x25 => some ((dec_VFmm s1 r).map .vfmax)
  | 0x26 => some ((dec_VFsg s1 r).map .vfabs)
  | 0x27 => some ((dec_VFsg s1 r).map .vfneg)
  | 0x30 => some ((dec_VCmp s1 r).map .vcmp)
  | 0x31 => some ((dec_VFcmp s1 r).map .vfcmp)
  | 0x32 => some ((dec_VSel s1 r).map .vsel)
  | 0x33 => some ((dec_VLane1 s1 r).map .vmov)
  | 0x34 => some ((dec_VBcast s1 r).map .vbcast)
  | 0x35 => some ((dec_VExt s1 r).map .vext)
  | 0x36 => some ((dec_VIota s1 r).map .viota)
  | 0x40 => some ((dec_VLane2 s1 r).map .vperm)
  | 0x41 => some ((dec_VRot s1 r).map .vrot)
  | 0x42 => some ((dec_VShuf s1 r).map .vshuf)
  | 0x48 => some ((dec_VRedF s1 r).map .vred)
  | 0x49 => some ((dec_VRedF s1 r).map .vscan)
  | 0x50 => some ((dec_VCvt s1 r).map .vcvt)
  | 0x51 => some ((dec_VPackF s1 r).map .vpack)
  | 0x52 => some ((dec_VUnpkF s1 r).map .vunpk)
  | 0x53 => some ((dec_VRns s1 r).map .vrns)
  | 0x54 => some ((dec_VRns s1 r).map .vcrt)
  | _ => none
/-- Table 7.15: V1 alone hosts the special functions. -/
def decV (s1 : Bool) (r : RawWord) : Option (Option Instr) :=
  match decVc s1 r with
  | some x => some x
  | none => if s1 then decVsp r else none
/-- Table 7.16, with FEM of Table 9.9. -/
def decVM (r : RawWord) : Option (Option Instr) :=
  let low := fld r.vlow.low 0 5
  match r.opc.toNat with
  | 1 => some (if low = 0 then (dec_MLoad r).map .vld else if low = 8#5 then (dec_MLoad r).map .vldFeC
               else if low = 16#5 then (dec_MLoad r).map .vldFeK else none)
  | 2 => some (if low = 0 then (dec_MStore r).map .vst else if low = 8#5 then (dec_MStore r).map .vstF
               else if low = 16#5 then (dec_MStore r).map .vstE else none)
  | 3 => some ((dec_MLoadS r).map .vlds)
  | 4 => some ((dec_MStoreS r).map .vsts)
  | 5 => some ((dec_MGather r).map .vgth)
  | 6 => some ((dec_MScatter r).map .vsct)
  | 0x10 => some (if low = 0 then (dec_MLoad r).map .accrd else none)
  | 0x11 => some (if low = 0 then (dec_MStore r).map .accwr else none)
  | 0x18 => some ((dec_MFe r).map .feset)
  | 0x19 => some ((dec_MFe r).map .feclr)
  | 0x1a => some ((dec_MProb r).map .feprob)
  | _ => none
/-- Table 7.17, CB. -/
def decCB (r : RawWord) : Option (Option Instr) :=
  match r.opc.toNat with
  | 1 => some (if lvlOf r = 3#3 then (dec_CbMmaP 3 r).map .tmmaPkg
               else if lvlOf r = 4#3 then (dec_CbMmaP 4 r).map .tmmaGang else (dec_CbMma r).map .tmma)
  | 2 => some ((dec_CbMma r).map .tmmas)
  | 3 => some ((dec_CbMmaP 2 r).map .tmmaP)
  | 8 => some ((dec_CbSlots r).map .tzero)
  | 9 => some ((dec_CbDrain r).map .tdrain)
  | 0xa => some ((dec_CbSlots r).map .tload)
  | 0xb => some ((dec_CbTrn r).map .ttrn)
  | 0xc => some (if fld r.imm 8 1 = 1#1 then (dec_CbJoin true r).map .tjoinSum else (dec_CbJoin false r).map .tjoin)
  | 0x10 => some ((dec_CbCtl r).map .tstop)
  | 0x11 => some ((dec_CbCtl r).map .tres)
  | 0x12 => some ((dec_CbProg r).map .tprog)
  | _ => none
/-- Table 7.17, SC. `none`: no opcode of the slot. -/
def decSC (r : RawWord) : Option (Option Instr) :=
  match r.opc.toNat with
  | 0x1 => some ((dec_ScW r).map .scw)
  | 0x2 => some ((dec_ScS r).map .scs)
  | 0x3 => some ((dec_Guard r).map .scz)
  | 0x4 => some ((dec_ScSel r).map .scsel)
  | _ => none
/-- Table 7.18. `none`: no opcode of the slot. -/
def decCP (r : RawWord) : Option (Option Instr) :=
  match r.opc.toNat with
  | 0x1 => some ((dec_CpCopy r).map .cpy)
  | 0x2 => some ((dec_CpWeight r).map .cpyw)
  | 0x3 => some ((dec_CpCopy r).map .cpyx)
  | 0x4 => some ((dec_CpCopy r).map .cpyf)
  | 0x10 => some ((dec_CpAmo r).map .amoAdd)
  | 0x11 => some ((dec_CpAmo r).map .amoMin)
  | 0x12 => some ((dec_CpAmo r).map .amoMax)
  | 0x13 => some ((dec_CpAmo r).map .amoAnd)
  | 0x14 => some ((dec_CpAmo r).map .amoOr)
  | 0x15 => some ((dec_CpAmo r).map .amoXor)
  | 0x16 => some ((dec_CpAmo r).map .amoSwp)
  | 0x17 => some ((dec_CpCas r).map .amoCas)
  | 0x18 => some ((dec_CpAmo r).map .amoFaddx)
  | 0x20 => some ((dec_CpFlush r).map .flushx)
  | 0x21 => some ((dec_CpPlain r).map .pfh)
  | 0x22 => some ((dec_CpPlain r).map .migr)
  | 0x28 => some ((dec_CpQ r).map .cpq)
  | 0x29 => some ((dec_CpMask r).map .cpstop)
  | 0x2a => some ((dec_CpMask r).map .cpres)
  | _ => none
/-- Table 7.19. `none`: no opcode of the slot. -/
def decSY (r : RawWord) : Option (Option Instr) :=
  match r.opc.toNat with
  | 0x1 => some ((dec_SyBari r).map .bari)
  | 0x2 => some ((dec_SyBara r).map .bara)
  | 0x3 => some ((dec_SyBarx r).map .barx)
  | 0x4 => some ((dec_SyBarw r).map .barw)
  | 0x9 => some ((dec_Guard r).map .cbwait)
  | 0x11 => some ((dec_CpMask r).map .fenceq)
  | 0x18 => some ((dec_SyPost r).map .tpost)
  | 0x19 => some ((dec_SyEvinc r).map .evinc)
  | 0x1a => some ((dec_SyEvwait r).map .evwait)
  | 0x20 => some ((dec_SyTlbi r).map .tlbi)
  | 0x21 => some ((dec_CpMask r).map .sldrain)
  | 0x28 => some ((dec_SyTrc r).map .trcon)
  | 0x29 => some ((dec_SyTrc r).map .trcoff)
  | 0x2a => some ((dec_SyPmrd r).map .pmrd)
  | 0x2b => some ((dec_SyEnrd r).map .enrd)
  | 0x30 => some ((dec_Guard r).map .gangc)
  | 0x31 => some ((dec_Guard r).map .yield)
  | 8 => some (if r.imm = 0 then (dec_Code 0 r).map .phaseCommit else if r.imm = 1 then (dec_Code 1 r).map .phaseOn
               else (dec_Code 2 r).map .phaseOff)
  | 0x10 => some (if r.imm = 0 then (dec_Code 0 r).map .fenceAcq else if r.imm = 0x40000 then (dec_Code 0x40000 r).map .fenceRel
               else (dec_Code 0x80000 r).map .fenceFull)
  | _ => none
/-- The map of a slot by its index (Table 7.3). -/
def decMap (slot : Fin 12) (r : RawWord) : Option (Option Instr) :=
  match slot.val with
  | 0 => decBr r
  | 1 => decS false r
  | 2 => decS true r
  | 3 => decA false r
  | 4 => decA true r
  | 5 => decV false r
  | 6 => decV true r
  | 7 => decVM r
  | 8 => decCB r
  | 9 => decSC r
  | 10 => decCP r
  | _ => decSY r

/-- BST = 1 or 2 on a word that R179 excludes and R384 lists raises BOOST_ILLEGAL. -/
def boostExcluded (slot : Fin 12) (r : RawWord) : Bool :=
  (r.bst = 1#2 || r.bst = 2#2) &&
  match slot.val with
  | 1 | 2 => r.opc = 0x50#8 || r.opc = 0x51#8 || r.opc = 0x53#8
  | 3 | 4 => r.opc = 0x11#8
  | 7 => r.opc = 2#8 || r.opc = 4#8 || r.opc = 6#8 || (r.opc = 1#8 && fld r.vlow.low 3 2 ≠ 0#2) ||
         r.opc = 0x11#8 || r.opc = 0x18#8 || r.opc = 0x19#8 || r.opc = 0x1a#8
  | 9 => true
  | _ => false

/-- Decoding one slot word, in the order of causes of R372 (item 3): NOP (R190), prefixes (R176, R177, R383),
unassigned opcodes, boost exclusions, and every field limit. -/
def decodeSlot (slot : Fin 12) (w : Word) : Except DecErr Instr :=
  let r := RawWord.ofBits w
  if r.opc = 0#8 then
    if w = 0 then .ok (.nop slot) else .error .illegalOperand
  else if r.opc = 0xf0#8 ∧ slot = 2 then
    if fld w 44 12 = 0#12 then .ok (.ximm { payload := fld w 0 44 }) else .error .illegalPrefix
  else if r.opc = 0xf0#8 ∧ slot = 4 then
    if fld w 16 40 = 0#40 then .ok (.xadr { hi := fld w 0 16 }) else .error .illegalPrefix
  else if r.opc = 0xf0#8 ∧ (slot = 1 ∨ slot = 3) then .error .illegalPrefix
  else
    match decMap slot r with
    | none => .error .illegalOpcode
    | some o =>
      if boostExcluded slot r then .error .boostIllegal
      else match o with
        | none => .error .illegalOperand
        | some i => if i.wf then .ok i else .error .illegalOperand

/-! ### The encoder -/
/-- The slot that hosts an operation and its slot word, from Tables 7.12–7.19 and the field tables; `none` for an event. -/
def encode : Instr → Option (Fin 12 × Word)
  | .nop s => some (s, 0)
  | .ximm a => some (2, 0xf0#8 ++ 0#12 ++ a.payload)
  | .xadr a => some (4, 0xf0#8 ++ 0#40 ++ a.hi)
  | .bT a => some (0, (enc_BrCond 0x1 a).toBits)
  | .bF a => some (0, (enc_BrCond 0x2 a).toBits)
  | .j a => some (0, (enc_BrJump 0x3 a).toBits)
  | .jx a => some (0, (enc_BrReg 0x4 a).toBits)
  | .call a => some (0, (enc_BrCall 0x5 a).toBits)
  | .ret a => some (0, (enc_BrReg 0x6 a).toBits)
  | .loop a => some (0, (enc_BrLoop 0x8 a).toBits)
  | .loopp a => some (0, (enc_BrLoopP 0x9 a).toBits)
  | .lexit a => some (0, (enc_Guard 0xa a).toBits)
  | .commit a => some (0, (enc_Guard 0xc a).toBits)
  | .squash a => some (0, (enc_Guard 0xd a).toBits)
  | .exit a => some (0, (enc_Guard 0x10 a).toBits)
  | .trapi a => some (0, (enc_BrTrap 0x11 a).toBits)
  | .tret a => some (0, (enc_Guard 0x12 a).toBits)
  | .waitn a => some (0, (enc_BrWait 0x13 a).toBits)
  | .add a => some (if a.h.slot1 then 2 else 1, (enc_SArith 0x1 a).toBits)
  | .addi a => some (if a.h.slot1 then 2 else 1, (enc_SImm 0x2 a).toBits)
  | .sub a => some (if a.h.slot1 then 2 else 1, (enc_SArith 0x3 a).toBits)
  | .mul a => some (if a.h.slot1 then 2 else 1, (enc_SArith 0x4 a).toBits)
  | .mulh a => some (if a.h.slot1 then 2 else 1, (enc_STwin false 0x5 a).toBits)
  | .mulhn a => some (if a.h.slot1 then 2 else 1, (enc_STwin true 0x6 a).toBits)
  | .div a => some (if a.h.slot1 then 2 else 1, (enc_STwin false 0x7 a).toBits)
  | .divn a => some (if a.h.slot1 then 2 else 1, (enc_STwin true 0x8 a).toBits)
  | .rem a => some (if a.h.slot1 then 2 else 1, (enc_STwin false 0x9 a).toBits)
  | .remn a => some (if a.h.slot1 then 2 else 1, (enc_STwin true 0xa a).toBits)
  | .and a => some (if a.h.slot1 then 2 else 1, (enc_SLogic 0x10 a).toBits)
  | .andi a => some (if a.h.slot1 then 2 else 1, (enc_SImm 0x11 a).toBits)
  | .or a => some (if a.h.slot1 then 2 else 1, (enc_SLogic 0x12 a).toBits)
  | .ori a => some (if a.h.slot1 then 2 else 1, (enc_SImm 0x13 a).toBits)
  | .xor a => some (if a.h.slot1 then 2 else 1, (enc_SLogic 0x14 a).toBits)
  | .xori a => some (if a.h.slot1 then 2 else 1, (enc_SImm 0x15 a).toBits)
  | .andn a => some (if a.h.slot1 then 2 else 1, (enc_SLogic 0x16 a).toBits)
  | .shl a => some (if a.h.slot1 then 2 else 1, (enc_SLogic 0x17 a).toBits)
  | .shli a => some (if a.h.slot1 then 2 else 1, (enc_SShI 0x18 a).toBits)
  | .shr a => some (if a.h.slot1 then 2 else 1, (enc_SLogic 0x19 a).toBits)
  | .shri a => some (if a.h.slot1 then 2 else 1, (enc_SShI 0x1a a).toBits)
  | .sar a => some (if a.h.slot1 then 2 else 1, (enc_SLogic 0x1b a).toBits)
  | .sari a => some (if a.h.slot1 then 2 else 1, (enc_SShI 0x1c a).toBits)
  | .rotl a => some (if a.h.slot1 then 2 else 1, (enc_SLogic 0x1d a).toBits)
  | .min a => some (if a.h.slot1 then 2 else 1, (enc_STwin false 0x20 a).toBits)
  | .minn a => some (if a.h.slot1 then 2 else 1, (enc_STwin true 0x21 a).toBits)
  | .max a => some (if a.h.slot1 then 2 else 1, (enc_STwin false 0x22 a).toBits)
  | .maxn a => some (if a.h.slot1 then 2 else 1, (enc_STwin true 0x23 a).toBits)
  | .clz a => some (if a.h.slot1 then 2 else 1, (enc_SUn 0x28 a).toBits)
  | .ctz a => some (if a.h.slot1 then 2 else 1, (enc_SUn 0x29 a).toBits)
  | .popc a => some (if a.h.slot1 then 2 else 1, (enc_SUn 0x2a a).toBits)
  | .brev a => some (if a.h.slot1 then 2 else 1, (enc_SUn 0x2b a).toBits)
  | .bext a => some (if a.h.slot1 then 2 else 1, (enc_SBext 0x2c a).toBits)
  | .bins a => some (if a.h.slot1 then 2 else 1, (enc_SBins 0x2d a).toBits)
  | .sext a => some (if a.h.slot1 then 2 else 1, (enc_SExt 0x2e a).toBits)
  | .zext a => some (if a.h.slot1 then 2 else 1, (enc_SExt 0x2f a).toBits)
  | .movi a => some (if a.h.slot1 then 2 else 1, (enc_SMovi 0x30 a).toBits)
  | .sel a => some (if a.h.slot1 then 2 else 1, (enc_SSel 0x31 a).toBits)
  | .cmp a => some (if a.h.slot1 then 2 else 1, (enc_SCmp 0x32 a).toBits)
  | .pset a => some (if a.h.slot1 then 2 else 1, (enc_SPset 0x33 a).toBits)
  | .plog a => some (if a.h.slot1 then 2 else 1, (enc_SPlog 0x34 a).toBits)
  | .fadd a => some (if a.h.slot1 then 2 else 1, (enc_SFp2 0x40 a).toBits)
  | .fsub a => some (if a.h.slot1 then 2 else 1, (enc_SFp2 0x41 a).toBits)
  | .fmul a => some (if a.h.slot1 then 2 else 1, (enc_SFp2 0x42 a).toBits)
  | .ffma a => some (if a.h.slot1 then 2 else 1, (enc_SFp3 0x43 a).toBits)
  | .fdiv a => some (if a.h.slot1 then 2 else 1, (enc_SFp2 0x44 a).toBits)
  | .fsqrt a => some (if a.h.slot1 then 2 else 1, (enc_SFp1 0x45 a).toBits)
  | .fmin a => some (if a.h.slot1 then 2 else 1, (enc_SFmm 0x46 a).toBits)
  | .fmax a => some (if a.h.slot1 then 2 else 1, (enc_SFmm 0x47 a).toBits)
  | .fcmp a => some (if a.h.slot1 then 2 else 1, (enc_SFcmp 0x48 a).toBits)
  | .fcvt a => some (if a.h.slot1 then 2 else 1, (enc_SFcvt 0x49 a).toBits)
  | .fclass a => some (if a.h.slot1 then 2 else 1, (enc_SFclass 0x4a a).toBits)
  | .movcb a => some (if a.slot1 then 2 else 1, (enc_SMovCb 0x50 a).toBits)
  | .movq a => some (if a.slot1 then 2 else 1, (enc_SMovQ 0x51 a).toBits)
  | .csrr a => some (if a.h.slot1 then 2 else 1, (enc_SCsrr 0x52 a).toBits)
  | .csrw a => some (if a.slot1 then 2 else 1, (enc_SCsrw 0x53 a).toBits)
  | .aadd a => some (if a.h.slot1 then 4 else 3, (enc_AAdd 0x1 a).toBits)
  | .aaddi a => some (if a.h.slot1 then 4 else 3, (enc_AAddi 0x2 a).toBits)
  | .amov a => some (if a.h.slot1 then 4 else 3, (enc_AMov 0x3 a).toBits)
  | .aget a => some (if a.h.slot1 then 4 else 3, (enc_AMov 0x4 a).toBits)
  | .amode a => some (if a.h.slot1 then 4 else 3, (enc_AMode 0x5 a).toBits)
  | .lds a => some (if a.h.slot1 then 4 else 3, (enc_ALds 0x10 a).toBits)
  | .sts a => some (if a.slot1 then 4 else 3, (enc_ASts 0x11 a).toBits)
  | .vadd a => some (if a.h.slot1 then 6 else 5, (enc_VInt2S 0x1 a).toBits)
  | .vsub a => some (if a.h.slot1 then 6 else 5, (enc_VInt2S 0x2 a).toBits)
  | .vmul a => some (if a.h.slot1 then 6 else 5, (enc_VInt2S 0x3 a).toBits)
  | .vmulh a => some (if a.h.slot1 then 6 else 5, (enc_VInt2 0x4 a).toBits)
  | .vmad a => some (if a.h.slot1 then 6 else 5, (enc_VInt3S 0x5 a).toBits)
  | .vmin a => some (if a.h.slot1 then 6 else 5, (enc_VInt2 0x6 a).toBits)
  | .vmax a => some (if a.h.slot1 then 6 else 5, (enc_VInt2 0x7 a).toBits)
  | .vabs a => some (if a.h.slot1 then 6 else 5, (enc_VInt1S 0x8 a).toBits)
  | .vneg a => some (if a.h.slot1 then 6 else 5, (enc_VInt1S 0x9 a).toBits)
  | .vand a => some (if a.h.slot1 then 6 else 5, (enc_VLane2 0xa a).toBits)
  | .vor a => some (if a.h.slot1 then 6 else 5, (enc_VLane2 0xb a).toBits)
  | .vxor a => some (if a.h.slot1 then 6 else 5, (enc_VLane2 0xc a).toBits)
  | .vnot a => some (if a.h.slot1 then 6 else 5, (enc_VLane1 0xd a).toBits)
  | .vshl a => some (if a.h.slot1 then 6 else 5, (enc_VInt2 0xe a).toBits)
  | .vshr a => some (if a.h.slot1 then 6 else 5, (enc_VInt2 0xf a).toBits)
  | .vsar a => some (if a.h.slot1 then 6 else 5, (enc_VInt2 0x10 a).toBits)
  | .vclmp a => some (if a.h.slot1 then 6 else 5, (enc_VInt3 0x11 a).toBits)
  | .vfadd a => some (if a.h.slot1 then 6 else 5, (enc_VFp2 0x20 a).toBits)
  | .vfsub a => some (if a.h.slot1 then 6 else 5, (enc_VFp2 0x21 a).toBits)
  | .vfmul a => some (if a.h.slot1 then 6 else 5, (enc_VFp2 0x22 a).toBits)
  | .vfma a => some (if a.h.slot1 then 6 else 5, (enc_VFp3 0x23 a).toBits)
  | .vfmin a => some (if a.h.slot1 then 6 else 5, (enc_VFmm 0x24 a).toBits)
  | .vfmax a => some (if a.h.slot1 then 6 else 5, (enc_VFmm 0x25 a).toBits)
  | .vfabs a => some (if a.h.slot1 then 6 else 5, (enc_VFsg 0x26 a).toBits)
  | .vfneg a => some (if a.h.slot1 then 6 else 5, (enc_VFsg 0x27 a).toBits)
  | .vcmp a => some (if a.h.slot1 then 6 else 5, (enc_VCmp 0x30 a).toBits)
  | .vfcmp a => some (if a.h.slot1 then 6 else 5, (enc_VFcmp 0x31 a).toBits)
  | .vsel a => some (if a.h.slot1 then 6 else 5, (enc_VSel 0x32 a).toBits)
  | .vmov a => some (if a.h.slot1 then 6 else 5, (enc_VLane1 0x33 a).toBits)
  | .vbcast a => some (if a.h.slot1 then 6 else 5, (enc_VBcast 0x34 a).toBits)
  | .vext a => some (if a.h.slot1 then 6 else 5, (enc_VExt 0x35 a).toBits)
  | .viota a => some (if a.h.slot1 then 6 else 5, (enc_VIota 0x36 a).toBits)
  | .vperm a => some (if a.h.slot1 then 6 else 5, (enc_VLane2 0x40 a).toBits)
  | .vrot a => some (if a.h.slot1 then 6 else 5, (enc_VRot 0x41 a).toBits)
  | .vshuf a => some (if a.h.slot1 then 6 else 5, (enc_VShuf 0x42 a).toBits)
  | .vred a => some (if a.h.slot1 then 6 else 5, (enc_VRedF 0x48 a).toBits)
  | .vscan a => some (if a.h.slot1 then 6 else 5, (enc_VRedF 0x49 a).toBits)
  | .vcvt a => some (if a.h.slot1 then 6 else 5, (enc_VCvt 0x50 a).toBits)
  | .vpack a => some (if a.h.slot1 then 6 else 5, (enc_VPackF 0x51 a).toBits)
  | .vunpk a => some (if a.h.slot1 then 6 else 5, (enc_VUnpkF 0x52 a).toBits)
  | .vrns a => some (if a.h.slot1 then 6 else 5, (enc_VRns 0x53 a).toBits)
  | .vcrt a => some (if a.h.slot1 then 6 else 5, (enc_VRns 0x54 a).toBits)
  | .vexp2 a => some (6, (enc_VSpec 0x60 a).toBits)
  | .vlog2 a => some (6, (enc_VSpec 0x61 a).toBits)
  | .vrcp a => some (6, (enc_VSpec 0x62 a).toBits)
  | .vrsq a => some (6, (enc_VSpec 0x63 a).toBits)
  | .vtanh a => some (6, (enc_VSpec 0x64 a).toBits)
  | .vld a => some (7, (enc_MLoad 1 a).toBits)
  | .vldFeC a => some (7, (rawFem (enc_MLoad 1 a) 1).toBits)
  | .vldFeK a => some (7, (rawFem (enc_MLoad 1 a) 2).toBits)
  | .vst a => some (7, (enc_MStore 2 a).toBits)
  | .vstF a => some (7, (rawFem (enc_MStore 2 a) 1).toBits)
  | .vstE a => some (7, (rawFem (enc_MStore 2 a) 2).toBits)
  | .vlds a => some (7, (enc_MLoadS 3 a).toBits)
  | .vsts a => some (7, (enc_MStoreS 4 a).toBits)
  | .vgth a => some (7, (enc_MGather 5 a).toBits)
  | .vsct a => some (7, (enc_MScatter 6 a).toBits)
  | .accrd a => some (7, (enc_MLoad 0x10 a).toBits)
  | .accwr a => some (7, (enc_MStore 0x11 a).toBits)
  | .feset a => some (7, (enc_MFe 0x18 a).toBits)
  | .feclr a => some (7, (enc_MFe 0x19 a).toBits)
  | .feprob a => some (7, (enc_MProb 0x1a a).toBits)
  | .tmma a => some (8, (enc_CbMma 1 a).toBits)
  | .tmmaPkg a => some (8, (enc_CbMmaP 3 1 a).toBits)
  | .tmmaGang a => some (8, (enc_CbMmaP 4 1 a).toBits)
  | .tmmas a => some (8, (enc_CbMma 2 a).toBits)
  | .tmmaP a => some (8, (enc_CbMmaP 2 3 a).toBits)
  | .tzero a => some (8, (enc_CbSlots 8 a).toBits)
  | .tdrain a => some (8, (enc_CbDrain 9 a).toBits)
  | .tload a => some (8, (enc_CbSlots 0xa a).toBits)
  | .ttrn a => some (8, (enc_CbTrn 0xb a).toBits)
  | .tjoin a => some (8, (enc_CbJoin false 0xc a).toBits)
  | .tjoinSum a => some (8, (enc_CbJoin true 0xc a).toBits)
  | .tstop a => some (8, (enc_CbCtl 0x10 a).toBits)
  | .tres a => some (8, (enc_CbCtl 0x11 a).toBits)
  | .tprog a => some (8, (enc_CbProg 0x12 a).toBits)
  | .scw a => some (9, (enc_ScW 0x1 a).toBits)
  | .scs a => some (9, (enc_ScS 0x2 a).toBits)
  | .scz a => some (9, (enc_Guard 0x3 a).toBits)
  | .scsel a => some (9, (enc_ScSel 0x4 a).toBits)
  | .cpy a => some (10, (enc_CpCopy 0x1 a).toBits)
  | .cpyw a => some (10, (enc_CpWeight 0x2 a).toBits)
  | .cpyx a => some (10, (enc_CpCopy 0x3 a).toBits)
  | .cpyf a => some (10, (enc_CpCopy 0x4 a).toBits)
  | .amoAdd a => some (10, (enc_CpAmo 0x10 a).toBits)
  | .amoMin a => some (10, (enc_CpAmo 0x11 a).toBits)
  | .amoMax a => some (10, (enc_CpAmo 0x12 a).toBits)
  | .amoAnd a => some (10, (enc_CpAmo 0x13 a).toBits)
  | .amoOr a => some (10, (enc_CpAmo 0x14 a).toBits)
  | .amoXor a => some (10, (enc_CpAmo 0x15 a).toBits)
  | .amoSwp a => some (10, (enc_CpAmo 0x16 a).toBits)
  | .amoCas a => some (10, (enc_CpCas 0x17 a).toBits)
  | .amoFaddx a => some (10, (enc_CpAmo 0x18 a).toBits)
  | .flushx a => some (10, (enc_CpFlush 0x20 a).toBits)
  | .pfh a => some (10, (enc_CpPlain 0x21 a).toBits)
  | .migr a => some (10, (enc_CpPlain 0x22 a).toBits)
  | .cpq a => some (10, (enc_CpQ 0x28 a).toBits)
  | .cpstop a => some (10, (enc_CpMask 0x29 a).toBits)
  | .cpres a => some (10, (enc_CpMask 0x2a a).toBits)
  | .bari a => some (11, (enc_SyBari 0x1 a).toBits)
  | .bara a => some (11, (enc_SyBara 0x2 a).toBits)
  | .barx a => some (11, (enc_SyBarx 0x3 a).toBits)
  | .barw a => some (11, (enc_SyBarw 0x4 a).toBits)
  | .cbwait a => some (11, (enc_Guard 0x9 a).toBits)
  | .fenceq a => some (11, (enc_CpMask 0x11 a).toBits)
  | .tpost a => some (11, (enc_SyPost 0x18 a).toBits)
  | .evinc a => some (11, (enc_SyEvinc 0x19 a).toBits)
  | .evwait a => some (11, (enc_SyEvwait 0x1a a).toBits)
  | .tlbi a => some (11, (enc_SyTlbi 0x20 a).toBits)
  | .sldrain a => some (11, (enc_CpMask 0x21 a).toBits)
  | .trcon a => some (11, (enc_SyTrc 0x28 a).toBits)
  | .trcoff a => some (11, (enc_SyTrc 0x29 a).toBits)
  | .pmrd a => some (11, (enc_SyPmrd 0x2a a).toBits)
  | .enrd a => some (11, (enc_SyEnrd 0x2b a).toBits)
  | .gangc a => some (11, (enc_Guard 0x30 a).toBits)
  | .yield a => some (11, (enc_Guard 0x31 a).toBits)
  | .phaseCommit a => some (11, (enc_Code 0 8 a).toBits)
  | .phaseOn a => some (11, (enc_Code 1 8 a).toBits)
  | .phaseOff a => some (11, (enc_Code 2 8 a).toBits)
  | .fenceAcq a => some (11, (enc_Code 0 0x10 a).toBits)
  | .fenceRel a => some (11, (enc_Code 0x40000 0x10 a).toBits)
  | .fenceFull a => some (11, (enc_Code 0x80000 0x10 a).toBits)
  | _ => none

/-! ### Bundles (R161–R163) -/
/-- The header of Table 7.1. -/
structure Header where
  raw : Word
  deriving DecidableEq, Repr
/-- PRES. -/
def Header.pres (h : Header) : BitVec 12 := fld h.raw 0 12
/-- RPT. -/
def Header.rpt (h : Header) : BitVec 6 := fld h.raw 12 6
/-- REL: bit 0 V0, 1 V1, 2 VM, 3 SC. -/
def Header.rel (h : Header) : BitVec 4 := fld h.raw 18 4
/-- KIND. -/
def Header.kind (h : Header) : BitVec 4 := fld h.raw 24 4
/-- PAYLOAD. -/
def Header.payload (h : Header) : BitVec 32 := fld h.raw 32 32
/-- How many slot words follow the header. -/
def Header.slots (h : Header) : Nat := ((List.range 12).filter fun j => h.pres.getLsbD j).length
/-- The length of the bundle in bytes, trailer included (R161). -/
def Header.len (h : Header) : Nat := 8 + 8 * h.slots + (if h.kind = 2#4 then 8 else 0)

/-- The slot words of a bundle from the words that follow its header, in slot-index order. -/
def slotWords (pres : BitVec 12) : Nat → List Word → List (Fin 12 × Word)
  | 0, _ => []
  | n + 1, ws =>
    let j : Fin 12 := Fin.ofNat 12 (11 - n)
    if pres.getLsbD j.val then
      match ws with
      | [] => []
      | w :: ws' => (j, w) :: slotWords pres n ws'
    else slotWords pres n ws
/-- The slots of a bundle. -/
def Header.words (h : Header) (ws : List Word) : List (Fin 12 × Word) := slotWords h.pres 12 ws

/-- The 64-bit words of a little-endian byte string. -/
def wordsOf : Nat → List Byte → List Word
  | 0, _ => []
  | n + 1, bs => BitVec.ofNat 64 (leNat (bs.take 8)) :: wordsOf n (bs.drop 8)

/-- The one operation of a bundle that names one slot; a prefix and the word it extends are two (R176, R177). -/
def soleOp (ws : List (Fin 12 × Word)) : Option (Fin 12 × Word) :=
  match ws with
  | [x] => some x
  | _ => none

/-- The instruction a bundle stands for, of the words at its address: the event of its KIND when no slot is present
(R181, R183), the operation of its one slot, and the bundle instance otherwise. -/
def decodeBundle (u : UnitId) (ws : List Word) : Option Instr :=
  match ws with
  | [] => none
  | h :: rest =>
    let hd : Header := ⟨h⟩
    if rest.length < hd.slots then none
    else
      match soleOp (hd.words rest) with
      | some (s, w) =>
        match decodeSlot s w with
        | .ok i => some i
        | .error _ => none
      | none =>
        if hd.slots = 0 ∧ hd.kind = 1#4 then some .segmentBegin
        else if hd.slots = 0 ∧ hd.kind = 2#4 then
          match rest with
          | t :: _ => some (.segmentEnd { cnt := fld t 0 32, sig := fld t 32 32 })
          | [] => none
        else if hd.slots = 0 ∧ hd.kind = 3#4 then some (.marker hd.payload)
        else some (.bundleInstance { u := u })

/-- What the decoder reads from a bundle of at most 112 bytes whose bits are `w`, the first word the header, every
word little-endian (R4, R161). -/
def decodeTableWord (_nbits w : Nat) : Option Instr :=
  decodeBundle 0 (wordsOf 14 (leBytes 112 w))

end Sys2Proof
end

