-- ==== Sys2Proof/Machine/Flags.lean ====
section
/-! DEFINITION. Number formats, rounding and flags (chapter 03): every floating-point value is an exact sign,
mantissa and exponent; each operation computes exactly and rounds once (R63, R82). -/
namespace Sys2Proof.Machine

/-- The flags NV, DZ, OF, UF, NX in bits 4 to 0 (VCTL[15:11], Table 3.6). -/
abbrev FFlags := BitVec 5
/-- NV alone. -/
def fNV : FFlags := 0x10
/-- DZ alone. -/
def fDZ : FFlags := 0x08
/-- OF and NX. -/
def fOF : FFlags := 0x05
/-- UF and NX. -/
def fUF : FFlags := 0x03
/-- NX alone. -/
def fNX : FFlags := 0x01

/-- A floating-point value: NaN, an infinity, or ±m × 2^e exactly (m = 0 is a signed zero). -/
inductive FVal
  | nan
  | inf (neg : Bool)
  | fin (neg : Bool) (m : Nat) (e : Int)
  deriving DecidableEq, Repr

/-- Mantissa bits, exponent bits and bias of a format (Table 3.1). -/
def Fmt.mbits : Fmt → Nat
  | .e4m3 => 3 | .e5m2 => 2 | .e2m1 => 1 | .bf16 => 7 | .f16 => 10 | .f64 => 52 | _ => 23
/-- Exponent bits (Table 3.1). -/
def Fmt.ebits : Fmt → Nat
  | .e4m3 => 4 | .e5m2 => 5 | .e2m1 => 2 | .f16 => 5 | .f64 => 11 | _ => 8
/-- Bias (Table 3.1). -/
def Fmt.bias (f : Fmt) : Int := (2 ^ (Fmt.ebits f - 1) : Nat) - 1
/-- The format has infinities (Table 3.1). -/
def Fmt.hasInf : Fmt → Bool
  | .e4m3 | .e2m1 => false
  | _ => true
/-- The canonical NaN (R60); E2M1 has none and takes +0 (R65). -/
def Fmt.nanBits : Fmt → Nat
  | .e4m3 => 0x7F | .e5m2 => 0x7E | .e2m1 => 0 | .bf16 => 0x7FC0 | .f16 => 0x7E00
  | .f64 => 0x7FF8000000000000 | _ => 0x7FC00000
/-- The largest finite magnitude as m × 2^e (Table 3.1). -/
def Fmt.maxFin (f : Fmt) : Nat × Int :=
  match f with
  | .e4m3 => (14, 5)
  | .e2m1 => (3, 1)
  | f => (2 ^ (Fmt.mbits f + 1) - 1, (2 ^ Fmt.ebits f : Nat) - 2 - Fmt.bias f - Fmt.mbits f)
/-- The exponent of the smallest normal. -/
def Fmt.emin (f : Fmt) : Int := 1 - Fmt.bias f

/-- The value of the low bits of `x` in a format (R56). -/
def decF (f : Fmt) (x : Nat) : FVal :=
  let mb := Fmt.mbits f
  let eb := Fmt.ebits f
  let neg := x.testBit (mb + eb)
  let e := bitsOf x mb eb
  let m := bitsOf x 0 mb
  if Fmt.hasInf f && e == 2 ^ eb - 1 then (if m = 0 then .inf neg else .nan)
  else if f == .e4m3 && e == 15 && m == 7 then .nan
  else if e = 0 then .fin neg m (Fmt.emin f - mb)
  else .fin neg (m + 2 ^ mb) ((e : Int) - Fmt.bias f - mb)

/-- The sign bit of a format set when negative. -/
def signBit (f : Fmt) (neg : Bool) : Nat := if neg then 2 ^ (Fmt.mbits f + Fmt.ebits f) else 0
/-- Infinity of a sign; in a format without infinities, NaN (E4M3) or the largest magnitude (E2M1) (Table 3.4). -/
def infBits (f : Fmt) (neg : Bool) : Nat :=
  match f with
  | .e4m3 => 0x7F
  | .e2m1 => signBit f neg + 7
  | f => signBit f neg + (2 ^ Fmt.ebits f - 1) * 2 ^ Fmt.mbits f
/-- The largest finite magnitude of a sign. -/
def maxBits (f : Fmt) (neg : Bool) : Nat :=
  match f with
  | .e4m3 => signBit f neg + 0x7E
  | .e2m1 => signBit f neg + 7
  | f => signBit f neg + (2 ^ Fmt.ebits f - 2) * 2 ^ Fmt.mbits f + (2 ^ Fmt.mbits f - 1)
/-- The encoding of n × 2^q where q is the quantum of the value in the format. -/
def packF (f : Fmt) (neg : Bool) (n : Nat) (q : Int) : Nat :=
  let mb := Fmt.mbits f
  if n < 2 ^ mb then signBit f neg + n
  else
    let (n, q) := if n < 2 ^ (mb + 1) then (n, q) else (n / 2, q + 1)
    signBit f neg + (q + mb + Fmt.bias f).toNat * 2 ^ mb + (n - 2 ^ mb)

/-- m × 2^e compared with m' × 2^e'. -/
def magLt (m : Nat) (e : Int) (m' : Nat) (e' : Int) : Bool :=
  if e ≤ e' then m < m' * 2 ^ (e' - e).toNat else m * 2 ^ (e - e').toNat < m'

/-- Whether a magnitude n0 + rem / 2^s rounds up (Table 3.3, R64). `rnd` is the generator's draw. -/
def roundUp (rm : RMode) (rnd : Nat) (neg : Bool) (n0 rem s : Nat) : Bool :=
  if rem = 0 then false
  else
    match rm with
    | .rne | .dyn => 2 ^ (s - 1) < rem || (rem == 2 ^ (s - 1) && n0 % 2 == 1)
    | .rtz => false
    | .rdn => neg
    | .rup => !neg
    | .rna => 2 ^ (s - 1) ≤ rem
    | .sr => rnd / 256 % 2 ^ 24 < rem * 2 ^ 24 / 2 ^ s

/-- m × 2^e rounded to a multiple of 2^q: the multiple and whether it is inexact. -/
def roundAt (rm : RMode) (rnd : Nat) (neg : Bool) (m : Nat) (e q : Int) : Nat × Bool :=
  if q ≤ e then (m * 2 ^ (e - q).toNat, false)
  else
    let s := (q - e).toNat
    let n0 := m / 2 ^ s
    let rem := m % 2 ^ s
    (if roundUp rm rnd neg n0 rem s then n0 + 1 else n0, rem != 0)

/-- What an overflow gives (R65, Table 3.4). -/
def overflowBits (f : Fmt) (rm : RMode) (sat neg : Bool) : Nat :=
  if sat then maxBits f neg
  else
    match rm with
    | .rtz => maxBits f neg
    | .rdn => if neg then infBits f neg else maxBits f neg
    | .rup => if neg then maxBits f neg else infBits f neg
    | _ => infBits f neg

/-- An exact finite value rounded once to a format (R63–R65), with FTZ (R68) and the flags. -/
def roundFin (f : Fmt) (rm : RMode) (sat ftz : Bool) (rnd : Nat) (neg : Bool) (m : Nat) (e : Int) : Nat × FFlags :=
  if m = 0 then (signBit f neg, 0)
  else
    let mb : Int := Fmt.mbits f
    let E : Int := e + (m.log2 : Int)
    let q := max E (Fmt.emin f) - mb
    let (n, inex) := roundAt rm rnd neg m e q
    let (n', _) := roundAt rm rnd neg m e (E - mb)
    let tiny := E < Fmt.emin f && magLt n' (E - mb) 1 (Fmt.emin f)
    if magLt (Fmt.maxFin f).1 (Fmt.maxFin f).2 n q then (overflowBits f rm sat neg, fOF)
    else if tiny && ftz then (signBit f neg, fUF)
    else (packF f neg n q, if inex then (if tiny then fUF else fNX) else 0)

/-- A value rounded to a format: NaN is canonical (R60). -/
def roundF (f : Fmt) (rm : RMode) (sat ftz : Bool) (rnd : Nat) : FVal → Nat × FFlags
  | .nan => (Fmt.nanBits f, 0)
  | .inf n => (infBits f n, 0)
  | .fin n m e => roundFin f rm sat ftz rnd n m e

/-- The sign of a value. -/
def FVal.neg : FVal → Bool
  | .nan => false
  | .inf n => n
  | .fin n _ _ => n
/-- Negation. -/
def FVal.negate : FVal → FVal
  | .nan => .nan
  | .inf n => .inf (!n)
  | .fin n m e => .fin (!n) m e
/-- ±m × 2^e as an integer multiple of 2^q, q ≤ e. -/
def FVal.scaled (n : Bool) (m : Nat) (e q : Int) : Int :=
  let x : Int := ((m * 2 ^ (e - q).toNat : Nat) : Int)
  if n then -x else x
/-- An exact integer multiple of 2^q as a value; a zero takes the sign given. -/
def FVal.ofScaled (x q : Int) (zneg : Bool) : FVal :=
  if x = 0 then .fin zneg 0 q else .fin (x < 0) x.natAbs q

/-- The exact sum (IEEE 754-2019): a zero sum of unlike signs is +0, and −0 under RDN. -/
def addV (rm : RMode) : FVal → FVal → FVal × FFlags
  | .nan, _ | _, .nan => (.nan, 0)
  | .inf a, .inf b => if a = b then (.inf a, 0) else (.nan, fNV)
  | .inf a, _ => (.inf a, 0)
  | _, .inf b => (.inf b, 0)
  | .fin a m e, .fin b m' e' =>
    let q := min e e'
    let z := if m = 0 ∧ m' = 0 ∧ a = b then a else rm == .rdn
    (.ofScaled (FVal.scaled a m e q + FVal.scaled b m' e' q) q z, 0)
/-- The exact product. -/
def mulV : FVal → FVal → FVal × FFlags
  | .nan, _ | _, .nan => (.nan, 0)
  | .inf a, .inf b => (.inf (a != b), 0)
  | .inf a, .fin b m _ | .fin b m _, .inf a => if m = 0 then (.nan, fNV) else (.inf (a != b), 0)
  | .fin a m e, .fin b m' e' => (.fin (a != b) (m * m') (e + e'), 0)

/-- A signalling NaN raises NV (IEEE 754-2019): the top mantissa bit is 0. -/
def isSNaN (f : Fmt) (x : Nat) : Bool :=
  decF f x == .nan && Fmt.hasInf f && !x.testBit (Fmt.mbits f - 1)
/-- NV for any signalling NaN among the operands. -/
def snanFlag (f : Fmt) (xs : List Nat) : FFlags := if xs.any (isSNaN f) then fNV else 0

/-- What rounding needs beside the mode: VCTL.FTZ. -/
structure FpEnv where
  rm : RMode
  ftz : Bool
  deriving DecidableEq, Repr

/-- A rounded result with the flags of the exact operation before it. -/
def finish (f : Fmt) (v : FpEnv) (xs : List Nat) (r : FVal × FFlags) : Nat × FFlags :=
  let (b, fl) := roundF f v.rm false v.ftz 0 r.1
  (b, fl ||| r.2 ||| snanFlag f xs)
/-- a + b (Tables 8.10, 9.3). -/
def fAdd (f : Fmt) (v : FpEnv) (a b : Nat) : Nat × FFlags := finish f v [a, b] (addV v.rm (decF f a) (decF f b))
/-- a − b. -/
def fSub (f : Fmt) (v : FpEnv) (a b : Nat) : Nat × FFlags :=
  finish f v [a, b] (addV v.rm (decF f a) (decF f b).negate)
/-- a × b. -/
def fMul (f : Fmt) (v : FpEnv) (a b : Nat) : Nat × FFlags := finish f v [a, b] (mulV (decF f a) (decF f b))
/-- a × b + c, rounded once; 0 × ∞ + c is the canonical NaN with NV, whatever c (Table 9.3). -/
def fFma (f : Fmt) (v : FpEnv) (a b c : Nat) : Nat × FFlags :=
  let p := mulV (decF f a) (decF f b)
  let r := addV v.rm p.1 (decF f c)
  finish f v [a, b, c] (r.1, r.2 ||| p.2)
/-- The exact quotient as a value with a sticky last bit; division by zero gives a signed ∞ and DZ (R82). -/
def divV (p : Nat) : FVal → FVal → FVal × FFlags
  | .nan, _ | _, .nan => (.nan, 0)
  | .inf _, .inf _ => (.nan, fNV)
  | .inf a, .fin b _ _ => (.inf (a != b), 0)
  | .fin a _ _, .inf b => (.fin (a != b) 0 0, 0)
  | .fin a m e, .fin b m' e' =>
    if m' = 0 then (if m = 0 then (.nan, fNV) else (.inf (a != b), fDZ))
    else
      let k := p + 4 + m'.log2
      let n := m * 2 ^ k
      (.fin (a != b) (2 * (n / m') + (if n % m' = 0 then 0 else 1)) (e - e' - k - 1), 0)
/-- a / b. -/
def fDiv (f : Fmt) (v : FpEnv) (a b : Nat) : Nat × FFlags :=
  finish f v [a, b] (divV (Fmt.mbits f) (decF f a) (decF f b))

/-- Integer square root, bit by bit from bit k − 1 down. -/
def isqrtGo (n : Nat) : Nat → Nat → Nat
  | 0, r => r
  | k + 1, r => if (r + 2 ^ k) * (r + 2 ^ k) ≤ n then isqrtGo n k (r + 2 ^ k) else isqrtGo n k r
/-- ⌊√n⌋. -/
def isqrt (n : Nat) : Nat := isqrtGo n (n.log2 / 2 + 1) 0

/-- The square root (R211): below −0 it is NaN with NV, and √−0 = −0. -/
def sqrtV (p : Nat) : FVal → FVal × FFlags
  | .nan => (.nan, 0)
  | .inf n => if n then (.nan, fNV) else (.inf false, 0)
  | .fin n m e =>
    if m = 0 then (.fin n 0 e, 0)
    else if n then (.nan, fNV)
    else
      let (m, e) := if e % 2 = 0 then (m, e) else (m * 2, e - 1)
      let k := p + 4
      let x := m * 2 ^ (2 * k)
      let r := isqrt x
      (.fin false (2 * r + (if r * r = x then 0 else 1)) (e / 2 - k - 1), 0)
/-- √a. -/
def fSqrt (f : Fmt) (v : FpEnv) (a : Nat) : Nat × FFlags := finish f v [a] (sqrtV (Fmt.mbits f) (decF f a))

/-- a < b on values that are not NaN, with −0 below +0 when `zs`. -/
def ltV (zs : Bool) : FVal → FVal → Bool
  | .nan, _ | _, .nan => false
  | .inf a, .inf b => a && !b
  | .inf a, .fin _ _ _ => a
  | .fin _ _ _, .inf b => !b
  | .fin a m e, .fin b m' e' =>
    let q := min e e'
    let x := FVal.scaled a m e q
    let y := FVal.scaled b m' e' q
    x < y || (zs && m == 0 && m' == 0 && a && !b)
/-- a = b (IEEE 754-2019). -/
def eqV : FVal → FVal → Bool
  | .nan, _ | _, .nan => false
  | .inf a, .inf b => a == b
  | .fin a m e, .fin b m' e' => let q := min e e'; FVal.scaled a m e q == FVal.scaled b m' e' q
  | _, _ => false
/-- A result that is a value of its format: a subnormal one is flushed under FTZ, with UF and NX (R68). -/
def flushF (f : Fmt) (ftz : Bool) (x : Nat) : Nat × FFlags :=
  match decF f x with
  | .fin n m _ => if ftz && 0 < m && m < 2 ^ Fmt.mbits f then (signBit f n, fUF) else (x, 0)
  | _ => (x, 0)
/-- Minimum or maximum (R61): NaN if either is NaN, −0 below +0. A signalling NaN raises NV; FTZ acts on the result
(R68, R211, R221). -/
def fMinMax (f : Fmt) (ftz isMax : Bool) (a b : Nat) : Nat × FFlags :=
  let x := decF f a
  let y := decF f b
  if x = .nan ∨ y = .nan then (Fmt.nanBits f, snanFlag f [a, b])
  else flushF f ftz (if isMax then (if ltV true x y then b else a) else (if ltV true y x then b else a))
/-- A floating compare (Table 8.10): LT, LE, GE and GT set NV on a NaN operand; EQ, UN and NE set no flag. -/
def fCompare (f : Fmt) (c : FCond) (a b : Nat) : Bool × FFlags :=
  let x := decF f a
  let y := decF f b
  let un := x == .nan || y == .nan
  let nv := if un then fNV else 0
  match c with
  | .eq => (eqV x y, 0)
  | .un => (un, 0)
  | .ne => (!eqV x y, 0)
  | .lt => (ltV false x y, nv)
  | .le => (!un && !ltV false y x, nv)
  | .ge => (!un && !ltV false x y, nv)
  | .gt => (ltV false y x, nv)
/-- FCLASS (Table 8.10). -/
def fClass (f : Fmt) (a : Nat) : Nat :=
  match decF f a with
  | .nan => 2 ^ 8
  | .inf n => if n then 1 else 2 ^ 7
  | .fin n m _ =>
    if m = 0 then (if n then 2 ^ 3 else 2 ^ 4)
    else if m < 2 ^ Fmt.mbits f then (if n then 2 ^ 2 else 2 ^ 5)
    else (if n then 2 ^ 1 else 2 ^ 6)

/-! ### Conversions (R63–R66, Table 3.5a) -/
/-- A floating value to an integer format: rounds by mode, then saturates in every case; NaN gives 0. -/
def cvtFI (d : Fmt) (rm : RMode) (rnd : Nat) (x : FVal) : Int × FFlags :=
  let w := d.bits
  let un := d.isUnsigned
  match x with
  | .nan => (0, fNV)
  | .inf n => (if n then intMin w un else intMax w un, fNV)
  | .fin n m e =>
    let (k, inex) := roundAt rm rnd n m e 0
    let v : Int := if n then -(k : Int) else k
    let s := satInt w un v
    if s = v then (s, if inex then fNX else 0) else (s, fNV)
/-- An integer to a floating format. -/
def cvtIF (d : Fmt) (rm : RMode) (sat ftz : Bool) (rnd : Nat) (x : Int) : Nat × FFlags :=
  roundF d rm sat ftz rnd (.fin (x < 0) x.natAbs 0)
/-- Floating to floating (R65, R66): NaN and ∞ follow their own rows. A widening whose result is subnormal is flushed
under FTZ with UF and NX, as R68 says of every tiny result: the model's choice against R66's 'no flag' (log 57). -/
def cvtFF (d : Fmt) (rm : RMode) (sat ftz : Bool) (rnd : Nat) (x : FVal) : Nat × FFlags :=
  match x with
  | .nan => (Fmt.nanBits d, if d == .e2m1 then fNV else 0)
  | .inf n =>
    if Fmt.hasInf d then (infBits d n, 0)
    else if d == .e4m3 then (if sat then maxBits d n else Fmt.nanBits d, fNV)
    else (maxBits d n, fNV)
  | .fin n m e => roundFin d rm sat ftz rnd n m e
/-- Integer to integer: .S saturates, otherwise the low bits are kept. -/
def cvtII (d : Fmt) (sat : Bool) (x : Int) : Int × FFlags :=
  let y := satInt d.bits d.isUnsigned x
  if sat then (y, if y = x then 0 else fNV)
  else (readInt d.bits d.isUnsigned (wrapNat d.bits x), 0)
/-- A conversion of the low bits of `x` from format `s` to the bits of format `d`. -/
def convert (d s : Fmt) (rm : RMode) (sat ftz : Bool) (rnd x : Nat) : Nat × FFlags :=
  if s.isFloat then
    if d.isFloat then cvtFF d rm sat ftz rnd (decF s x)
    else let r := cvtFI d rm rnd (decF s x); (wrapNat d.bits r.1, r.2)
  else
    let v := readInt s.bits s.isUnsigned x
    if d.isFloat then cvtIF d rm sat ftz rnd v
    else let r := cvtII d sat v; (wrapNat d.bits r.1, r.2)

/-! ### Special functions (R230): correctly rounded, from 256-bit fixed point (log 5) -/
/-- Fraction bits of the fixed point. -/
def spF : Nat := 256
/-- Σ over k ≥ i of t_k, t_{k+1} = t_k · x / 2^F / d(k): `n` terms. -/
def seriesGo (d : Nat → Nat) (x : Nat) : Nat → Nat → Nat → Nat → Nat
  | 0, _, _, acc => acc
  | n + 1, k, t, acc => seriesGo d x n (k + 1) (t * x / 2 ^ spF / d k) (acc + t)
/-- e^x for x < 1 in fixed point. -/
def expFix (x : Nat) : Nat := seriesGo (fun k => k) x 80 1 (2 ^ spF) 0
/-- ln 2 in fixed point: Σ 1 / (k · 2^k). -/
def ln2Go : Nat → Nat → Nat → Nat
  | 0, _, acc => acc
  | n + 1, k, acc => ln2Go n (k + 1) (acc + 2 ^ spF / (k * 2 ^ k))
/-- ln 2. -/
def ln2Fix : Nat := ln2Go 260 1 0
/-- ±m × 2^e in fixed point, towards zero. -/
def toFix (m : Nat) (e : Int) : Nat :=
  let s := e + spF
  if 0 ≤ s then m * 2 ^ s.toNat else m / 2 ^ (-s).toNat
/-- 2^a: exact for an integer a; a large magnitude is bounded at ±2^13, beyond every format's range. -/
def exp2V : FVal → FVal × FFlags
  | .nan => (.nan, fNV)
  | .inf n => if n then (.fin false 0 0, 0) else (.inf false, 0)
  | .fin n m e =>
    if m = 0 then (.fin false 1 0, 0)
    else if (12 : Int) < e + m.log2 then (.fin false 1 (if n then -8192 else 8192), 0)
    else if e < -300 - m.log2 then
      (.fin false (if n then 2 ^ 301 - 1 else 2 ^ 300 + 1) (if n then -301 else -300), 0)
    else
      let num : Int := if n then -(m : Int) else m
      let den : Nat := 2 ^ (-e).toNat
      let x : Int := num * (2 ^ e.toNat : Nat)
      let k := x / (den : Int)
      let f := (x % (den : Int)).toNat
      if f = 0 then (.fin false 1 k, 0)
      else (.fin false (2 * expFix (f * 2 ^ spF / den * ln2Fix / 2 ^ spF) + 1) (k - spF - 1), 0)
/-- The binary digits of log2 y for y in [1, 2) with F fraction bits. -/
def log2Go : Nat → Nat → Nat → Nat
  | 0, _, acc => acc
  | n + 1, y, acc =>
    let z := y * y / 2 ^ spF
    if 2 * 2 ^ spF ≤ z then log2Go n (z / 2) (2 * acc + 1) else log2Go n z (2 * acc)
/-- log2 a. -/
def log2V : FVal → FVal × FFlags
  | .nan => (.nan, fNV)
  | .inf n => if n then (.nan, fNV) else (.inf false, 0)
  | .fin n m e =>
    if m = 0 then (.inf true, fDZ)
    else if n then (.nan, fNV)
    else
      let L := m.log2
      if m = 2 ^ L then (.ofScaled (e + L) 0 false, 0)
      else
        let d := log2Go 200 (m * 2 ^ spF / 2 ^ L) 0
        let t : Int := (e + L) * (2 ^ 200 : Nat) + d
        (.ofScaled (2 * t + 1) (-201) false, 0)
/-- 1/a. -/
def rcpV : FVal → FVal × FFlags
  | .nan => (.nan, fNV)
  | .inf n => (.fin n 0 0, 0)
  | x => divV 60 (.fin false 1 0) x
/-- 1/√a. -/
def rsqV : FVal → FVal × FFlags
  | .nan => (.nan, fNV)
  | .inf n => if n then (.nan, fNV) else (.fin false 0 0, 0)
  | .fin n m e =>
    if m = 0 then (.inf n, fDZ)
    else if n then (.nan, fNV)
    else
      let (m, e) := if e % 2 = 0 then (m, e) else (m * 2, e - 1)
      let k := 60 + m.log2
      let r := isqrt (2 ^ (2 * k) / m)
      (.fin false (2 * r + (if r * r * m = 2 ^ (2 * k) then 0 else 1)) (-(e / 2) - k - 1), 0)
/-- tanh a = sinh a / cosh a by series below 1, (E − 1)/(E + 1) with E = e^2a up to 64, and 1 − 2^−180 beyond. -/
def tanhV : FVal → FVal × FFlags
  | .nan => (.nan, fNV)
  | .inf n => (.fin n 1 0, 0)
  | .fin n m e =>
    if m = 0 then (.fin n 0 0, 0)
    else if (6 : Int) ≤ e + m.log2 then (.fin n (2 ^ 180 - 1) (-180), 0)
    else if e + m.log2 < 0 then
      let a := toFix m e
      let a2 := a * a / 2 ^ spF
      let s := seriesGo (fun k => 2 * k * (2 * k + 1)) a2 60 1 (2 ^ spF) 0
      let c := seriesGo (fun k => 2 * k * (2 * k - 1)) a2 60 1 (2 ^ spF) 0
      let r := if s = c then 2 ^ spF - 1 else s * 2 ^ spF / c
      (.fin n (2 * m * r + 1) (e - spF - 1), 0)
    else
      let z := toFix (2 * m) e
      let k := z / ln2Fix
      let E := expFix (z % ln2Fix) * 2 ^ k
      (.fin n (2 * ((E - 2 ^ spF) * 2 ^ spF / (E + 2 ^ spF)) + 1) (-spF - 1), 0)
/-- A special function rounded to its format (R230); a NaN input sets NV (Table 9.8). -/
def fSpecial (g : FVal → FVal × FFlags) (f : Fmt) (v : FpEnv) (a : Nat) : Nat × FFlags :=
  let r := g (decF f a)
  let (b, fl) := roundF f v.rm false v.ftz 0 r.1
  (b, fl ||| r.2)

/-! ### RNS16 (R77–R79) -/
/-- The residue triple of an RNS16 element, fields at or above their modulus read as 0. -/
def rnsDec (x : Nat) : Nat × Nat × Nat := (bitsOf x 0 5 % 31, bitsOf x 5 5, bitsOf x 10 6 % 63)
/-- The element of a triple. -/
def rnsEnc (t : Nat × Nat × Nat) : Nat := t.1 % 31 + t.2.1 % 32 * 32 + t.2.2 % 63 * 1024
/-- A channel-wise operation. -/
def rnsOp (f : Nat → Nat → Nat → Nat) (a b : Nat) : Nat :=
  let x := rnsDec a
  let y := rnsDec b
  rnsEnc (f 31 x.1 y.1 % 31, f 32 x.2.1 y.2.1 % 32, f 63 x.2.2 y.2.2 % 63)
/-- VRNS (R79). -/
def rnsOf (x : Int) : Nat := rnsEnc ((x % 31).toNat, (x % 32).toNat, (x % 63).toNat)
/-- VCRT (R79). -/
def rnsTo (a : Nat) : Int :=
  let t := rnsDec a
  let X := (t.1 * 2016 + t.2.1 * 1953 + t.2.2 * 58528) % 62496
  if 31248 ≤ X then (X : Int) - 62496 else X

/-! ### Integer arithmetic shared by the S and V slots (R83, R205–R207, R222) -/
/-- A result reduced or saturated to width w. -/
def intRes (w : Nat) (un sat : Bool) (x : Int) : Nat := wrapNat w (if sat then satInt w un x else x)
/-- Shift left: 0 when d ≥ w (R206). -/
def shlN (w a d : Nat) : Nat := if w ≤ d then 0 else a * 2 ^ d % 2 ^ w
/-- Logical shift right (R206). -/
def shrN (w a d : Nat) : Nat := if w ≤ d then 0 else a % 2 ^ w / 2 ^ d
/-- Arithmetic shift right (R206). -/
def sarN (w a d : Nat) : Nat :=
  let x := signedOf w a
  wrapNat w (if w ≤ d then (if x < 0 then -1 else 0) else x / (2 ^ d : Nat))
/-- Rotate left by d mod w. -/
def rotlN (w a d : Nat) : Nat :=
  let k := d % w
  (a % 2 ^ w * 2 ^ k % 2 ^ w) + a % 2 ^ w / 2 ^ (w - k)
/-- Leading zeros of a w-bit value. -/
def clzN (w a : Nat) : Nat := if a % 2 ^ w = 0 then w else w - 1 - (a % 2 ^ w).log2
/-- Trailing zeros, counted up to n bits. -/
def ctzGo (a : Nat) : Nat → Nat → Nat
  | 0, k => k
  | n + 1, k => if a.testBit k then k else ctzGo a n (k + 1)
/-- Trailing zeros of a w-bit value. -/
def ctzN (w a : Nat) : Nat := ctzGo a w 0
/-- Ones of a w-bit value. -/
def popN (w a : Nat) : Nat := ((List.range w).filter fun i => a.testBit i).length
/-- A w-bit value with its bits reversed. -/
def brevN (w a : Nat) : Nat := natOfBits w fun i => a.testBit (w - 1 - i)
/-- An integer condition on w-bit values (Table 8.9). -/
def icond (w : Nat) (c : ICond) (a b : Nat) : Bool :=
  let x := signedOf w a
  let y := signedOf w b
  let m := a % 2 ^ w
  let n := b % 2 ^ w
  match c with
  | .eq => m == n | .ne => m != n
  | .lt => x < y | .ge => y ≤ x | .le => x ≤ y | .gt => y < x
  | .ltn => m < n | .gen => n ≤ m | .len => m ≤ n | .gtn => n < m

/-! ### CRC-32C (R181) -/
/-- Eight shifts of the reflected polynomial 0x82F63B78. -/
def crcBits : Nat → Nat → Nat
  | 0, c => c
  | n + 1, c => crcBits n (if c % 2 = 1 then c / 2 ^^^ 0x82F63B78 else c / 2)
/-- One byte. -/
def crcByte (c : Nat) (b : Byte) : Nat := crcBits 8 (c ^^^ b.toNat)
/-- CRC-32C update over bytes. -/
def crcUpdate (c : BitVec 32) (bs : List Byte) : BitVec 32 := BitVec.ofNat 32 (bs.foldl crcByte c.toNat)

/-! ### SM3 (R355), GB/T 32905 -/
/-- A rotate of a 32-bit word. -/
abbrev rl32 (x : BitVec 32) (n : Nat) : BitVec 32 := x.rotateLeft n
/-- P1. -/
def sm3P1 (x : BitVec 32) : BitVec 32 := x ^^^ rl32 x 15 ^^^ rl32 x 23
/-- P0. -/
def sm3P0 (x : BitVec 32) : BitVec 32 := x ^^^ rl32 x 9 ^^^ rl32 x 17
/-- Message expansion; the list holds the newest word first. -/
def sm3Expand : Nat → List (BitVec 32) → List (BitVec 32)
  | 0, w => w
  | n + 1, w =>
    let g := fun i => w.getD (i - 1) 0
    sm3Expand n ((sm3P1 (g 16 ^^^ g 9 ^^^ rl32 (g 3) 15) ^^^ rl32 (g 13) 7 ^^^ g 6) :: w)
/-- One round on (A … H). -/
def sm3Round (w : List (BitVec 32)) (v : Vector (BitVec 32) 8) (j : Nat) : Vector (BitVec 32) 8 :=
  let t : BitVec 32 := if j < 16 then 0x79cc4519 else 0x7a879d8a
  let ss1 := rl32 (rl32 v[0] 12 + v[4] + rl32 t (j % 32)) 7
  let ss2 := ss1 ^^^ rl32 v[0] 12
  let ff := if j < 16 then v[0] ^^^ v[1] ^^^ v[2] else (v[0] &&& v[1]) ||| (v[0] &&& v[2]) ||| (v[1] &&& v[2])
  let gg := if j < 16 then v[4] ^^^ v[5] ^^^ v[6] else (v[4] &&& v[5]) ||| (~~~v[4] &&& v[6])
  let wj := w.getD j 0
  let tt1 := ff + v[3] + ss2 + (wj ^^^ w.getD (j + 4) 0)
  let tt2 := gg + v[7] + ss1 + wj
  #v[tt1, v[0], rl32 v[1] 9, v[2], sm3P0 tt2, v[4], rl32 v[5] 19, v[6]]
/-- The big-endian words of 64 bytes. -/
def be32s : Nat → List Byte → List (BitVec 32)
  | 0, _ => []
  | n + 1, bs => BitVec.ofNat 32 (leNat (bs.take 4).reverse) :: be32s n (bs.drop 4)
/-- One compression. -/
def sm3Block (v : Vector (BitVec 32) 8) (bs : List Byte) : Vector (BitVec 32) 8 :=
  let w := (sm3Expand 52 (be32s 16 bs).reverse).reverse
  Vector.zipWith (· ^^^ ·) v ((List.range 64).foldl (sm3Round w) v)
/-- Compressions of n blocks. -/
def sm3Blocks : Nat → Vector (BitVec 32) 8 → List Byte → Vector (BitVec 32) 8
  | 0, v, _ => v
  | n + 1, v, bs => sm3Blocks n (sm3Block v (bs.take 64)) (bs.drop 64)
/-- SM3 of a byte string, as 32 bytes. -/
def sm3 (bs : List Byte) : List Byte :=
  let len := bs.length
  let pad := (55 + 64 - len % 64) % 64
  let m := bs ++ [0x80] ++ List.replicate pad 0 ++ (leBytes 8 (8 * len)).reverse
  let v := sm3Blocks (m.length / 64)
    #v[0x7380166f, 0x4914b2b9, 0x172442d7, 0xda8a0600, 0xa96f30bc, 0x163138aa, 0xe38dee4d, 0xb0fb0e4e] m
  v.toList.flatMap fun x => (leBytes 4 x.toNat).reverse

end Sys2Proof.Machine
end

