-- ==== Sys2Proof/Config.lean ====
section
/-! DEFINITION. What an implementation of the Cezonto CX-8 fixes and the spec does not give: constants
without a body, so that no proof can see a value (assumption log 4). -/
namespace Sys2Proof

/-- What the SM2 identity key is derived from: fused secrets (R349, step 1); never visible (R356). -/
opaque Config.idPriv : Nat
/-- The random number of attempt i of the n-th signature (R357). -/
opaque Config.sigNonce (n i : Nat) : Nat
/-- The firmware version words of the report (Table 15.5). -/
opaque Config.fwVersion : BitVec 128
/-- A free value, indexed by the state's counter: used where the spec states an effect and no value. -/
opaque Config.freeValue : Nat → Word

/-- The lines of a crown's I-cache, of which the spec gives no number (R143; log 39). -/
opaque Config.icacheLines : Nat
/-- Byte i of the 64-byte spill entry of a cell (R116): address, format code, state code, value; the layout is not stated
(log 34). -/
opaque Config.spillByte (pa fmt st : Nat) (val : Int) (i : Nat) : Byte

end Sys2Proof
end

