-- ==== Sys2Proof/Machine/State.lean ====
section
/-! DEFINITION. The state of one Cezonto CX-8 package: every register, store, queue and table that spec/
gives it, and the state right after reset. Registers whose Reset column holds "—" are zero here (log 1). -/
namespace Sys2Proof.Machine

/-- Reasons for which the model stops. -/
inductive Fault
  /-- Raised by `step` when the boot ROM has stopped at step 3 (R351) and nothing from outside is due: the package
  issues nothing ever after. Safe: the hardware does nothing either. -/
  | bootStopped
  deriving DecidableEq, Repr

/-- Reasons for which an instruction has no meaning. -/
inductive Refusal
  /-- Raised by `exec` for a constructor whose meaning has not been written. Safe. -/
  | notModelled (mnemonic : String)
  deriving DecidableEq, Repr

/-! ### Registers of a unit -/
/-- The mode state of an address register (R214, R216). -/
structure AMd where
  mode : BitVec 2 := 0
  inc : BitVec 32 := 0
  base : BitVec 32 := 0
  len : BitVec 32 := 0
  k : BitVec 8 := 0
  esh : BitVec 8 := 0
  deriving DecidableEq, Repr
/-- An address register: its value and its mode state. -/
structure AReg where
  val : BitVec 32 := 0
  md : AMd := {}
  deriving DecidableEq, Repr
/-- The register files of Table 4.1. -/
structure Regs where
  s : Vector Word 64 := Vector.replicate 64 0
  a : Vector AReg 32 := Vector.replicate 32 {}
  p : Vector Mask 12 := Vector.replicate 12 0
  v : Vector VecVal 64 := Vector.replicate 64 0
  cb : Vector Word 16 := Vector.replicate 16 0
  cq : Vector Word 32 := Vector.replicate 32 0
  deriving DecidableEq, Repr
/-- The bypass latches (R89). -/
structure Latches where
  ls0 : Word := 0
  ls1 : Word := 0
  la0 : BitVec 32 := 0
  la1 : BitVec 32 := 0
  lv0 : VecVal := 0
  lv1 : VecVal := 0
  lvm : VecVal := 0
  lac : VecVal := 0
  deriving DecidableEq, Repr
/-- VSEED's effect on the generator of lane i (R67). -/
def seedLane (seed : BitVec 32) (i : Nat) : BitVec 32 :=
  let x := seed ^^^ BitVec.ofNat 32 (0x9E3779B9 * (i + 1))
  if x = 0 then 1 else x
/-- VCTL (Table 3.6) and the lane generators (R67). -/
structure FpCtl where
  vctl : BitVec 32 := 0
  gens : Vector (BitVec 32) 128 := Vector.ofFn fun i : Fin 128 => seedLane 0 i.val
  deriving DecidableEq, Repr

/-- A valid entry of the loop stack (Table 2.3). -/
structure LoopEnt where
  pipe : Bool
  rbase : BitVec 5
  epi : BitVec 3
  count : BitVec 32
  start : BitVec 56
  endA : BitVec 56
  deriving DecidableEq, Repr
/-- The sticky state of V0, V1, VM or SC (R170). -/
structure Sticky where
  w : Word := 0
  j : BitVec 32 := 0
  released : Bool := true
  deriving DecidableEq, Repr
/-- Where a result lands. `flags` ORs into VCTL; `csr` is a CSRW; `trc` is TRCON or TRCOFF (R294). -/
inductive FDest
  | none
  | s (n : Fin 64)
  | a (n : Fin 32)
  | am (n : Fin 32) (md : AMd)
  | v (n : Fin 64)
  | p (n : Fin 12)
  | cb (n : Fin 16)
  | cq (n : Fin 32)
  | flags
  | csr (n : BitVec 12)
  | trc (on : Bool)
  deriving DecidableEq, Repr
/-- An exposed-pipeline result in flight (R47, R185): `due` is the schedule cycle of its landing. -/
structure Flight where
  id : Nat
  slot : Fin 12
  dst : FDest
  due : Nat
  mask : Mask
  val : VecVal
  latch : Option Latch := .none
  deriving DecidableEq, Repr
/-- An operation of a boost buffer, from its issue to its commit or discard (R179, R199). -/
structure BoostEnt where
  lvl : Bool
  fl : Flight
  flags : BitVec 5 := 0
  fault : Option (BitVec 8 × Word) := .none
  deriving DecidableEq, Repr
/-- A control transfer that the BR slot decided in instance 0 (R169, R371). -/
inductive BrAct
  | goto (target : BitVec 56)
  | push (pipe : Bool) (t : BitVec 32) (epi : BitVec 3) (rb : BitVec 5) (endA : BitVec 56)
  | lexit
  | exit
  | trapi (code : BitVec 20)
  | tret
  deriving DecidableEq, Repr
/-- What is held with a trap level (R374); results hold their remaining latency in `due`. -/
structure Hold where
  flights : List Flight := []
  sticky : Vector Sticky 4 := Vector.replicate 4 {}
  boost : List BoostEnt := []
  cqHi : Vector Word 8 := Vector.replicate 8 0
  br : Option BrAct := .none
  yielded : Bool := false
  deriving DecidableEq, Repr
/-- A pending deferred cause (R373, Table 12.5). `was`: of one beyond the sixteenth, its engine does not wait for it alone. -/
structure Pend where
  code : BitVec 8
  tval : Word
  lvl : BitVec 2
  eng : BitVec 4
  sc : Nat
  skip : Bool := false
  was : Bool := false
  deriving DecidableEq, Repr
/-- A scratch, accumulator or latch access that is performed in a later crown clock (Table 7.11, R236, R251). -/
inductive SOp
  | load (id : Nat) (lanes : List (Nat × Nat)) (width : Nat) (signed : Bool)
  | probe (id : Nat) (lanes : List (Nat × Nat))
  | store (bytes : List (Nat × Byte)) (fe : Option Bool) (grans : List Nat)
  | cube (bytes : List (Nat × Byte)) (drain : Option Nat)
  | accWr (row : Nat) (mask : Mask) (val : VecVal)
  | scale (side bank : Bool) (val : BitVec 512)
  | post (pool : BitVec 4) (id : Nat) (addr : Nat)
  deriving DecidableEq, Repr
/-- Such an access, with the run clock in which it falls, its schedule cycle (R188) and the trap level of its issue; `told`: its
instance has reported the poison that it reads (R400). -/
structure SAcc where
  at_ : Nat
  sc : Nat := 0
  lvl : BitVec 2
  op : SOp
  told : Bool := false
  deriving DecidableEq, Repr
/-- A 16-byte granule (R97, R419); `prop`: its poison was passed on by a copy (R420). -/
structure Gran where
  data : BitVec 128 := 0
  full : Bool := false
  poison : Bool := false
  prop : Bool := false
  deriving DecidableEq, Repr
/-- What a store performed in schedule cycle `sc` has replaced, for reads whose cycle is not a later one (R130, R188): granules, or
the words of an accumulator row. -/
structure Undo where
  sc : Nat
  grans : List (Nat × Gran) := []
  row : Option (Nat × Mask × VecVal) := .none
  deriving DecidableEq, Repr
/-- What the stall clocks still to run lead to. -/
inductive After
  | issue
  | reload (lvl : BitVec 2)
  deriving DecidableEq, Repr
/-- The trap registers (Tables 18.1–18.4) of levels 1 and 2. `owed`: causes beyond the sixteenth, whose engines are held until they
can be raised (R373). -/
structure TrapRegs where
  tl : BitVec 2 := 0
  cause : Vector (BitVec 24) 2 := Vector.replicate 2 0
  epc : Vector (BitVec 56) 2 := Vector.replicate 2 0
  tval : Vector Word 2 := Vector.replicate 2 0
  hold : Vector Hold 2 := Vector.replicate 2 {}
  pend : List Pend := []
  owed : List Pend := []
  deriving DecidableEq, Repr
/-- The sequencer: PC, instance, loop stack, sticky states, results in flight, boost buffers (02, 07). `skip`: the
bundle that follows the one at `pc` issues next (R376); `held`: the wait or fetch stall in progress, its cause and
clocks; `stall`: stall clocks still to run; `undo`: what stores have replaced that older reads are still to see. -/
structure Sequencer where
  pc : BitVec 56 := 0
  rix : BitVec 6 := 0
  br : Option BrAct := .none
  yielded : Bool := false
  loops : List LoopEnt := []
  sticky : Vector Sticky 4 := Vector.replicate 4 {}
  flights : List Flight := []
  boost : List BoostEnt := []
  accs : List SAcc := []
  undo : List Undo := []
  nextId : Nat := 0
  stall : Nat := 0
  after : After := .issue
  runDown : Bool := false
  skip : Bool := false
  held : Option (Nat × Nat) := .none
  deriving DecidableEq, Repr
/-- Segment state (R181). -/
structure Segment where
  opened : Bool := false
  cnt : Word := 0
  crc : BitVec 32 := 0
  phased : Bool := false
  deriving DecidableEq, Repr
/-- What a unit is doing. `stored`: its save record has been written, and the unit waits for the rest of its context, or for the
responses of writes that left the device (R312); `reloading`: a resumed unit waits for the parts of its record that are read over the
fabric or from the host (R315). -/
inductive UStatus
  | absent | idle | running | exiting | saving | stored | reloading | killed
  deriving DecidableEq, Repr
/-- The context resident on a unit: pool, entry, place in the rectangle and the task record (R26, R300). -/
structure Ctx where
  pool : Fin 16
  ent : BitVec 8
  dx : BitVec 2
  dy : BitVec 1
  org : Fin 8
  tr : Vector Word 8
  deriving DecidableEq, Repr

/-! ### Barriers, engines, translation -/
/-- A barrier (Table 5.7); `flipped`: step 2a of R134 flipped it in the present clock. -/
structure Barrier where
  bytes : Int := 0
  arrived : BitVec 8 := 0
  expect : BitVec 8 := 0
  broken : Bool := false
  phase : Bool := false
  flipped : Bool := false
  deriving DecidableEq, Repr
/-- A TLB entry (R142). -/
structure Tlb where
  asid : BitVec 12
  vpn : Nat
  large : Bool
  frame : Nat
  attr : BitVec 9
  leaf : Nat
  deriving DecidableEq, Repr
/-- An entry of a victim TLB: the 16-byte place of borrowed scratch, or of a borrowed I-cache line, that holds it, and the entry (R143). -/
structure VEnt where
  place : Nat
  t : Tlb
  deriving DecidableEq, Repr
/-- What occupies an entry of a copy queue. -/
inductive QKind
  | cmd
  | fence (acq rel : Bool) (qmask : BitVec 12) (id : Nat)
  | evinc (id : Nat)
  | tpost (id : Nat)
  deriving DecidableEq, Repr
/-- Bytes that a command has written with poison (R420) or for a faulty group of its stream (R427): the status, the address word and
the range [lo, hi), and SCYC at the detection. -/
structure Taint where
  st : BitVec 8
  aw : Word
  lo : Nat
  hi : Nat
  sc : Nat
  deriving DecidableEq, Repr
/-- A queue entry: CP word and snapshot, issue cycle and trap level, progress and status (R271, R284, R416). `buf`: what
a CPYX has read, or what an element has read whose write is still to come; `off`: bytes that a CPYW has read of its stream;
`ready`: the run clock in which the stores issued before it have landed (R132); `keep`: its queue is named by a phase;
`bad`: elements of a CPYX whose data is poisoned; `ended`: refused with `status` in the schedule cycle `refusedAt` (R417, R452); `moved`: bytes moved, for the energy charge; `ill`: a piece
of the present unit of a CPYW was poisoned (R420); `dropped`: discarded by a cancellation, but for the elements that it has started (R397);
`cls`: the energy classes of elements that are under way (R319). -/
structure QEnt where
  id : Nat
  kind : QKind
  word : Word := 0
  snap : Vector Word 32 := Vector.replicate 32 0
  sc : Nat := 0
  lvl : BitVec 2 := 0
  next : Nat := 0
  done : List Nat := []
  sent : List Nat := []
  buf : List Byte := []
  off : Nat := 0
  status : BitVec 8 := 0
  counted : Bool := false
  taints : List Taint := []
  refusedAt : Nat := 0
  refetch : Bool := false
  boot : Bool := false
  keep : Bool := false
  ready : Nat := 0
  bad : List Nat := []
  ended : Bool := false
  moved : Nat := 0
  ill : Bool := false
  dropped : Bool := false
  cls : List (Nat × Fin 16) := []
  deriving DecidableEq, Repr
/-- A side-log entry (R129, R431): one write element or atomic not yet performed; `poison`: its data is poisoned. -/
structure LogEnt where
  cmd : Nat
  elt : Nat
  va : Nat
  bytes : List Byte
  gang : Bool
  poison : Bool := false
  deriving DecidableEq, Repr
/-- What an engine holds of one 16-byte granule of a crown's scratch, so that neither its write nor its read of the granule is a
mixture: the command, the crown, the granule number, and the bytes to be written or the content read (R131, R132). `due`: the bytes
wait for nothing but a free port (R93, R100). -/
structure Stage where
  cmd : Nat
  unit : UnitId
  gran : Nat
  bytes : List (Nat × Byte) := []
  poison : Bool := false
  seen : Gran := {}
  due : Bool := false
  deriving DecidableEq, Repr
/-- A copy engine: CEPROG.STATE = 2 is `stopped` (Table 11.10); `held`: R430; `freed`: entries freed since the unit's
last clock, which give no room to the QUEUE_FULL test of that clock (R271); `replay`: a replay of the side log is to be
attempted (R433); `walk`: the address that is being walked, for which command and element; `stage`: granules being
written, `peek`: a granule being read. -/
structure Engine where
  q : List QEnt := []
  freed : Nat := 0
  stopped : Bool := false
  held : Bool := false
  tlb : List Tlb := []
  walk : Option (Nat × Nat × Nat) := .none
  log : List LogEnt := []
  replay : Bool := false
  retained : List (QEnt × Nat) := []
  stage : List Stage := []
  peek : Option Stage := .none
  deriving DecidableEq, Repr
/-- An I-cache line of 64 bytes (R21, R137): tag ASID and VA. -/
structure ILine where
  asid : BitVec 12
  va : Nat
  bytes : List Byte
  deriving DecidableEq, Repr
/-- EVINC and TPOST operations waiting for their markers (R290, R291), and TLBI: `wait`, once its entries have been dropped, lists
the requests issued under one of them that are still outstanding (R146). -/
inductive SyOp
  | evinc (id : Nat) (cnt : BitVec 12) (inc : BitVec 8)
  | tpost (id : Nat) (pool : BitVec 4) (ent : Option (BitVec 8)) (addr : Nat) (rec : Vector Word 8) (sc : Nat) (lvl : BitVec 2)
  | tlbi (sel : TlbSel) (asid : BitVec 12) (vpn : Nat) (wait : Option (List Nat) := .none)
  deriving DecidableEq, Repr
/-- The memory-side state of a unit. `ports`: the shared ports of face banks and the ports of weight-buffer halves that are taken in
the present clock (R93, R100); `filled`: the granules that were empty before it and that engines have set full in it (R99). -/
structure EngineSide where
  eng : Vector Engine 12 := Vector.replicate 12 {}
  victim : List VEnt := []
  icache : List ILine := []
  fetchMiss : Option Nat := .none
  sy : List SyOp := []
  tlbiDone : Bool := false
  ports : List Nat := []
  filled : List Nat := []
  nextId : Nat := 0
  deriving DecidableEq, Repr

/-! ### Scratch, accumulators and the cube of a crown -/
/-- A cube command in flight (R245): header, snapshot, SCSEL.MODE, the run clock its schedule counts from, the next
step to start, the step at which TSTOP or a stop ends it, whether the brim delivered it (R265), and the trap level of its issue.
`second`: an f64 step whose second lines are still to be read: the run clock of that read, the step, and the faces as the first
lines were read; `ready`: for a TJOIN the run clock of the last write of each plane by an earlier TMMA.P (R254); `crd`: a product
of a resumed context that waits for the first instance, with the clocks from the stop to its next read (R467); `origin`: the step whose
schedule position is that of step 0, after a resume the first one run (R261); `told`: the slot of a TLOAD or TDRAIN, 0 for the tile of a TTRN, whose
poison has been reported (R400). -/
structure CubeCmd where
  id : Nat := 0
  hdr : Word
  cb : Vector Word 16
  mode : BitVec 2 := 0
  t : Nat
  next : Nat := 0
  last : Option Nat := .none
  delivered : Bool := false
  round : Nat := 0
  bar : Nat := 0
  done : Bool := false
  buf : List Byte := []
  lvl : BitVec 2 := 0
  second : Option (Nat × Nat × List (Nat × Gran)) := .none
  ready : Vector Nat 8 := Vector.replicate 8 0
  crd : Option Nat := .none
  origin : Nat := 0
  told : Option Nat := .none
  deriving DecidableEq, Repr
/-- A row of accumulator words that a step of a command writes in a later run clock. -/
structure AccWrite where
  cmd : Nat := 0
  at_ : Nat
  row : Nat
  val : VecVal
  deriving DecidableEq, Repr
/-- The operands that a step has read (R245, R253): for each output row the codes and scales of the positions that
contribute, for each output column the same; `none` where a position contributes nothing to the row or column. -/
structure ChunkCap where
  cmd : Nat
  at_ : Nat
  step : Nat := 0
  slot : Nat
  fmtA : Fmt
  fmtB : Fmt
  zero : Bool
  a : List (List (Option (Nat × Nat)))
  b : List (List (Option (Nat × Nat)))
  deriving DecidableEq, Repr
/-- A captured plane-mode step of a batt (R412): the step, the ungated clocks of computation it still needs, and the
run clock before which it writes nothing. -/
structure PlaneStep where
  b : Fin 8
  s : Nat
  left : Nat
  cap : ChunkCap
  deriving DecidableEq, Repr
/-- The cube of a crown. `ready`: the run clock in which each batt last completed a TMMA.P; `drained`, `drainEnd`: the
planes that the running TJOIN has drained and the run clock that ended the last of them (R254); `fresh`: rows that the
cube has written in the present clock: the row, the command that wrote it, whether the row held poison, and the value that a read of
that clock still sees (R104, R245); `hidden`: granules that a
TDRAIN still running has written, with its id and the content that copies go on seeing (R132). -/
structure Cube where
  cmds : List CubeCmd := []
  stopped : Option CubeCmd := .none
  writes : List AccWrite := []
  caps : List ChunkCap := []
  planes : List PlaneStep := []
  ready : Vector Nat 8 := Vector.replicate 8 0
  deliv : List CubeCmd := []
  drained : Nat := 0
  drainEnd : Nat := 0
  nextId : Nat := 0
  fresh : List (Nat × Nat × Bool × VecVal) := []
  hidden : List (Nat × Nat × Gran) := []
  scsel : BitVec 2 := 0
  scales : Vector (BitVec 512) 4 := Vector.replicate 4 0
  deriving DecidableEq, Repr
/-- The phase snapshot of R393; `tl`: the trap level at which the PHASE issued (log 71). -/
structure PhaseSnap where
  loops : List LoopEnt
  p : Vector Mask 12
  s : Vector Word 64
  a : Vector AReg 32
  cb : Vector Word 16
  cq : Vector Word 32
  sticky : Vector Sticky 4
  scsel : BitVec 2
  bars : Vector Barrier 32
  tl : BitVec 2 := 0
  deriving DecidableEq, Repr
/-- Phase mode (R286, R393–R399). `closing`: a cancellation whose engines still finish their elements, with the refetch command
that follows and its engine; `refetching`: the refetch command that it waits for. -/
structure Phase where
  on : Bool := false
  restart : BitVec 56 := 0
  qmask : BitVec 12 := 0
  snap : Option PhaseSnap := .none
  shadow : Vector Barrier 32 := Vector.replicate 32 {}
  touched : BitVec 32 := 0
  cancels : Nat := 0
  commits : Nat := 0
  since : List Nat := []
  closing : Option (Option (UnitId × EngId × QEnt)) := .none
  refetching : Option (UnitId × EngId × Nat) := .none
  deriving DecidableEq, Repr
/-- A batt's governor state (Tables 19.5, 19.6): `eff` is the step in effect, `cool` the cool samples of R414. -/
structure Dcg where
  step : BitVec 3 := 0
  trip : Bool := false
  atw : BitVec 16 := 0
  btw : BitVec 16 := 0
  temp : BitVec 8 := 0
  eff : BitVec 3 := 0
  cool : Nat := 0
  deriving DecidableEq, Repr
/-- The stores of a crown, each sparse: only what differs from zero is listed, in ascending order. Poisoned words of the working bank, the
committed bank and the planes are named by row × 128 + column (Table 20.2). -/
structure Stores where
  face : List (Nat × Gran) := []
  acc : List (Nat × VecVal) := []
  committed : List (Nat × VecVal) := []
  planes : List (Nat × VecVal) := []
  accPoison : List Nat := []
  committedPoison : List Nat := []
  planePoison : List Nat := []
  deriving DecidableEq, Repr
/-- A crown's own configuration: BMAP (Table 15.2) and QoS (Tables 4.9, 4.10), the governor. -/
structure CrownCfg where
  bmap : Word := 0xF00000000
  bmapShadow : Word := 0xF00000000
  qosctl : BitVec 32 := 0xFF
  qostab : List (Nat × Word) := []
  dcg : Vector Dcg 8 := Vector.replicate 8 {}
  failed : Bool := false
  tripped : Bool := false
  deriving DecidableEq, Repr

/-! ### Observability of a unit (chapter 14) -/
/-- A trace record not yet written: source, entry, CLKL, PCL, payload, whether it is an enabled record, and whether
an instance (not an asynchronous event) produced it (R340, R342). -/
structure TraceRec where
  src : Nat
  ent : Nat
  clkl : Nat
  pcl : Nat
  p2 : Word
  p3 : Word
  on : Bool
  sync : Bool
  deriving DecidableEq, Repr
/-- Recorder, trigger, drift and stop registers. `recs`: the records of the present schedule cycle; `frozenAt`: CLK of the freeze
that has cleared RCTL.EN, whose records and earlier ones are still written (R422); `begun`: the first bundle of the context has issued, and CCLK counts (R344). -/
structure Observe where
  recs : List TraceRec := []
  rctl : Word := 0
  frozenAt : Option Nat := .none
  rxl : Word := 0
  tbuf : Word := 0
  thead : Word := 0
  tlost : Word := 0
  trga : Word := 0
  trgb : Word := 0
  cap : Bool := false
  dlog : Word := 0
  dhead : Word := 0
  cclk : BitVec 32 := 0
  cclkBase : Bool := true
  begun : Bool := false
  dthresh : BitVec 32 := 0xFFFFFFFF
  arm : Bool := false
  deriving DecidableEq, Repr
/-- Precise stop and injection (Table 14.12). `going`: GO waits for the parts of the dump that are read over the fabric or from the host
(R347). -/
structure StopRegs where
  going : Bool := false
  stopReq : Bool := false
  stopped : Bool := false
  reload : Bool := false
  dumped : Bool := false
  dumpva : BitVec 56 := 0
  injsel : BitVec 10 := 0
  injDone : Bool := false
  injStatus : Bool := false
  inj : Option Word := .none
  deriving DecidableEq, Repr
/-- One rotating counter (R343). -/
structure PmCnt where
  count : Word := 0
  ten : Word := 0
  trun : Word := 0
  deriving DecidableEq, Repr
/-- The sixteen counters (Table 14.8). -/
structure PmRegs where
  ctl : Word := 0
  per : BitVec 32 := 0x10000
  sel : Vector (BitVec 32) 16 := Vector.replicate 16 0
  cnt : Vector PmCnt 16 := Vector.replicate 16 {}
  set_ : BitVec 2 := 0
  since : BitVec 32 := 0
  deriving DecidableEq, Repr

/-- Clocks and requests of a unit. `run` counts the clocks in which the cube and the scratch pipelines move
(all but gate stalls and precise-stop clocks): the model's own count; `stopAt`: the run clock in which the context stopped
(R467); `gateRun`: gate-stall clocks of a clock change still to run, after which the crown runs at `nextMhz` (R352). -/
structure Clocks where
  clk : Nat := 0
  scyc : Nat := 0
  run : Nat := 0
  preq : Bool := false
  rprio : BitVec 4 := 0
  reqClks : Nat := 0
  pmaxiter : BitVec 32 := 0x20000
  ectr : Word := 0
  cpos : BitVec 32 := 0
  xlbase : Word := 0
  ixsel : BitVec 32 := 0
  stopAt : Nat := 0
  gateRun : Nat := 0
  nextMhz : BitVec 10 := 0
  deriving DecidableEq, Repr

/-- Everything a unit (a crown, or the brim core) holds. `killScyc`: SCYC in the clock of a kill (R463); `reload`: bytes of a record or dump
read back over the fabric or from the host, by virtual address (R315, R347). The brim core leaves the crown's stores unused (R25). -/
structure UnitSt where
  status : UStatus := .absent
  ctx : Option Ctx := .none
  regs : Regs := {}
  lat : Latches := {}
  fp : FpCtl := {}
  seq : Sequencer := {}
  trap : TrapRegs := {}
  seg : Segment := {}
  bars : Vector Barrier 32 := Vector.replicate 32 {}
  es : EngineSide := {}
  st : Stores := {}
  cube : Cube := {}
  phase : Phase := {}
  cfg : CrownCfg := {}
  obs : Observe := {}
  stop : StopRegs := {}
  pm : PmRegs := {}
  ck : Clocks := {}
  killCause : BitVec 8 := 0
  killScyc : Nat := 0
  reload : List (Nat × List Byte) := []
  deriving DecidableEq, Repr

/-! ### The device -/
/-- An exact reduction cell (R114): its word, format, state, value in units of 2^−160, and Z0. Cells are kept most
recently used first; `entry` is the entry of the REDSPILL area that a spilled one takes (R116). -/
structure RedCell where
  ctl : Nat
  pa : Nat
  fmt : Fmt
  st : CellSt
  val : Int
  z0 : Bool
  entry : Option Nat := .none
  deriving DecidableEq, Repr
/-- Physical memory (Table 4.6): its bytes, poisoned 64-byte blocks, exact cells, and the retired rows: crown,
pseudo-channel, bank, row. -/
structure MemSt where
  cells : List Host.Cell := []
  poison : List Nat := []
  red : List RedCell := []
  retired : List (Nat × Nat × Nat × Nat) := []
  deriving DecidableEq, Repr
/-- A pool descriptor (Table 12.2). -/
structure PoolDesc where
  w0 : Word := 0
  w1 : Word := 0
  w2 : Word := 0
  w3 : Word := 0
  deriving DecidableEq, Repr
/-- A PACKAGE or GANG command of the brim core (R264, R466). `u`: the next round (PPROG.RND); `stage` and `idx`: the next
action (0 BARIs, 1 copies of a child, 2 the idle clock, 3 a delivery, 4 a TDRAIN delivery, 5 output copies, 6 EVINC,
7 completion); `clk`: the brim clock of the last action; `completed`: child, round (the number of rounds for its TDRAIN)
and brim clock of each completion; `copied`: children whose output copies are entered; `outs`: those copies. -/
structure PkgCmd where
  hdr : Word
  cb : Vector Word 16
  u : Nat := 0
  idx : Nat := 0
  stage : Nat := 0
  clk : Nat := 0
  stopping : Bool := false
  stopped : Bool := false
  done : Bool := false
  completed : List (Nat × Nat × Nat) := []
  copied : List Nat := []
  outs : List Nat := []
  evid : Option Nat := .none
  deriving DecidableEq, Repr
/-- How far an entry of a pool has come. -/
inductive EntSt
  | taken | posted | resident | stopping | stopped | ended
  deriving DecidableEq, Repr
/-- An occupied pool entry (R303): record, origin of the poster, post order, decisions counted for aging, where it
runs or ran. `units`: the crowns (or 8) that hold it; `left`: those still saving or exiting; `saved`: what is kept of each place; `coming`: the
same of the places whose record a resume still reads. -/
structure PoolEnt where
  pool : Fin 16
  ent : BitVec 8
  st : EntSt
  tr : Vector Word 8 := Vector.replicate 8 0
  base : Nat := 0
  order : Nat := 0
  aged : Nat := 0
  fresh : Bool := true
  units : List Nat := []
  left : List Nat := []
  keep : List Nat := []
  brimOf : Option (Fin 16 × BitVec 8) := .none
  saved : List (Nat × UnitSt) := []
  coming : List (Nat × UnitSt) := []
  pkg : Option PkgCmd := .none
  deriving Repr, DecidableEq
/-- A launch slot (R305). -/
structure LaunchSlot where
  w : Vector Word 8 := Vector.replicate 8 0
  pending : Bool := false
  refused : Bool := false
  deriving DecidableEq, Repr
/-- The scheduler block (12). -/
structure Sched where
  ctl : Word := 0x4E200020
  weight : Vector (BitVec 32) 16 := Vector.replicate 16 0
  desc : Vector PoolDesc 16 := Vector.replicate 16 {}
  ents : List PoolEnt := []
  slots : Vector LaunchSlot 16 := Vector.replicate 16 {}
  posts : Nat := 0
  heldRect : List (Nat × Fin 16 × BitVec 8) := []
  deriving Repr, DecidableEq
/-- A moth map (Table 19.1). -/
structure Moth where
  base : Word := 0
  tail : BitVec 32 := 0
  head : BitVec 32 := 0
  lost : BitVec 32 := 0
  deriving DecidableEq, Repr
/-- State of a chunk of a moving page (R154, R157). -/
inductive Chunk | notCopied | copied | dirty
  deriving DecidableEq, Repr
/-- Where a move stands (Table 6.10, R157, R439): `cutting` while its chunks switch one by one, `shooting` from the entry
write on; after an entry write that failed, `returning` while the chunks switch back, `back` from then on. -/
inductive MoveSt | moving | cutting | shooting | returning | back
  deriving DecidableEq, Repr
/-- A page in motion. `sw`: the chunks that have switched, or switched back (R157, R439). -/
structure Move where
  src : Nat
  dst : Nat
  leaf : Nat
  leafVal : Word
  part : BitVec 3
  hot : BitVec 8
  byMigr : Bool
  cnt : Option (BitVec 12)
  accepted : Nat
  chunks : Vector Chunk 16 := Vector.replicate 16 .notCopied
  pass : Nat := 1
  todo : List Nat := List.range 16
  sw : Nat := 0
  st : MoveSt := .moving
  acks : List Nat := []
  bad : Bool := false
  also : List (BitVec 12) := []
  deriving DecidableEq, Repr
/-- A request of MIGR not yet started (R151). -/
structure MigReq where
  src : Nat
  leaf : Nat
  leafVal : Word
  dst : Option Nat
  part : BitVec 3
  hot : BitVec 8
  cnt : Option (BitVec 12)
  accepted : Nat
  deriving DecidableEq, Repr
/-- A completion record not yet written (R151, Table 6.9), without MCKS, which counts from `accepted`. -/
structure CqRec where
  w : Vector Word 4
  accepted : Nat
  cnts : List (BitVec 12)
  deriving DecidableEq, Repr
/-- The carder (06). -/
structure Carder where
  ctl : Word := 0x0010000000000400
  hot : Word := 0
  fq : Word := 0
  cq : Word := 0
  mck : Nat := 0
  reqs : List MigReq := []
  declines : List CqRec := []
  moves : List Move := []
  deriving DecidableEq, Repr
/-- A window (Table 13.3): words 0, 2, 3, its key, and the accepted requests still unanswered. -/
structure Win where
  w0 : Word := 0
  key : Word := 0
  w2 : Word := 0
  w3 : Word := 0
  deriving DecidableEq, Repr
/-- A fabric port (Table 21.6). -/
structure FPort where
  up : Bool := false
  storm : Bool := false
  storms : BitVec 16 := 0
  retries : BitVec 32 := 0
  flits : Nat := 0
  winRetries : Nat := 0
  retraining : Bool := false
  deriving DecidableEq, Repr
/-- What the completion of an outstanding request does (R323, R331): of an element of a command, of an I-cache fill (`line`),
of a message of a gang member to its leader (R458), or of an access that belongs to no command (`side`): a write, or with `reload` the read of
a record or dump at that virtual address. `asid`, `va` and `large`: the
translation that it was issued under. -/
structure OutReq where
  id : Nat
  u : UnitId
  e : EngId
  cmd : Nat
  elt : Nat
  host : Bool
  port : Option (Fin 24)
  win : BitVec 12 := 0
  wr : Bool
  gang : Option (BitVec 10) := .none
  gmsg : Option (Nat × BitVec 14 × GangMsg) := .none
  line : Option Nat := .none
  pa : Nat := 0
  poison : Bool := false
  va : Nat := 0
  asid : BitVec 12 := 0
  large : Bool := false
  side : Bool := false
  reload : Option Nat := .none
  deriving DecidableEq, Repr
/-- A message that left the device. -/
inductive OutMsg
  | req (r : FabReq)
  | resp (dest : BitVec 14) (id : Nat) (status : BitVec 8) (data : List Byte)
  | gang (kind : Nat) (dest : BitVec 14) (m : GangMsg)
  | ar (down : Bool) (dest : BitVec 14) (m : ArMsg)
  | refusedGroup (m : ArMsg)
  | host (id : Nat) (wr : Bool) (addr : Nat) (len : Nat) (data : List Byte)
  | hostAmo (id : Nat) (addr : Nat) (op : RemoteOp)
  | report (src : Option (BitVec 14)) (busy : Bool) (bytes : List Byte)
  deriving DecidableEq, Repr
/-- An all-reduce group (Table 13.5) and its round in progress. -/
structure ArGrp where
  w0 : Word := 0
  w1 : Word := 0
  round : BitVec 32 := 1
  running : Bool := false
  got : List (BitVec 14 × List ArVal) := []
  sent : Bool := false
  early : List ArMsg := []
  deriving DecidableEq, Repr
/-- A gang at this device (R316, R317, R457–R459). -/
structure Gang where
  gtag : BitVec 10
  owner : BitVec 12
  leader : BitVec 14
  gm : BitVec 14
  gn1 : BitVec 14
  acks : List (BitVec 14 × BitVec 14) := []
  votes : List (BitVec 14) := []
  voted : Bool := false
  committed : Bool := false
  aborted : Bool := false
  died : Bool := false
  expired : Bool := false
  told : List (BitVec 14) := []
  deriving DecidableEq, Repr
/-- Fabric, windows, groups and gangs (13, 21). `unanswered`: requests accepted at ingress and not yet performed, whether that was
before the last write of V or KEY of their window (DRAIN), and the address that the check of the request gave. -/
structure Fabric where
  cfg : Word := 0
  time : Word := 0x00002710000007D0
  retry : Word := 0x0000004000100000
  ports : Vector FPort 24 := Vector.replicate 24 {}
  wins : List (Nat × Win) := []
  werr : List (Nat × Word) := []
  out : List OutReq := []
  unanswered : List (FabReq × Bool × Nat) := []
  sent : List OutMsg := []
  nextReq : Nat := 0
  grps : List (Nat × ArGrp) := []
  gangs : List Gang := []
  earlyVotes : List GangMsg := []
  decisions : List Gang := []
  heldAcks : List GangMsg := []
  deriving DecidableEq, Repr
/-- The order in which a crown-to-crown route runs (R16). -/
inductive RouteOrder | cxFirst | cyFirst
  deriving DecidableEq, Repr
/-- The felt (R15, R16, R351): BIST of the ten crown-to-crown links, of each crown's router and of its link to the brim die, and
the route of each ordered pair of crowns, source 8 × a + b for a to b; `none` for a pair that is not of two working crowns. -/
structure Felt where
  links : BitVec 10 := 0
  routers : BitVec 8 := 0
  brimLinks : BitVec 8 := 0
  routes : Vector (Option RouteOrder) 64 := Vector.replicate 64 .none
  deriving DecidableEq, Repr
/-- Power and clocks (15). -/
structure Power where
  stat : Word := 0
  lim : BitVec 16 := 2600
  target : Vector (BitVec 10) 8 := Vector.replicate 8 800
  mhz : Vector (BitVec 10) 8 := Vector.replicate 8 0
  dcgcfg : Word := 0x000000400573695F
  deriving DecidableEq, Repr
/-- Measurement, mailbox and boot (15). -/
structure Attest where
  meas : Vector (BitVec 256) 8 := Vector.replicate 8 0
  idpub : BitVec 512 := 0
  status : BitVec 4 := 0
  arg : Word := 0
  data : BitVec 256 := 0
  report : List Byte := []
  queue : List (Option (BitVec 14) × BitVec 256) := []
  signing : Option (Option (BitVec 14) × BitVec 256 × List Byte) := .none
  step : Nat := 0
  failed : Bool := false
  deriving DecidableEq, Repr
/-- An HBM controller (Tables 20.3–20.5) with its status counts. -/
structure MemCtl where
  sridle : BitVec 16 := 100
  mth : BitVec 16 := 4096
  alert : Bool := false
  nrfm : BitVec 16 := 0
  ce : BitVec 16 := 0
  ue : BitVec 16 := 0
  last : Word := 0
  extended : Bool := false
  deriving DecidableEq, Repr
/-- A bank: its open row, its activation counters (row, count) by index, the aggressors whose RFM is due, and the physical rows that
the last RFM refreshed (R444). -/
structure Bank where
  key : Nat
  row : Option Nat := .none
  cnts : List (Nat × Nat) := []
  rfm : List Nat := []
  refreshed : List Nat := []
  deriving DecidableEq, Repr
/-- An entry of the row-remap table of a pseudo-channel: the defective row of a bank, its spare row, and the shadow copy (R423). -/
structure RemapEnt where
  k : Nat
  pc : Nat
  bank : Nat
  row : Nat
  spare : Nat
  copy : Nat
  deriving DecidableEq, Repr
/-- Memory controllers and tiers. `selfRef` lists the pseudo-channels in self-refresh, 128 × crown + number; `remap` the entries of the
row-remap tables, written at boot (R423). -/
structure Health where
  hbm : Vector MemCtl 16 := Vector.replicate 16 {}
  lp : Vector MemCtl 8 := Vector.replicate 8 {}
  cxl : Vector MemCtl 4 := Vector.replicate 4 {}
  banks : List Bank := []
  selfRef : List Nat := []
  remap : List RemapEnt := []
  spill : List (Nat × Word) := []
  cxlCap : Vector Nat 4 := Vector.replicate 4 0
  link : LinkMode := .down
  deriving DecidableEq, Repr
/-- Everything outside the units. `completions` numbers the commands that engines retain in the order of their completion (R396). -/
structure Dev where
  mem : MemSt := {}
  hbmcfg : Word := 0
  counters : List (Nat × BitVec 32) := []
  sched : Sched := {}
  part : Vector Word 8 := Vector.replicate 8 0
  moth : Vector Moth 8 := Vector.replicate 8 {}
  card : Carder := {}
  fab : Fabric := {}
  pow : Power := {}
  att : Attest := {}
  hl : Health := {}
  felt : Felt := {}
  pkg : Option PkgCmd := .none
  completions : Nat := 0
  hostRead : Word := 0
  hdmData : List Byte := []
  hdmPoison : Bool := false
  deriving Repr, DecidableEq

/-- The machine. `agenda` lists the rows still to come, in order: the interleaving of the agents as plain data;
`cur` is the unit whose slot operations and clocks are carried out; `free` indexes the free values (log 3, 8). -/
structure State where
  units : Vector UnitSt 9
  dev : Dev
  agenda : List Instr
  cur : UnitId
  free : Nat
  deriving Repr, DecidableEq

/-- ENERGY_WEIGHT at reset (Table 12.7). -/
def resetWeights : Vector (BitVec 32) 16 :=
  #v[20, 5, 60, 120, 200, 150, 100, 17500, 17500, 60000, 700, 1500, 2500, 3000, 250, 1000]

/-- The machine right after power-on reset: every field at its Reset column; log 1 for the rest. -/
def State.reset : State :=
  { units := Vector.replicate 9 {},
    dev := { sched := { ctl := 0x000000004E200020, weight := resetWeights } },
    agenda := [], cur := 0, free := 0 }

end Sys2Proof.Machine
end

