-- ==== Sys2Proof/Machine/Mem.lean ====
section
/-! DEFINITION. Storage: the canonical sparse maps, face scratch and granules (R91–R99), accumulator rows
(R103), physical memory with its map, interleave, poison and exact cells (R106–R116, R419, R426), and the
page-table walk (R139–R141). -/
namespace Sys2Proof.Machine

/-! ### Canonical sparse maps: keys strictly rising, no entry equal to the default -/
/-- The value at a key; what is not listed is the default. -/
def smGet {α : Type} (d : α) : List (Nat × α) → Nat → α
  | [], _ => d
  | (k', v) :: t, k => if k = k' then v else if k < k' then d else smGet d t k
/-- An entry in front of a map, unless it equals the default. -/
def smCons {α : Type} [DecidableEq α] (d : α) (k : Nat) (v : α) (t : List (Nat × α)) : List (Nat × α) :=
  if v = d then t else (k, v) :: t
/-- The map with a value at a key. -/
def smSet {α : Type} [DecidableEq α] (d : α) : List (Nat × α) → Nat → α → List (Nat × α)
  | [], k, v => smCons d k v []
  | (k', v') :: t, k, v =>
    if k = k' then smCons d k v t
    else if k < k' then smCons d k v ((k', v') :: t)
    else (k', v') :: smSet d t k v
/-- The map with values at consecutive keys. -/
def smPut {α : Type} [DecidableEq α] (d : α) (m : List (Nat × α)) (k : Nat) (vs : List α) : List (Nat × α) :=
  m.filter (fun x => x.1 < k) ++ (vs.zipIdx.map fun x => (k + x.2, x.1)).filter (fun x => x.2 ≠ d) ++ m.filter fun x => k + vs.length ≤ x.1
/-- The entries of a range of keys. -/
def smSlice {α : Type} (m : List (Nat × α)) (k n : Nat) : List (Nat × α) := m.filter fun x => k ≤ x.1 && x.1 < k + n
/-- The canonical form. -/
def smWf {α : Type} [DecidableEq α] (d : α) : List (Nat × α) → Bool
  | [] => true
  | [(_, v)] => v ≠ d
  | (k, v) :: (k', v') :: t => k < k' && v ≠ d && smWf d ((k', v') :: t)
/-- A key put into an ascending list of keys. -/
def setIns : List Nat → Nat → List Nat
  | [], k => [k]
  | x :: t, k => if k = x then x :: t else if k < x then k :: x :: t else x :: setIns t k
/-- A key taken out of a list. -/
def setDel (l : List Nat) (k : Nat) : List Nat := l.filter (· != k)

/-! ### Units -/
/-- A unit of the package. -/
def State.unit (s : State) (u : UnitId) : UnitSt := s.units[u.val]
/-- The machine with a unit replaced. -/
def State.setUnit (s : State) (u : UnitId) (x : UnitSt) : State := { s with units := s.units.set u.val x }
/-- The machine with a unit changed. -/
def State.modUnit (s : State) (u : UnitId) (f : UnitSt → UnitSt) : State := s.setUnit u (f (s.unit u))
/-- The unit whose clock is carried out. -/
def State.me (s : State) : UnitSt := s.unit s.cur
/-- That unit changed. -/
def State.modMe (s : State) (f : UnitSt → UnitSt) : State := s.modUnit s.cur f
/-- The device changed. -/
def State.modDev (s : State) (f : Dev → Dev) : State := { s with dev := f s.dev }
/-- The brim core. -/
def brim : UnitId := 8
/-- Whether a unit is the brim core. -/
def isBrim (u : UnitId) : Bool := u == brim
/-- A crown as a unit. -/
def crownUnit (k : Nat) : UnitId := Fin.ofNat 9 (k % 8)

/-! ### Face scratch and the weight buffer -/
/-- Regions of the crown scratch address space (Table 4.3). -/
inductive Region | west | south | wb0 | wb1 | reserved
  deriving DecidableEq, Repr
/-- The region of a scratch address. -/
def regionOf (a : Nat) : Region :=
  if a < 0x2000000 then .west else if a < 0x4000000 then .south
  else if a < 0x4400000 then .wb0 else if a < 0x4800000 then .wb1 else .reserved
/-- The port of a scratch byte (R93, R100): the shared port of its face bank, or the port of its weight-buffer half. -/
def portOf (a : Nat) : Nat :=
  match regionOf a with
  | .west => bitsOf a 6 6
  | .south => 64 + bitsOf a 6 6
  | .wb0 => 128
  | .wb1 => 129
  | .reserved => 130
/-- The granule that holds an address. -/
def granAt (st : Stores) (a : Nat) : Gran := smGet {} st.face (a / 16)
/-- A byte of scratch; a poisoned byte reads as zero (R400). -/
def scrByte (st : Stores) (a : Nat) : Byte :=
  let g := granAt st a
  if g.poison then 0 else g.data.extractLsb' (8 * (a % 16)) 8
/-- Bytes of scratch from an address. -/
def scrBytes (st : Stores) (a n : Nat) : List Byte := (List.range n).map fun i => scrByte st (a + i)
/-- A little-endian value of scratch. -/
def scrNat (st : Stores) (a n : Nat) : Nat := leNat (scrBytes st a n)
/-- Any granule of a byte range is poisoned. -/
def scrPoison (st : Stores) (a n : Nat) : Bool := (List.range n).any fun i => (granAt st (a + i)).poison
/-- A granule changed. -/
def modGran (st : Stores) (g : Nat) (f : Gran → Gran) : Stores :=
  { st with face := smSet {} st.face g (f (smGet {} st.face g)) }
/-- A byte put into a granule's data. -/
def putByte (x : BitVec 128) (i : Nat) (b : Byte) : BitVec 128 :=
  BitVec.ofNat 128 (setBits x.toNat (8 * i) 8 b.toNat)
/-- A byte written; poison stays until a write covers the granule (R419). -/
def scrPut (st : Stores) (a : Nat) (b : Byte) : Stores :=
  modGran st (a / 16) fun g => { g with data := putByte g.data (a % 16) b }
/-- The granules that a list of byte addresses touches, each once, in ascending order. -/
def gransOf (as : List Nat) : List Nat := (as.map (· / 16)).foldl setIns []
/-- Whether the addresses cover all sixteen bytes of a granule. -/
def coversGran (as : List Nat) (g : Nat) : Bool := (List.range 16).all fun i => as.contains (16 * g + i)
/-- A store of bytes in order, the later of two on one address remaining (R233); it clears the poison of granules
it covers and acts on the full/empty bits as `fe` says (Table 4.4). -/
def scrStore (st : Stores) (bytes : List (Nat × Byte)) (fe : Option Bool) : Stores :=
  let as := bytes.map Prod.fst
  let st := bytes.foldl (fun st x => scrPut st x.1 x.2) st
  (gransOf as).foldl (fun st g => modGran st g fun x =>
    let keep := !coversGran as g
    { x with full := fe.getD x.full, poison := x.poison && keep, prop := x.prop && keep }) st
/-- The full/empty bits of granules set. -/
def setFull (st : Stores) (gs : List Nat) (b : Bool) : Stores :=
  gs.foldl (fun st g => modGran st g fun x => { x with full := b }) st
/-- Granules poisoned; `prop`: by a copy (R420). -/
def setPoison (st : Stores) (gs : List Nat) (prop : Bool) : Stores :=
  gs.foldl (fun st g => modGran st g fun x => { x with poison := true, prop := prop }) st
/-- A change of the stores made to granules kept aside. -/
def mapGrans (f : Stores → Stores) (gs : List (Nat × Gran)) : List (Nat × Gran) :=
  gs.map fun g => (g.1, smGet {} (f { face := [g] }).face g.1)
/-- Consecutive bytes from an address as address and byte pairs. -/
def bytesAt (a : Nat) (bs : List Byte) : List (Nat × Byte) := bs.zipIdx.map fun x => (a + x.2, x.1)
/-- The rotated address of row r with code c (R95). -/
def rotAddr (a r c : Nat) : Nat :=
  if c = 0 then a else setBits a 6 6 (bitsOf a 6 6 ^^^ (r / 2 ^ (7 - c) % 2 ^ c))

/-! ### Accumulator rows (R103): key slot × 128 + row -/
/-- A row of 128 words of the working bank. -/
def accRow (st : Stores) (k : Nat) : VecVal := smGet 0 st.acc k
/-- A row replaced. -/
def setAccRow (st : Stores) (k : Nat) (v : VecVal) : Stores := { st with acc := smSet 0 st.acc k v }
/-- A row of a plane accumulator: key batt × 128 + row (R105). -/
def planeRow (st : Stores) (k : Nat) : VecVal := smGet 0 st.planes k
/-- A plane row replaced; its words lose their poison. -/
def setPlaneRow (st : Stores) (k : Nat) (v : VecVal) : Stores :=
  { st with planes := smSet 0 st.planes k v, planePoison := st.planePoison.filter fun w => w / 128 != k }

/-! ### Lanes of a vector value (R58, R219) -/
/-- Lane i. -/
def lane (v : VecVal) (i : Nat) : BitVec 32 := v.extractLsb' (32 * i) 32
/-- A vector from its lanes. -/
def ofLanes (f : Nat → Nat) : VecVal :=
  BitVec.ofNat 4096 ((List.range 128).foldr (fun i acc => f i % 2 ^ 32 + 2 ^ 32 * acc) 0)
/-- The lanes of `new` where the mask is 1, of `old` elsewhere. -/
def mergeLanes (m : Mask) (new old : VecVal) : VecVal :=
  ofLanes fun i => ((if m.getLsbD i then lane new i else lane old i)).toNat

/-! ### Physical memory -/
/-- Tiers of the physical map (Table 4.6), backed parts only (R426). -/
inductive Tier
  | hbmIx | hbmDirect (k : Nat) | lp6 | cxl (p : Nat) | brimScratch | fabric | host | none
  deriving DecidableEq, Repr
/-- IXSIZE. -/
def Dev.ixsize (d : Dev) : Nat := bitsOf d.hbmcfg.toNat 8 8
/-- NCROWN. -/
def Dev.ncrown (d : Dev) : Nat := bitsOf d.hbmcfg.toNat 36 4
/-- SURV. -/
def Dev.surv (d : Dev) : Nat := bitsOf d.hbmcfg.toNat 24 8
/-- The working crowns in ascending order (R109). -/
def Dev.survivors (d : Dev) : List Nat := (List.range 8).filter fun k => d.surv.testBit k
/-- CIT[i].CROWN (Table 4.8). -/
def Dev.cit (d : Dev) (i : Nat) : Nat := d.survivors.getD (i % d.ncrown) 0
/-- IXGROUPS (Table 4.7). -/
def Dev.ixgroups (d : Dev) : Nat := bitsOf d.hbmcfg.toNat 40 17
/-- The CXL port that decodes an offset of the tier, with the offset in its expander (R111, R324). -/
def cxlPort (caps : List Nat) (p off : Nat) : Option (Nat × Nat) :=
  match caps with
  | [] => none
  | c :: cs => if off < c then some (p, off) else cxlPort cs (p + 1) (off - c)
/-- The tier of a physical address; `none` when reserved or unbacked. -/
def Dev.tier (d : Dev) (pa : Nat) : Tier :=
  if pa < 2 ^ 40 then (if pa / 2 ^ 24 < d.ixgroups then .hbmIx else .none)
  else if pa < 2 ^ 41 then
    let k := (pa - 2 ^ 40) / 2 ^ 37
    if d.surv.testBit k && (pa - 2 ^ 40) % 2 ^ 37 < (128 - d.ixsize) * 2 ^ 30 then .hbmDirect k else .none
  else if pa < 0x38000000000 then .lp6
  else if pa < 2 ^ 42 then .none
  else if pa < 0xC0000000000 then
    match cxlPort d.hl.cxlCap.toList 0 (pa - 2 ^ 42) with
    | some x => .cxl x.1
    | none => .none
  else if pa < 0xC0000000000 + 2 ^ 24 then .brimScratch
  else if pa < 2 ^ 50 then .none
  else if pa < 2 ^ 51 then .fabric
  else if pa < 2 ^ 52 then .host
  else .none
/-- The crown and DRAM offset of an HBM address (R110). -/
def Dev.hbmLoc (d : Dev) (pa : Nat) : Nat × Nat :=
  if pa < 2 ^ 40 then
    let h := bitsOf pa 12 12 ^^^ bitsOf pa 24 12 ^^^ bitsOf pa 36 12
    let n := max 1 d.ncrown
    let q := ceilDiv 4096 n
    (d.cit h, (128 - d.ixsize) * 2 ^ 30 + (pa / 2 ^ 24 * q + h / n) * 4096 + pa % 4096)
  else ((pa - 2 ^ 40) / 2 ^ 37, (pa - 2 ^ 40) % 2 ^ 37)
/-- The controller of an address: HBM 2k + stack, then LP6 16 + l, then CXL 24 + p (R111, R423). -/
def Dev.ctl (d : Dev) (pa : Nat) : Option Nat :=
  match d.tier pa with
  | .hbmIx | .hbmDirect _ => let x := d.hbmLoc pa; some (2 * x.1 + bitsOf x.2 14 1)
  | .lp6 => some (16 + bitsOf (pa - 2 ^ 41) 12 3)
  | .cxl p => some (24 + p)
  | _ => none
/-- Crown, pseudo-channel, bank and row of an HBM address (R423). -/
def Dev.hbmRow (d : Dev) (pa : Nat) : Option (Nat × Nat × Nat × Nat) :=
  match d.tier pa with
  | .hbmIx | .hbmDirect _ =>
    let x := d.hbmLoc pa
    some (x.1, bitsOf x.2 8 7, bitsOf x.2 17 4 ^^^ bitsOf x.2 21 4, bitsOf x.2 21 16)
  | _ => none
/-- The column of an HBM address in its row (R423). -/
def Dev.hbmColumn (d : Dev) (pa : Nat) : Nat := let o := (d.hbmLoc pa).2; bitsOf o 15 2 * 256 + bitsOf o 0 8
/-- The entry of the row-remap table that a lookup of a row finds (R423). -/
def Dev.remapOf (d : Dev) (k pc bank row : Nat) : Option RemapEnt :=
  d.hl.remap.find? fun e => e.k = k && e.pc = pc && e.bank = bank && e.row = row
/-- The physical number of a row, after the row-remap table has been applied (R423). -/
def Dev.physRow (d : Dev) (k pc bank row : Nat) : Nat := ((d.remapOf k pc bank row).map RemapEnt.spare).getD row
/-- The physical rows next to a row: their numbers differ by one from its own (R423). -/
def Dev.neighbours (d : Dev) (k pc bank row : Nat) : List Nat :=
  let p := d.physRow k pc bank row
  (if p = 0 then [] else [p - 1]) ++ [p + 1]
/-- The row that holds an address has been retired (R424). -/
def Dev.retiredAt (d : Dev) (pa : Nat) : Bool :=
  if d.mem.retired.isEmpty then false
  else
    match d.hbmRow pa with
    | some x => d.mem.retired.contains x
    | none => false

/-- The value that a read of a cell returns, in its format (R114, R115). -/
def RedCell.read (c : RedCell) : Nat :=
  match c.st with
  | .nan => Fmt.nanBits c.fmt
  | .posInf | .satPos => infBits c.fmt false
  | .negInf | .satNeg => infBits c.fmt true
  | .finite =>
    if c.val = 0 then signBit c.fmt c.z0
    else (roundFin c.fmt .rne false false 0 (c.val < 0) c.val.natAbs (-160)).1
/-- The cell set exactly to a value (R114). -/
def RedCell.load (c : RedCell) (x : Nat) : RedCell :=
  match decF c.fmt x with
  | .nan => { c with st := .nan, val := 0, z0 := false }
  | .inf n => { c with st := if n then .negInf else .posInf, val := 0, z0 := false }
  | .fin n m e => { c with st := .finite, val := FVal.scaled n m e (-160), z0 := n && m == 0 }
/-- An operand added exactly into the cell (R114, R115). -/
def RedCell.add (c : RedCell) (x : Nat) : RedCell :=
  let z0 := c.z0 && x == signBit c.fmt true
  let c := { c with z0 := z0 }
  match decF c.fmt x with
  | .nan => { c with st := .nan }
  | .inf n =>
    match c.st with
    | .nan => c
    | .posInf => if n then { c with st := .nan } else c
    | .negInf => if n then c else { c with st := .nan }
    | _ => { c with st := if n then .negInf else .posInf }
  | .fin n m e =>
    match c.st with
    | .finite =>
      let v := c.val + FVal.scaled n m e (-160)
      if 2 ^ 319 ≤ v.natAbs then { c with st := if v < 0 then .satNeg else .satPos, val := 0 } else { c with val := v }
    | _ => c
/-- Width of the word of a cell in bytes. -/
def RedCell.bytes (c : RedCell) : Nat := c.fmt.bits / 8
/-- The cell that holds a byte. -/
def MemSt.cellOf (m : MemSt) (pa : Nat) : Option RedCell :=
  m.red.find? fun c => c.pa ≤ pa && pa < c.pa + c.bytes

/-- A byte as a read returns it, given the cells that stand around it. -/
def MemSt.byteOf (m : MemSt) (l : List Host.Cell) (pa : Nat) : Byte :=
  match m.cellOf pa with
  | some c => BitVec.ofNat 8 (c.read / 2 ^ (8 * (pa - c.pa)))
  | none => smGet 0 l pa
/-- A byte of memory as a read performed at its ordering point returns it (R114, R118). -/
def Dev.byte (d : Dev) (pa : Nat) : Byte := d.mem.byteOf d.mem.cells pa
/-- Bytes of memory. -/
def Dev.bytes (d : Dev) (pa n : Nat) : List Byte :=
  let l := smSlice d.mem.cells pa n
  (List.range n).map fun i => d.mem.byteOf l (pa + i)
/-- A little-endian value of memory. -/
def Dev.rdNat (d : Dev) (pa n : Nat) : Nat := leNat (d.bytes pa n)
/-- A 64-bit word of memory. -/
def Dev.rd64 (d : Dev) (pa : Nat) : Word := BitVec.ofNat 64 (d.rdNat pa 8)
/-- Any 64-byte block of a range is poisoned, or its row is retired (R419, R424). -/
def Dev.poisoned (d : Dev) (pa n : Nat) : Bool :=
  (List.range (n + 1)).any fun i => i < n && (d.mem.poison.contains ((pa + i) / 64) || d.retiredAt (pa + i))
/-- A byte range touches the word of a cell. -/
def RedCell.hit (c : RedCell) (pa n : Nat) : Bool := c.pa < pa + n && pa < c.pa + c.bytes
/-- A plain write of a cell's word: the cell is set exactly to the value that the word then holds (R114). -/
def RedCell.put (c : RedCell) (pa : Nat) (bs : List Byte) : RedCell :=
  c.load (leNat ((List.range c.bytes).map fun i =>
    if pa ≤ c.pa + i && c.pa + i < pa + bs.length then bs.getD (c.pa + i - pa) 0 else BitVec.ofNat 8 (c.read / 2 ^ (8 * i))))
/-- A byte that DRAM keeps through a plain write: of a retired row, whose writes are discarded (R424), or of a bound word. -/
def Dev.kept (d : Dev) (pa : Nat) : Bool := d.retiredAt pa || (d.mem.cellOf pa).isSome
/-- The bytes of DRAM after a plain write. -/
def Dev.mergeBytes (d : Dev) (pa : Nat) (bs : List Byte) : List Byte :=
  let l := smSlice d.mem.cells pa bs.length
  bs.zipIdx.map fun x => if d.kept (pa + x.2) then smGet 0 l (pa + x.2) else x.1
/-- Bytes written: into the cells of bound words, into DRAM elsewhere; writes to a retired row are discarded (R424). -/
def Dev.putBytes (d : Dev) (pa : Nat) (bs : List Byte) : Dev :=
  { d with mem := { d.mem with
      red := d.mem.red.map fun c => if c.hit pa bs.length && !d.retiredAt c.pa then c.put pa bs else c,
      cells := smPut 0 d.mem.cells pa (d.mergeBytes pa bs) } }
/-- A write performed at its ordering point; it clears the poison of every 64-byte block it covers (R419). -/
def Dev.write (d : Dev) (pa : Nat) (bs : List Byte) : Dev :=
  let d := d.putBytes pa bs
  { d with mem := { d.mem with poison := d.mem.poison.filter fun k =>
      !(pa ≤ 64 * k && 64 * k + 64 ≤ pa + bs.length) } }
/-- A 64-bit write. -/
def Dev.wr64 (d : Dev) (pa : Nat) (v : Word) : Dev := d.write pa (leBytes 8 v.toNat)
/-- The blocks of a range poisoned. -/
def Dev.taint (d : Dev) (pa n : Nat) : Dev :=
  { d with mem := { d.mem with
      poison := ((List.range n).map fun i => (pa + i) / 64).foldl setIns d.mem.poison } }
/-- The physical address of a brim scratch offset (Table 4.6). -/
def brimPa (off : Nat) : Nat := 0xC0000000000 + off % 2 ^ 24

/-! ### Translation -/
/-- A translation: physical address, attributes [60:52], page size, leaf entry address (R141), and what it translates. -/
structure Xlat where
  pa : Nat
  attr : BitVec 9
  large : Bool
  leaf : Nat
  va : Nat := 0
  asid : BitVec 12 := 0
  deriving DecidableEq, Repr
/-- What a walk gives. -/
inductive WalkRes
  | ok (x : Xlat)
  | miss
  | table (ea : Nat)
  deriving DecidableEq, Repr
/-- Attribute bits of a leaf (Table 6.3). -/
def attrOrd (a : BitVec 9) : BitVec 2 := fld a 0 2
/-- SCOPE. -/
def attrScope (a : BitVec 9) : BitVec 2 := fld a 2 2
/-- PIN. -/
def attrPin (a : BitVec 9) : Bool := a.getLsbD 4
/-- RO. -/
def attrRo (a : BitVec 9) : Bool := a.getLsbD 5
/-- RED. -/
def attrRed (a : BitVec 9) : Bool := a.getLsbD 6
/-- CMP. -/
def attrCmp (a : BitVec 9) : Bool := a.getLsbD 7
/-- MIG. -/
def attrMig (a : BitVec 9) : Bool := a.getLsbD 8
/-! ### Pages in motion (R153, R157) -/
/-- The 64 KiB frame of an address. -/
def frameOf (pa : Nat) : Nat := pa / 65536
/-- The chunk of an address in its page (R153). -/
def chunkOfPa (pa : Nat) : Fin 16 := Fin.ofNat 16 (pa % 65536 / 4096)
/-- The destination is the ordering point of a chunk: from its switch on, until it has switched back (R160, R439). -/
def Move.away (m : Move) (c : Fin 16) : Bool :=
  match m.st with
  | .moving | .back => false
  | .cutting => c.val < m.sw
  | .shooting => true
  | .returning => m.sw ≤ c.val
/-- A chunk has switched back to the source (R439). -/
def Move.returned (m : Move) (c : Fin 16) : Bool :=
  match m.st with
  | .returning => c.val < m.sw
  | .back => true
  | _ => false
/-- The address at which an access is performed: forwarded to the destination from its chunk's switch on, and to the source
after a cutover that failed (R157, R439, R441). -/
def Dev.home (d : Dev) (pa : Nat) : Nat :=
  let c := chunkOfPa pa
  match d.card.moves.find? fun m => (m.away c && frameOf m.src == frameOf pa) || (m.returned c && frameOf m.dst == frameOf pa) with
  | some m => frameOf (if m.away c then m.dst else m.src) * 65536 + pa % 65536
  | none => pa

/-! ### Walks -/
/-- A table frame in the backed HBM tier or the LP6 tier (R141). -/
def Dev.tableFrame (d : Dev) (t : Nat) : Bool :=
  match d.tier t with
  | .hbmIx | .hbmDirect _ | .lp6 => true
  | _ => false
/-- A leaf that breaks R140 or holds a reserved code (R429). -/
def leafBad (e lvl : Nat) : Bool :=
  bitsOf e 61 3 != 0 || bitsOf e 2 14 != 0 || bitsOf e 52 2 == 3 || bitsOf e 54 2 == 3 ||
    (lvl == 1 && bitsOf e 16 10 != 0)
/-- A table pointer that breaks R140. -/
def pointerBad (e : Nat) : Bool := bitsOf e 52 12 != 0 || bitsOf e 1 15 != 0
/-- The walk of R141 from level `lvl` − 1 at table `t`: each entry is read at its ordering point (R160), and a poisoned one is
a TABLE_FORMAT (R420). -/
def walkGo (d : Dev) (va : Nat) : Nat → Nat → WalkRes
  | 0, t => .table t
  | n + 1, t =>
    let ea := t + bitsOf va (16 + 10 * n) 10 * 8
    if !d.tableFrame t then .table ea
    else
      let e := (d.rd64 (d.home ea)).toNat
      if d.poisoned (d.home ea) 8 then .table ea
      else if !e.testBit 0 then .miss
      else if e.testBit 1 || n == 0 then
        if 2 ≤ n || !e.testBit 1 || leafBad e n then .table ea
        else .ok { pa := if n = 1 then bitsOf e 26 26 * 2 ^ 26 + va % 2 ^ 26 else bitsOf e 16 36 * 2 ^ 16 + va % 2 ^ 16,
                   attr := BitVec.ofNat 9 (bitsOf e 52 9), large := n == 1, leaf := ea, va := va }
      else if pointerBad e then .table ea
      else walkGo d va n (bitsOf e 16 36 * 2 ^ 16)
/-- ASID of a translation base. -/
def asidOf (xl : Word) : BitVec 12 := fld xl 52 12
/-- A translation made under an address space. -/
def WalkRes.under (a : BitVec 12) : WalkRes → WalkRes
  | .ok x => .ok { x with asid := a }
  | r => r
/-- A walk under a translation base (R138, R141). -/
def Dev.walk (d : Dev) (xl : Word) (va : Nat) : WalkRes := (walkGo d va 4 (bitsOf xl.toNat 16 36 * 2 ^ 16)).under (asidOf xl)
/-- The TLB entry of a translation (R142). -/
def Xlat.entry (x : Xlat) (asid : BitVec 12) (va : Nat) : Tlb :=
  let sz := if x.large then 2 ^ 26 else 2 ^ 16
  { asid := asid, vpn := va / sz, large := x.large, frame := x.pa / sz * sz, attr := x.attr, leaf := x.leaf }
/-- A TLB entry that translates an address. -/
def Tlb.hits (t : Tlb) (asid : BitVec 12) (va : Nat) : Bool :=
  t.asid == asid && t.vpn == va / (if t.large then 2 ^ 26 else 2 ^ 16)
/-- The translation of an address by an entry. -/
def Tlb.xlat (t : Tlb) (va : Nat) : Xlat :=
  { pa := t.frame + va % (if t.large then 2 ^ 26 else 2 ^ 16), attr := t.attr, large := t.large, leaf := t.leaf, va := va, asid := t.asid }

/-! ### Completion counters (R289) -/
/-- A counter's value. -/
def Dev.counter (d : Dev) (c : Nat) : BitVec 32 := smGet 0 d.counters c
/-- A counter raised. -/
def Dev.raise (d : Dev) (c n : Nat) : Dev :=
  { d with counters := smSet 0 d.counters c (d.counter c + BitVec.ofNat 32 n) }

end Sys2Proof.Machine
end

