-- ==== Sys2Proof/Machine/Ops.lean ====
section
/-! DEFINITION. Shared operations on a unit: its context, scratch, energy, counters and trace records, deferred
causes, barriers, taking a trap (R374), returning from one (R376), and killing a context (R377). -/
namespace Sys2Proof.Machine

/-! ### The resident context (Table 12.1) -/
/-- A word of the resident task's record. -/
def UnitSt.tw (x : UnitSt) (i : Fin 8) : Nat :=
  match x.ctx with
  | some c => (c.tr[i]).toNat
  | none => 0
/-- ENTRY. -/
def UnitSt.entryVa (x : UnitSt) : Nat := bitsOf (x.tw 0) 0 56
/-- West reservation: first byte and byte after the last. -/
def UnitSt.west (x : UnitSt) : Nat × Nat :=
  (bitsOf (x.tw 3) 0 10 * 65536, (bitsOf (x.tw 3) 0 10 + bitsOf (x.tw 3) 10 10) * 65536)
/-- South reservation, counted from the start of the south face. -/
def UnitSt.south (x : UnitSt) : Nat × Nat :=
  (bitsOf (x.tw 3) 20 10 * 65536, (bitsOf (x.tw 3) 20 10 + bitsOf (x.tw 3) 30 10) * 65536)
/-- WRS. -/
def UnitSt.wrs (x : UnitSt) : Nat := bitsOf (x.tw 3) 10 10
/-- ACCN. -/
def UnitSt.accn (x : UnitSt) : Nat := bitsOf (x.tw 2) 10 6
/-- A flag of record word 2: PLN 23, DV 22, GANG 21, SAVE_SP 20. -/
def UnitSt.flag2 (x : UnitSt) (i : Nat) : Bool := (x.tw 2).testBit i
/-- PRIO. -/
def UnitSt.prio (x : UnitSt) : Nat := bitsOf (x.tw 2) 16 4
/-- I_max (R311). -/
def UnitSt.imax (x : UnitSt) : Nat :=
  let i := bitsOf (x.tw 2) 32 32
  let l := x.ck.pmaxiter.toNat
  if i = 0 then l else Nat.min i l
/-- The pool descriptor of the resident context. -/
def State.desc (s : State) (u : UnitId) : PoolDesc :=
  match (s.unit u).ctx with
  | some c => s.dev.sched.desc[c.pool]
  | none => {}
/-- OWNER of a descriptor. -/
def PoolDesc.owner (d : PoolDesc) : BitVec 12 := fld d.w1 36 12
/-- PRIV. -/
def PoolDesc.priv (d : PoolDesc) : Bool := d.w1.getLsbD 35
/-- EN. -/
def PoolDesc.en (d : PoolDesc) : Bool := d.w1.getLsbD 48
/-- PART. -/
def PoolDesc.part (d : PoolDesc) : Nat := bitsOf d.w1.toNat 32 3
/-- The counter range [CLO, CHI]. -/
def PoolDesc.inRange (d : PoolDesc) (c : Nat) : Bool := bitsOf d.w2.toNat 0 12 ≤ c && c ≤ bitsOf d.w2.toNat 12 12
/-- Number of entries of a pool. -/
def PoolDesc.nent (d : PoolDesc) : Nat := bitsOf d.w1.toNat 24 8 + 1
/-- Owner of the resident context; `none` when no context is resident. -/
def State.ownerOf (s : State) (u : UnitId) : Option (BitVec 12) := (s.unit u).ctx.map fun _ => (s.desc u).owner
/-- TVECn (Table 18.5). -/
def UnitSt.tvec (x : UnitSt) (n : Nat) : BitVec 56 := BitVec.ofNat 56 (x.entryVa + 16 * n)
/-- The VA of the save record of the resident context on a unit (R303, R314). -/
def State.saveVa (s : State) (u : UnitId) : Nat :=
  match (s.unit u).ctx with
  | some c => bitsOf (s.desc u).w3.toNat 0 56 + (8 * c.ent.toNat + (if isBrim u then 0 else 4 * c.dy.toNat + c.dx.toNat)) * 2 ^ 27
  | none => 0
/-- TSAVE (Table 18.5). -/
def State.tsave (s : State) (u : UnitId) : BitVec 56 := BitVec.ofNat 56 (s.saveVa u + 2 ^ 27 - 4096)

/-! ### Registers -/
/-- s[n]; s0 reads 0 (R85). -/
def Regs.rs (r : Regs) (n : Fin 64) : Word := if n = 0 then 0 else r.s[n]
/-- p[n]; p0 reads all ones (R85). -/
def Regs.rp (r : Regs) (n : PReg) : Mask := if n = 0 then BitVec.allOnes 128 else r.p[n]
/-- A write of s[n]; a write of s0 is discarded (R85). -/
def Regs.ws (r : Regs) (n : Fin 64) (v : Word) : Regs := if n = 0 then r else { r with s := r.s.set n v }
/-- A write of p[n] in the lanes of a mask; a write of p0 is discarded (R85). -/
def Regs.wp (r : Regs) (n : PReg) (m v : Mask) : Regs :=
  if n = 0 then r else { r with p := r.p.set n ((v &&& m) ||| (r.p[n] &&& ~~~m)) }
/-- A write of a physical vector register in the lanes of a mask. -/
def Regs.wv (r : Regs) (n : Fin 64) (m : Mask) (v : VecVal) : Regs :=
  { r with v := r.v.set n (if m = BitVec.allOnes 128 then v else mergeLanes m v r.v[n]) }
/-- A register index of a 6-bit code. -/
def r6 (n : BitVec 6) : Fin 64 := Fin.ofNat 64 n.toNat
/-- A register index of a 5-bit code. -/
def r5 (n : BitVec 5) : Fin 32 := Fin.ofNat 32 n.toNat
/-- RBASE: that of the innermost PIPE entry, else 0 (R86). -/
def Sequencer.rbase (q : Sequencer) : Nat :=
  match q.loops.reverse.find? (·.pipe) with
  | some e => e.rbase.toNat
  | none => 0
/-- The physical register of an architectural vector register (R86). -/
def physV (rb : Nat) (n : Fin 64) : Fin 64 :=
  if n.val < 32 then n else Fin.ofNat 64 (32 + (n.val - 32 + rb) % 32)

/-! ### Scratch of a unit: a crown's faces, the brim's own scratch (R91) -/
/-- Bytes of the scratch that a unit's LDS reads. -/
def State.scrRead (s : State) (u : UnitId) (a n : Nat) : List Byte :=
  if isBrim u then s.dev.bytes (brimPa a) n else scrBytes (s.unit u).st a n
/-- Bytes written there; full/empty bits are left unchanged. -/
def State.scrWrite (s : State) (u : UnitId) (bytes : List (Nat × Byte)) : State :=
  if isBrim u then s.modDev fun d => bytes.foldl (fun d x => d.putBytes (brimPa x.1) [x.2]) d
  else s.modUnit u fun x => { x with st := scrStore x.st bytes none }
/-- A range of bytes lies in the reservation of a context on a unit (R92, R217, R301). -/
def UnitSt.inRes (x : UnitSt) (brimU : Bool) (a n : Nat) : Bool :=
  if brimU then x.west.1 ≤ a && a + n ≤ x.west.2
  else
    match regionOf a with
    | .west => x.west.1 ≤ a && a + n ≤ x.west.2
    | .south => 0x2000000 + x.south.1 ≤ a && a + n ≤ 0x2000000 + x.south.2
    | _ => false

/-- The ports of scratch bytes taken for this clock. -/
def UnitSt.takePorts (x : UnitSt) (as : List Nat) : UnitSt :=
  { x with es := { x.es with ports := (as.map portOf).foldl setIns x.es.ports } }

/-! ### Energy (R318–R320) -/
/-- A charge added to ECTR. -/
def addEnergy (e : Word) (c : Nat) : Word :=
  let t := bitsOf e.toNat 48 10 + c
  let n := bitsOf e.toNat 0 48 + t / 1000
  let sat := e.getLsbD 63 || decide (2 ^ 48 ≤ n)
  BitVec.ofNat 64 ((if sat then 2 ^ 63 else 0) + t % 1000 * 2 ^ 48 + Nat.min n (2 ^ 48 - 1))
/-- `n` charges of a class to the context resident on a unit. -/
def State.charge (s : State) (u : UnitId) (cls : Fin 16) (n : Nat) : State :=
  match (s.unit u).ctx with
  | none => s
  | some _ =>
    s.modUnit u fun x => { x with ck := { x.ck with ectr := addEnergy x.ck.ectr (n * (s.dev.sched.weight[cls]).toNat) } }

/-! ### Counters (R343) -/
/-- Counting is on for the context of an owner. -/
def PmRegs.on (p : PmRegs) (own : Option (BitVec 12)) : Bool :=
  p.ctl.getLsbD 0 && (p.ctl.getLsbD 1 || own == some (fld p.ctl 20 12))
/-- The event select of a counter in the active set. -/
def PmRegs.selOf (p : PmRegs) (c : Fin 16) : Nat := bitsOf (p.sel[c]).toNat (8 * p.set_.toNat) 8
/-- `n` occurrences of an event on a unit. -/
def State.pmEvent (s : State) (u : UnitId) (ev n : Nat) : State :=
  if n = 0 || !(s.unit u).pm.on (s.ownerOf u) then s
  else s.modUnit u fun x => { x with pm := { x.pm with
    cnt := Vector.ofFn fun c => let k := x.pm.cnt[c]; if x.pm.selOf c = ev then { k with count := k.count + BitVec.ofNat 64 n } else k } }
/-- TEN and TRUN in one clock of a unit, which also counts towards the rotation of the sets. -/
def State.pmClock (s : State) (u : UnitId) : State :=
  let on := (s.unit u).pm.on (s.ownerOf u)
  let s := s.pmEvent u 1 1
  s.modUnit u fun x =>
    let p := x.pm
    let cnt := if on then Vector.ofFn fun c =>
        let k := p.cnt[c]
        { k with ten := k.ten + 1, trun := if p.selOf c = 0 then k.trun else k.trun + 1 } else p.cnt
    { x with pm := { p with cnt := cnt, since := if p.per = 0 then 0 else p.since + 1 } }
/-- The active set has stood for PMPER clocks. -/
def PmRegs.rotateDue (p : PmRegs) : Bool := p.per != 0 && p.per.toNat ≤ p.since.toNat
/-- The next set becomes active. -/
def PmRegs.rotate (p : PmRegs) : PmRegs :=
  { p with since := 0, set_ := BitVec.ofNat 2 ((p.set_.toNat + 1) % (bitsOf p.ctl.toNat 2 2 + 1)) }

/-- The bits of XLBASE and RXL that are not reserved (Table 6.1). -/
def xlBits : Word := 0xFFFFFFFFFFFF0000

/-! ### Trace records (R340) -/
/-- The UNIT code of a unit (Table 14.5). -/
def unitCode (u : UnitId) : Nat := u.val
/-- A trace record of a source on a unit (R340): kept until the schedule cycle that it names. `back`: the event belongs to the clock
that has just ended. -/
def State.trace (s : State) (u : UnitId) (src : Nat) (sync : Bool) (pcl : Nat) (p2 p3 : Word) (back : Nat := 0) : State :=
  let x := s.unit u
  let own := s.ownerOf u
  let ctl := x.obs.rctl
  let en := (ctl.getLsbD 16 || x.obs.frozenAt == some (x.ck.clk - back)) && own == some (fld ctl 32 12)
  let on := en && (ctl.getLsbD src || (src == 11 && x.obs.arm))
  if !en then s
  else s.modUnit u fun x => { x with obs := { x.obs with recs := x.obs.recs ++
    [{ src := src, ent := (x.ctx.map fun c => c.ent.toNat).getD 0, clkl := (x.ck.clk - back) % 2 ^ 32,
       pcl := if sync then pcl % 2 ^ 32 else 0, p2 := p2, p3 := p3, on := on, sync := sync }] } }
/-- The 32 bytes of a record in a schedule cycle. -/
def TraceRec.bytes (r : TraceRec) (u : UnitId) (scyc : Nat) : List Byte :=
  leBytes 8 (r.src * 2 ^ 60 + unitCode u * 2 ^ 56 + r.ent % 256 * 2 ^ 48 + scyc % 2 ^ 48)
    ++ leBytes 8 (r.clkl * 2 ^ 32 + r.pcl) ++ leBytes 8 r.p2.toNat ++ leBytes 8 r.p3.toNat
/-! ### Moth map (R401–R403, Tables 19.1, 19.2) -/
/-- What an entry of the moth map says. -/
structure MothArg where
  type : Nat
  act : Nat
  cause : Nat
  w1 : Word
  w2 : Word := 0
  deriving DecidableEq, Repr
/-- An entry of 32 bytes written by the brim at HEAD; one that is dropped, at HEAD − TAIL = capacity or with BASE = 0, is counted in
LOST. -/
def Dev.mothPut (d : Dev) (part : Nat) (w0 : Nat) (w1 w2 w3 : Word) : Dev :=
  let p := Fin.ofNat 8 part
  let m := d.moth[p]
  let cap := 128 * (bitsOf m.base.toNat 0 12 + 1)
  if bitsOf m.base.toNat 12 40 = 0 || (m.head - m.tail).toNat = cap then { d with moth := d.moth.set p { m with lost := m.lost + 1 } }
  else
    let d := d.write (bitsOf m.base.toNat 12 40 * 4096 + m.head.toNat % cap * 32)
      (leBytes 8 (w0 + m.head.toNat % 2 ^ 20) ++ leBytes 8 w1.toNat ++ leBytes 8 w2.toNat ++ leBytes 8 w3.toNat)
    { d with moth := d.moth.set p { m with head := m.head + 1 } }
/-- An entry for the context of a unit, in its pool's partition, detected in a schedule cycle; RTY is the number of cancellations of
the context's phase so far (R401, R402). -/
def State.mothAt (s : State) (u : UnitId) (scyc : Nat) (a : MothArg) : State :=
  match (s.unit u).ctx with
  | none => s
  | some c =>
    let d := s.desc u
    let w0 := a.type * 2 ^ 62 + Nat.min (s.unit u).phase.cancels 3 * 2 ^ 60 + a.act * 2 ^ 58 + a.cause % 256 * 2 ^ 48 + d.owner.toNat * 2 ^ 36
      + c.pool.val * 2 ^ 32 + c.ent.toNat * 2 ^ 24 + unitCode u * 2 ^ 20
    s.modDev fun dv => dv.mothPut d.part w0 a.w1 a.w2 (BitVec.ofNat 64 (scyc % 2 ^ 48))
/-- The same, detected in the present schedule cycle. -/
def State.moth (s : State) (u : UnitId) (a : MothArg) : State := s.mothAt u (s.unit u).ck.scyc a
/-- Words 1 and 2 of a TILE entry: path, K range and slots (Table 19.2). -/
def tileW2 (klo khi slot n : Nat) : Word :=
  BitVec.ofNat 64 (khi % 2 ^ 24 * 2 ^ 40 + klo % 2 ^ 24 * 2 ^ 16 + (n - 1) % 32 * 2 ^ 5 + slot % 32)

/-- A freeze of the recorder of a unit: RCTL.EN is cleared; records of this clock and of earlier ones are written (R422). -/
def UnitSt.freeze (x : UnitSt) : UnitSt :=
  { x with obs := { x.obs with rctl := x.obs.rctl &&& ~~~(0x10000#64), frozenAt := if x.obs.rctl.getLsbD 16 then some x.ck.clk else x.obs.frozenAt } }

/-! ### Barriers (R134, R386) -/
/-- Arrivals complete and no byte outstanding. A barrier that no BARI has initialised never completes. -/
def Barrier.complete (b : Barrier) : Bool := b.expect != 0 && b.arrived == b.expect && b.bytes == 0 && !b.broken
/-- The flip of steps 2a and 4. -/
def Barrier.flip (b : Barrier) : Barrier := { b with phase := !b.phase, arrived := 0 }
/-- The phase that a BARW of this clock sees: that before a flip of this clock (R135, Table 2.6). -/
def Barrier.seen (b : Barrier) : Bool := b.phase != b.flipped
/-- BARST[n] (Table 5.7). -/
def Barrier.csr (b : Barrier) : Word :=
  BitVec.ofNat 64 (wrapNat 32 b.bytes * 2 ^ 32 + b.arrived.toNat * 2 ^ 16 + b.expect.toNat * 2 ^ 8
    + (if b.broken then 2 else 0) + (if b.phase then 1 else 0))
/-- The end of a clock: a flip of step 2a becomes visible to BARW (R135). -/
def Barrier.tick (b : Barrier) : Barrier := { b with flipped := false }
/-- Step 2a, after every count-down of a clock and before its arrivals (R134). -/
def Barrier.test2a (b : Barrier) : Barrier := if b.complete then { b.flip with flipped := true } else b
/-- Step 2: a count-down. Below −2^31 the low 32 bits are kept and the barrier breaks (R386). -/
def Barrier.countDown (b : Barrier) (n : Nat) : Barrier × Bool :=
  let v := b.bytes - n
  if v < -(2 ^ 31 : Nat) then ({ b with bytes := signedOf 32 (wrapNat 32 v), broken := true }, true)
  else ({ b with bytes := v }, false)
/-- Step 1: BARI. -/
def Barrier.init (n : BitVec 8) : Barrier := { expect := n }
/-- An arrival that R386 breaks. -/
def Barrier.badArrival (b : Barrier) (count : Nat) : Bool :=
  (b.arrived == b.expect && b.bytes != 0) || decide ((2 ^ 31 : Nat) ≤ b.bytes + count)
/-- Steps 3 and 4: BARA or BARX. -/
def Barrier.arrive (b : Barrier) (count : Nat) : Barrier :=
  let b := { b with arrived := b.arrived + 1, bytes := b.bytes + count }
  if b.complete && !b.flipped then b.flip else b
/-- A barrier of a unit changed, with its flip traced (source 6). -/
def State.setBar (s : State) (u : UnitId) (n : Fin 32) (b : Barrier) : State :=
  let old := (s.unit u).bars[n]
  let s := s.modUnit u fun x =>
    { x with bars := x.bars.set n b, phase := { x.phase with touched := x.phase.touched ||| (1#32 <<< n.val) } }
  if old.phase = b.phase then s else s.trace u 6 false 0 b.csr (BitVec.ofNat 64 n.val)
/-- Step 2a of every barrier of a unit, with the flips traced; the shadows of a phase go with them (R134, R398). -/
def State.barTests (s : State) (u : UnitId) : State :=
  let x := s.unit u
  if !(x.bars.toList.any Barrier.complete || (x.phase.on && x.phase.shadow.toList.any Barrier.complete)) then s
  else
    let t := s.modUnit u fun x => { x with bars := x.bars.map Barrier.test2a,
                                           phase := { x.phase with shadow := x.phase.shadow.map fun b => { b.test2a with flipped := false } } }
    (List.range 32).foldl (fun t i =>
      let n : Fin 32 := Fin.ofNat 32 i
      if (x.bars[n]).complete then t.trace u 6 false 0 ((t.unit u).bars[n]).csr (BitVec.ofNat 64 i) else t) t

/-! ### Kill (R377) -/
/-- A cube command that stops at its next step boundary: the steps that it has started, of a TMMA.P the whole group of a step, still
complete (R377). -/
def CubeCmd.cut (k : CubeCmd) : CubeCmd :=
  { k with last := some (if bitsOf k.hdr.toNat 56 8 = 3 then ceilDiv k.next 8 * 8 else k.next), done := k.done || bitsOf k.hdr.toNat 56 8 = 12 }
/-- Delivered commands that have not started, with ids behind those that have. -/
def Cube.waiting (c : Cube) : List CubeCmd := c.deliv.zipIdx.map fun d => { d.1 with id := c.nextId + d.2 }
/-- Cube commands in the order of their issue (R463). -/
def inOrder (l : List CubeCmd) : List CubeCmd := ((l.map CubeCmd.id).foldl setIns []).flatMap fun i => l.filter fun k => k.id = i
/-- A killed unit: nothing further issues, results and holds and the side logs are discarded, and each cube command stops at its next
step boundary; the engines finish the elements that they have started. The lists of discarded commands and posts stay for KILL_END. A
WATCHDOG kill freezes the recorder (R422). -/
def UnitSt.kill (x : UnitSt) (cause : BitVec 8) : UnitSt :=
  if x.status = .killed then x
  else { (if cause = 0x61 then x.freeze else x) with
    status := .killed, killCause := cause, killScyc := x.ck.scyc,
    seq := { x.seq with flights := [], boost := [], br := none, yielded := false, stall := 0, after := .issue, runDown := false, held := none },
    trap := { x.trap with hold := Vector.replicate 2 {}, pend := [], owed := [] },
    cube := { x.cube with cmds := (inOrder (x.cube.cmds ++ x.cube.stopped.toList ++ x.cube.waiting)).map CubeCmd.cut, stopped := none, deliv := [] },
    es := { x.es with eng := x.es.eng.map fun e => { e with log := [], walk := none },
                      sy := x.es.sy.filter fun o => (match o with | .tpost _ _ _ _ _ _ _ => true | _ => false), tlbiDone := false },
    phase := { cancels := x.phase.cancels },
    ck := { x.ck with preq := false, reqClks := 0 } }
/-- The context (pool, entry) killed on every unit that holds it. -/
def State.killEnt (s : State) (p : Fin 16) (e : BitVec 8) (cause : BitVec 8) : State :=
  { s with units := s.units.map fun x =>
      match x.ctx with
      | some c => if c.pool = p ∧ c.ent = e then x.kill cause else x
      | none => x }
/-- A context killed, with the crown tasks that it drives (R363, R377); a driven task that no unit holds is dispatched and resumed no
more, and ends with the context. -/
def State.killCtx (s : State) (p : Fin 16) (e : BitVec 8) (cause : BitVec 8) : State :=
  let kids := s.dev.sched.ents.filter fun x => x.brimOf == some (p, e)
  let s := kids.foldl (fun s x => s.killEnt x.pool x.ent cause) (s.killEnt p e cause)
  s.modDev fun d => { d with
    pkg := if (s.unit brim).status = .killed then none else d.pkg,
    sched := { d.sched with ents := d.sched.ents.map fun x => if x.brimOf == some (p, e) && x.units.isEmpty then { x with st := .ended } else x } }
/-- The context resident on a unit killed. -/
def State.killUnit (s : State) (u : UnitId) (cause : BitVec 8) : State :=
  match (s.unit u).ctx with
  | some c => s.killCtx c.pool c.ent cause
  | none => s

/-! ### Instruction bytes (R21, R137) -/
/-- A byte of a bundle that stands in the I-cache. -/
def UnitSt.icByte (x : UnitSt) (va : Nat) : Option Byte :=
  (x.es.icache.find? fun l => l.asid == asidOf x.ck.xlbase && l.va == va / 64 * 64).map fun l => l.bytes.getD (va % 64) 0
/-- Bytes from the I-cache; `none` when a line is missing. -/
def UnitSt.icBytes (x : UnitSt) (va : Nat) : Nat → Option (List Byte)
  | 0 => some []
  | n + 1 =>
    match x.icByte (va % 2 ^ 56), x.icBytes (va + 1) n with
    | some b, some bs => some (b :: bs)
    | _, _ => none
/-- The address of the first missing line of a range. -/
def UnitSt.icMiss (x : UnitSt) (va n : Nat) : Option Nat :=
  ((List.range n).find? fun i => (x.icByte ((va + i) % 2 ^ 56)).isNone).map fun i => (va + i) % 2 ^ 56 / 64 * 64
/-- The length of the bundle at an address, when its header stands in the I-cache. -/
def State.lenAt (s : State) (u : UnitId) (va : Nat) : Option Nat :=
  ((s.unit u).icBytes va 8).map fun bs => Header.len ⟨BitVec.ofNat 64 (leNat bs)⟩
/-- The header of the bundle at the PC of a unit, as far as the I-cache holds it. -/
def UnitSt.headerRaw (x : UnitSt) : Word := BitVec.ofNat 64 (leNat ((x.icBytes x.seq.pc.toNat 8).getD []))
/-- A wait stall ends, in whatever way: its record (source 7, R340). -/
def State.closeStall (s : State) (u : UnitId) : State :=
  let x := s.unit u
  match x.seq.held with
  | some (c, n) =>
    let s := s.modUnit u fun x => { x with seq := { x.seq with held := none } }
    if c ≤ 3 then s.trace u 7 true x.seq.pc.toNat x.headerRaw (BitVec.ofNat 64 (c * 2 ^ 32 + n % 2 ^ 32)) else s
  | none => s

/-! ### Traps -/
/-- What a trap records. -/
structure TrapArg where
  code : BitVec 8
  slot : Nat := 15
  tval : Word := 0
  deferred : Bool := false
  bst : Bool := false
  skip : Bool := false
  deriving DecidableEq, Repr
/-- The scratch address of Frame(n) (R374). -/
def UnitSt.frame (x : UnitSt) (n : Nat) : Nat := x.west.2 - 1024 + 512 * (n - 1)
/-- TCAUSE of an entry (Table 18.2). -/
def UnitSt.tcause (x : UnitSt) (a : TrapArg) : BitVec 24 :=
  BitVec.ofNat 24 (a.code.toNat + a.slot % 16 * 2 ^ 8 + x.seq.rix.toNat * 2 ^ 12 + x.seq.loops.length % 8 * 2 ^ 18
    + (if a.deferred then 2 ^ 21 else 0) + (if a.bst then 2 ^ 22 else 0) + (if a.skip || x.seq.skip then 2 ^ 23 else 0))
/-- What level n holds of the interrupted one (R374): results keep their remaining latency. -/
def UnitSt.holdOf (x : UnitSt) : Hold :=
  { flights := x.seq.flights.map fun f => { f with due := f.due - x.ck.scyc },
    sticky := x.seq.sticky,
    boost := x.seq.boost.map fun b => { b with fl := { b.fl with due := b.fl.due - x.ck.scyc } },
    cqHi := Vector.ofFn fun i : Fin 8 => x.regs.cq[24 + i.val],
    br := x.seq.br,
    yielded := x.seq.yielded }
/-- cq24–cq31 replaced. -/
def Regs.setCqHi (r : Regs) (v : Vector Word 8) : Regs :=
  { r with cq := Vector.ofFn fun i : Fin 32 => if h : 24 ≤ i.val then v[i.val - 24] else r.cq[i] }
/-- A TLBI that waits is given up, and one that has completed counts for its own bundle alone: when that bundle issues again, it
removes again (R292). -/
def EngineSide.dropTlbi (e : EngineSide) : EngineSide :=
  { e with tlbiDone := false, sy := e.sy.filter fun o => match o with | .tlbi _ _ _ _ => false | _ => true }
/-- The registers of a unit after the entry into level n with the return point (PC, RIX) as they stand. -/
def UnitSt.enter (x : UnitSt) (n : Nat) (a : TrapArg) : UnitSt :=
  let i : Fin 2 := Fin.ofNat 2 (n - 1)
  { x with
    regs := x.regs.setCqHi (Vector.replicate 8 0),
    lat := {},
    seq := { x.seq with pc := x.tvec n, rix := 0, br := none, yielded := false, skip := false, held := none,
                        sticky := Vector.replicate 4 {}, flights := [], boost := [], stall := 12, after := .issue },
    es := { x.es.dropTlbi with fetchMiss := none },
    trap := { x.trap with tl := BitVec.ofNat 2 n,
                          cause := x.trap.cause.set i (x.tcause a),
                          epc := x.trap.epc.set i x.seq.pc,
                          tval := x.trap.tval.set i a.tval,
                          hold := x.trap.hold.set i x.holdOf } }
/-- The bytes of s0–s63, s_k at 8k. -/
def Regs.frameBytes (r : Regs) : List Byte := (List.range 64).flatMap fun k => leBytes 8 (r.rs (Fin.ofNat 64 k)).toNat
/-- TAKING A TRAP (R374, R368): the return point is (pc, rix) as they stand. A level-3 entry kills with KILL_NEST, and
a context without a west reservation dies of the trap's own cause. -/
def State.takeTrap (s : State) (u : UnitId) (a : TrapArg) : State :=
  let x := s.unit u
  let n := x.trap.tl.toNat + 1
  if 2 < n then s.killUnit u 0x60
  else if x.wrs = 0 then s.killUnit u a.code
  else
    let s := (s.closeStall u).scrWrite u (bytesAt (x.frame n) x.regs.frameBytes)
    let s := s.modUnit u fun x => x.enter n a
    s.trace u 8 true x.seq.pc.toNat ((x.tcause a).setWidth 64) a.tval
/-- THE RETURN FROM A TRAP (R376), at the end of the last reload clock, which its record names (R340). -/
def State.trapReturn (s : State) (u : UnitId) (n : Nat) : State :=
  let x := s.unit u
  let i : Fin 2 := Fin.ofNat 2 (n - 1)
  let h := x.trap.hold[i]
  let c := x.trap.cause[i]
  let fr := s.scrRead u (x.frame n) 512
  let regs := { x.regs with s := Vector.ofFn fun k : Fin 64 => BitVec.ofNat 64 (leNat ((fr.drop (8 * k.val)).take 8)) }
  let skip := c.getLsbD 23
  let s := s.setUnit u { x with
    regs := regs.setCqHi h.cqHi,
    lat := {},
    seq := { x.seq with pc := x.trap.epc[i], rix := if skip then 0 else fld c 12 6, skip := skip, br := h.br, yielded := h.yielded,
                        sticky := h.sticky, runDown := false, stall := 0, after := .issue,
                        flights := x.seq.flights ++ h.flights.map fun f => { f with due := f.due + x.ck.scyc },
                        boost := h.boost.map fun b => { b with fl := { b.fl with due := b.fl.due + x.ck.scyc } } },
    trap := { x.trap with tl := BitVec.ofNat 2 (n - 1), hold := x.trap.hold.set i {} } }
  s.trace u 8 false 0 (c.setWidth 64) (x.trap.tval[i]) 1

/-! ### Deferred causes (R373) -/
/-- The engine that a cause names held or released (R373, R430). -/
def UnitSt.engHold (x : UnitSt) (p : Pend) (b : Bool) : UnitSt :=
  if 12 ≤ p.eng.toNat then x
  else
    let e : EngId := Fin.ofNat 12 p.eng.toNat
    { x with es := { x.es with eng := x.es.eng.set e { x.es.eng[e] with stopped := b, held := b } } }
/-- The units that hold the context which is resident on a unit, that unit first. -/
def State.mates (s : State) (u : UnitId) : List UnitId :=
  u :: (List.range 9).filterMap fun k =>
    let v : UnitId := Fin.ofNat 9 k
    match (s.unit u).ctx, (s.unit v).ctx with
    | some c, some d => if v != u && c.pool = d.pool && c.ent == d.ent then some v else none
    | _, _ => none
/-- The pending deferred causes of the context resident on a unit. -/
def State.pending (s : State) (u : UnitId) : Nat := ((s.mates u).map fun v => (s.unit v).trap.pend.length).sum
/-- A deferred cause raised on a unit: pending, or a kill once EXIT has taken effect (R380). A context holds sixteen; a seventeenth
holds its engine and waits (R373). -/
def State.defer (s : State) (u : UnitId) (p : Pend) : State :=
  let x := s.unit u
  match x.status with
  | .exiting => s.killUnit u p.code
  | .running | .saving | .stored =>
    if s.pending u < 16 then s.modUnit u fun x => { x with trap := { x.trap with pend := x.trap.pend ++ [p] } }
    else
      let was := match x.trap.owed.find? fun q => q.eng == p.eng with
        | some q => q.was
        | none => decide (p.eng.toNat < 12) && (x.es.eng[Fin.ofNat 12 p.eng.toNat]).stopped
      s.modUnit u fun x => ({ x with trap := { x.trap with owed := x.trap.owed ++ [{ p with was := was }] } } : UnitSt).engHold p true
  | _ => s
/-- A cause about an element that faulted: its engine stays held until CPRES; the engine of another cause goes on once its cause is
pending (R430, R431). -/
def Pend.holds (p : Pend) : Bool := (p.code == 0x30 || p.code == 0x31) && !p.tval.getLsbD 60
/-- The first cause that waits on a unit is raised; its engine goes on, unless something else has stopped it (R373, R430). -/
def UnitSt.pay (x : UnitSt) : UnitSt :=
  match x.trap.owed with
  | [] => x
  | p :: t =>
    let x := { x with trap := { x.trap with pend := x.trap.pend ++ [{ p with was := false }], owed := t } }
    if p.was || p.holds || t.any fun q => q.eng == p.eng then x else x.engHold p false
/-- One pending cause has been taken: the first that waits in the context is raised (R373). -/
def State.pay (s : State) (u : UnitId) : State :=
  match (s.mates u).find? fun v => !(s.unit v).trap.owed.isEmpty with
  | some v => s.modUnit v UnitSt.pay
  | none => s
/-- Engines of a mask are stopped or restarted by a program: no cause that waits releases them any more (R284, R430). -/
def TrapRegs.unbind (t : TrapRegs) (m : BitVec 12) : TrapRegs :=
  { t with owed := t.owed.map fun p => if m.getLsbD p.eng.toNat then { p with was := true } else p }
/-- The first due cause: TL not above its level; the earliest issue, then the lower engine (R373). -/
def duePend (tl : BitVec 2) (l : List Pend) : Option Pend :=
  l.foldl (fun b p =>
    if tl.toNat ≤ p.lvl.toNat then
      match b with
      | none => some p
      | some q => if p.sc < q.sc || (p.sc == q.sc && p.eng.toNat < q.eng.toNat) then some p else b
    else b) none
/-- One occurrence of a cause taken off the list. -/
def dropPend (l : List Pend) (p : Pend) : List Pend := l.erase p

/-! ### The bundle after another (R195, R376, R435) -/
/-- The sequencer moved to the bundle that follows the one at an address: at once, or with SKIP, so that engine 11 fetches the
header first, through its own translation (R21, R195, R376, R435). -/
def State.goAfter (s : State) (u : UnitId) (va : BitVec 56) : State :=
  match s.lenAt u va.toNat with
  | some n => s.modUnit u fun x => { x with seq := { x.seq with pc := va + BitVec.ofNat 56 n, rix := 0, skip := false } }
  | none => s.modUnit u fun x => { x with seq := { x.seq with pc := va, rix := 0, skip := true } }

end Sys2Proof.Machine
end

