-- ==== Sys2Proof/Machine/Tile.lean ====
section
/-! DEFINITION. Cube commands: the shape that a tile header and its snapshot give (R238–R247), the operand rows they
read, the issue tests of Table 10.15 and R248, and the progress registers (Tables 10.10, 10.11). -/
namespace Sys2Proof.Machine

/-- 64 equal bytes. -/
def bytes64 (e : BitVec 8) : BitVec 512 := BitVec.ofNat 512 (leNat (List.replicate 64 e))

/-- The cube commands of a crown. -/
inductive TKind | mma | mmas | mmap | zero | drain | load | trn | join
  deriving DecidableEq, Repr
/-- OPC of a header. -/
def hdrOpc (h : Word) : Nat := bitsOf h.toNat 56 8
/-- The kind of a header (Table 7.17). -/
def tkind (h : Word) : TKind :=
  match hdrOpc h with
  | 2 => .mmas | 3 => .mmap | 8 => .zero | 9 => .drain | 10 => .load | 11 => .trn | 12 => .join
  | _ => .mma
/-- LM. -/
def hdrLm (h : Word) : Nat := bitsOf h.toNat 12 8
/-- Batt b acts. -/
def hdrBatt (h : Word) (b : Nat) : Bool := (hdrLm h).testBit b
/-- Z, and SUM of TJOIN. -/
def hdrZ (h : Word) : Bool := h.getLsbD 8
/-- ACC. -/
def hdrAcc (h : Word) : Nat := bitsOf h.toNat 0 5
/-- Slot count of TZERO, TDRAIN, TLOAD. -/
def hdrN (h : Word) : Nat := bitsOf h.toNat 12 5 + 1
/-- SUB. -/
def hdrSub (h : Word) : Nat := bitsOf h.toNat 5 3
/-- LVL. -/
def hdrLvl (h : Word) : Nat := bitsOf h.toNat 9 3

/-- Snapshot fields (Table 10.3). -/
abbrev Snap := Vector Word 16
/-- A field of a staging word. -/
def Snap.f (cb : Snap) (i : Fin 16) (lo len : Nat) : Nat := bitsOf (cb[i]).toNat lo len
/-- The format of a 4-bit code. -/
def fmtOf (c : Nat) : Fmt := (decFmt (BitVec.ofNat 4 c)).getD .i8
/-- FMTA. -/
def Snap.fmtA (cb : Snap) : Fmt := fmtOf (Snap.f cb 5 0 4)
/-- FMTB. -/
def Snap.fmtB (cb : Snap) : Fmt := fmtOf (Snap.f cb 5 4 4)
/-- MB. -/
def Snap.mb (cb : Snap) : Nat := Snap.f cb 4 0 16
/-- NB. -/
def Snap.nb (cb : Snap) : Nat := Snap.f cb 4 16 16
/-- K. -/
def Snap.k (cb : Snap) : Nat := Snap.f cb 4 32 32
/-- FP8 scaled. -/
def Snap.scl (cb : Snap) : Bool := Snap.f cb 5 8 1 = 1
/-- The edge of a scale tile. -/
def Snap.tile (cb : Snap) : Nat := if Snap.f cb 5 9 1 = 1 then 32 else 16

/-- An 8-bit floating format. -/
def isFp8 : Fmt → Bool
  | .e4m3 | .e5m2 => true
  | _ => false
/-- An 8-bit integer format. -/
def isI8 : Fmt → Bool
  | .i8 | .n8 => true
  | _ => false
/-- The chunk size of a dense pairing; `none` outside Table 3.8. -/
def pairChunk (a b : Fmt) : Option Nat :=
  if isFp8 a && isFp8 b then some 48
  else if isI8 a && isI8 b then some 48
  else
    match a, b with
    | .e2m1, .e2m1 => some 96
    | .bf16, .bf16 | .f16, .f16 | .rns16, .rns16 => some 24
    | .f64, .f64 => some 12
    | _, _ => none
/-- The chunk size of a product command (Table 3.8, R252, R253). -/
def chunkOf (h : Word) (cb : Snap) : Option Nat :=
  let a := Snap.fmtA cb
  let b := Snap.fmtB cb
  match tkind h with
  | .mmas => if isFp8 a && isFp8 b then some 96 else if a = .e2m1 ∧ b = .e2m1 then some 192 else none
  | .mmap => if a = .f64 then none else pairChunk a b
  | _ => pairChunk a b
/-- The chunk size, 1 where there is none. -/
def Snap.c (h : Word) (cb : Snap) : Nat := (chunkOf h cb).getD 1
/-- Chunks of a product. -/
def Snap.nch (h : Word) (cb : Snap) : Nat := ceilDiv (Snap.k cb) (Snap.c h cb)
/-- Slots of an output block (R242). -/
def Snap.wq (cb : Snap) : Nat := if Snap.fmtA cb = .f64 then 2 else 1
/-- L′ of TTRN (Table 10.5): 16,384 × esz / 8,192. -/
def trnClks (cb : Snap) : Nat := max 1 ((Snap.fmtA cb).bits / 4)
/-- Slots or planes or steps of a command: the count that its schedule runs over. -/
def stepsOf (h : Word) (cb : Snap) : Nat :=
  match tkind h with
  | .mma | .mmas => Snap.mb cb * Snap.nb cb * Snap.nch h cb
  | .mmap => 8 * Snap.nch h cb
  | .zero => hdrN h
  | .drain => hdrN h * (if hdrSub h = 0 then 8 else 4)
  | .load => hdrN h * 8
  | .trn => 2 * trnClks cb
  | .join => 0
/-- Clocks of a step (R244). -/
def stepClks (h : Word) (cb : Snap) : Nat :=
  match tkind h with
  | .mma => if Snap.fmtA cb = .f64 then 6 else 1
  | _ => 1
/-- The clock, from issue, in which step s reads its operands (TZERO: writes its slot). -/
def stepAt (h : Word) (cb : Snap) (s : Nat) : Nat :=
  match tkind h with
  | .drain => 3 + s
  | _ => 4 + s * stepClks h cb
/-- The completion clock from issue, of all but TMMA.P and TJOIN (Table 10.5). -/
def completeAt (h : Word) (cb : Snap) : Nat :=
  match tkind h with
  | .mma | .mmas => 23 + (stepsOf h cb - 1) * stepClks h cb
  | .mmap => 22 + stepsOf h cb
  | .zero => 4 + hdrN h
  | .drain => 4 + stepsOf h cb
  | .load => 5 + 8 * hdrN h
  | .trn => 4 + 2 * trnClks cb
  | .join => 4
/-- Slots that a command names (Table 10.15 ACC_RANGE). -/
def slotsOf (h : Word) (cb : Snap) : Nat :=
  match tkind h with
  | .mma | .mmas => Snap.mb cb * Snap.nb cb * Snap.wq cb
  | .zero | .drain | .load => hdrN h
  | .join => if hdrZ h then 1 else popN 8 (hdrLm h)
  | _ => 0

/-! ### Operand rows (R94, R95, R242, R252, R253) -/
/-- A scratch operand: base, row pitch, rotation, tile pitch. -/
structure Opnd where
  base : Nat
  rp : Nat
  rot : Nat
  tp : Nat
  deriving DecidableEq, Repr
/-- The operand of a descriptor pair with a plane offset. -/
def Snap.opnd (cb : Snap) (i j : Fin 16) (off : Nat) : Opnd :=
  { base := Snap.f cb i 0 32 + off, rp := Snap.f cb i 32 16, rot := Snap.f cb i 48 4, tp := Snap.f cb j 0 32 }
/-- The unrotated address of row r of chunk j. -/
def Opnd.row (o : Opnd) (j r : Nat) : Nat := o.base + j * o.tp + r * o.rp
/-- A byte of row r: its line is rotated (R95). -/
def Opnd.byteAt (o : Opnd) (j r i : Nat) : Nat := rotAddr (o.row j r + i) r o.rot
/-- The lines, rotated, that `len` bytes of row r of chunk j take; a line is named by its (bank, half) and its number. -/
def Opnd.lines (o : Opnd) (j r len : Nat) : List Nat :=
  let a := o.row j r
  (List.range ((a + len - 1) / 64 - a / 64 + 1)).map fun i => rotAddr ((a / 64 + i) * 64) r o.rot / 64
/-- Lines that fall in distinct (bank, half) pairs (R96, R247); rows in one line read it once. -/
def distinctLines (l : List Nat) : Bool :=
  let d := l.foldl setIns []
  (d.map (· % 128)).Nodup
/-- The lines of one clock in each face fall in distinct pairs; the weight buffer sets no line condition (R247). -/
def faceLinesOk (l : List Nat) : Bool :=
  distinctLines (l.filter fun n => regionOf (64 * n) == .west) && distinctLines (l.filter fun n => regionOf (64 * n) == .south)

/-- Where operands may lie. -/
structure Place where
  west : Bool := false
  south : Bool := false
  wb : Bool := false
  deriving DecidableEq, Repr
/-- The range [lo, hi) lies in one allowed place, and in the reservation when that is a face; the two halves of the weight buffer are
one place (R94, R241, Table 10.15). -/
def UnitSt.placed (x : UnitSt) (p : Place) (lo hi : Nat) : Bool :=
  match regionOf lo with
  | .west => p.west && x.inRes false lo (hi - lo)
  | .south => p.south && x.inRes false lo (hi - lo)
  | .wb0 | .wb1 => p.wb && hi ≤ 0x4800000
  | .reserved => false
/-- The operands of a product, with what is tested of each: chunk-row length, rows of blocks, allowed place; `plane`: those of a
TMMA.P, whose d is not 1. -/
structure OpTest where
  o : Opnd
  len : Nat
  blocks : Nat
  place : Place
  plane : Bool := false
  deriving DecidableEq, Repr
/-- The operand tests of a product command. -/
def opTests (h : Word) (cb : Snap) : List OpTest :=
  let c := Snap.c h cb
  let len := c * (Snap.fmtA cb).bits / 8
  let lenB := c * (Snap.fmtB cb).bits / 8
  match tkind h with
  | .mma =>
    [{ o := Snap.opnd cb 0 1 0, len := len, blocks := Snap.mb cb, place := { west := true, wb := true } },
     { o := Snap.opnd cb 2 3 0, len := lenB, blocks := Snap.nb cb, place := { south := true, wb := true } }]
  | .mmas =>
    [{ o := Snap.opnd cb 0 1 0, len := len / 2, blocks := Snap.mb cb, place := { west := true } },
     { o := Snap.opnd cb 6 7 0, len := len / 2, blocks := Snap.mb cb, place := { south := true } },
     { o := Snap.opnd cb 2 3 0, len := c / 12 * 8, blocks := Snap.nb cb, place := { wb := true } }]
  | .mmap =>
    ((List.range 8).filter (hdrBatt h)).flatMap fun b =>
      [{ o := Snap.opnd cb 0 1 (b * Snap.f cb 1 32 32), len := len, blocks := 1, place := { west := true, wb := true }, plane := true },
       { o := Snap.opnd cb 2 3 (b * Snap.f cb 3 32 32), len := lenB, blocks := 1, place := { south := true, wb := true }, plane := true }]
  | _ => []
/-- The first byte of a row that lies outside its place; a row that no one place holds offends with its first byte. Each row of an
operand is tested on its own: R241 says where an operand lies, and that its rows may stand partly in one of its places and partly in
another is the model's choice (log 70). -/
def UnitSt.rowBad (x : UnitSt) (p : Place) (a len : Nat) : Option Nat :=
  if x.placed p a (a + len) then none
  else some ((((List.range len).map (a + ·)).find? fun b => !x.placed p b (b + 1)).getD a)
/-- The first offending byte of an operand test: a chunk row outside its place, or with d = 1 not in one line (f64: two, from line
offset 0 or 32), in chunk and row order (R247). -/
def OpTest.badAt (x : UnitSt) (t : OpTest) (nch : Nat) : Option Nat :=
  (List.range nch).findSome? fun j => (List.range (128 * t.blocks)).findSome? fun r =>
    let a := t.o.row j r
    match x.rowBad t.place a t.len with
    | some b => some b
    | none =>
      if t.plane || regionOf a == .wb0 || regionOf a == .wb1 || (if t.len = 96 then a % 64 = 0 || a % 64 = 32 else a % 64 + t.len ≤ 64) then none
      else some a
/-- The lines of one clock of an operand lie in distinct pairs of each face (R247): of f64 the first and then the second line of each
row, of any other format all the lines of the rows. -/
def OpTest.linesOk (t : OpTest) (nch : Nat) : Bool :=
  (List.range nch).all fun j => (List.range t.blocks).all fun m =>
    let ls := (List.range 128).map fun r => t.o.lines j (128 * m + r) t.len
    if t.len = 96 then faceLinesOk (ls.flatMap (·.take 1)) && faceLinesOk (ls.flatMap (·.drop 1)) else faceLinesOk ls.flatten
/-- The rows of a tile move: TDRAIN and TLOAD by slot, TTRN by its two sides; with rows per clock. -/
def moveLinesOk (o : Opnd) (tiles len per : Nat) : Bool :=
  (List.range tiles).all fun i => (List.range (128 / per)).all fun g =>
    faceLinesOk ((List.range per).flatMap fun r => o.lines i (g * per + r) len)
/-- Bytes of a row of TDRAIN (Table 10.9) and TLOAD. -/
def rowBytes (h : Word) : Nat := if tkind h = .drain && hdrSub h != 0 then 256 else 512
/-- Bytes of a row of TTRN. -/
def trnBytes (cb : Snap) : Nat := 16 * (Snap.fmtA cb).bits
/-- TTRN moves a scale grid too (R257). -/
def trnScales (cb : Snap) : Bool := Snap.fmtA cb = .e2m1 || Snap.scl cb
/-- Bytes of a scale grid. -/
def gridBytes (cb : Snap) : Nat := (128 / Snap.tile cb) * (128 / Snap.tile cb)
/-- The descriptor words a command reads, for the multiples of 16. -/
def descFields (h : Word) : List (Fin 16 × Nat × Nat) :=
  match tkind h with
  | .mma => [(0, 0, 32), (0, 32, 16), (1, 0, 32), (2, 0, 32), (2, 32, 16), (3, 0, 32)]
  | .mmas => [(0, 0, 32), (0, 32, 16), (1, 0, 32), (2, 0, 32), (2, 32, 16), (3, 0, 32), (6, 0, 32), (6, 32, 16), (7, 0, 32)]
  | .mmap => [(0, 0, 32), (0, 32, 16), (1, 0, 32), (1, 32, 32), (2, 0, 32), (2, 32, 16), (3, 0, 32), (3, 32, 32)]
  | .drain | .load => [(0, 0, 32), (0, 32, 16), (1, 0, 32)]
  | .trn => [(0, 0, 32), (0, 32, 16), (1, 0, 32), (2, 0, 32), (2, 32, 16), (3, 0, 32)]
  | _ => []
/-- The D0 words a command reads: rotation codes 0–6 and zero above. -/
def d0Words (h : Word) : List (Fin 16) :=
  match tkind h with
  | .mma | .mmap | .trn => [0, 2]
  | .mmas => [0, 2, 6]
  | .drain | .load => [0]
  | _ => []
/-- ILLEGAL_OPERAND from the snapshot (Table 10.15). -/
def snapIllegal (h : Word) (cb : Snap) : Bool :=
  let d0bad := (d0Words h).any fun i => 6 < Snap.f cb i 48 4 || Snap.f cb i 52 12 != 0
  let f5 := Snap.f cb 5 10 54 != 0
  match tkind h with
  | .mma | .mmas | .mmap => d0bad || f5 || chunkOf h cb == none
  | .trn => d0bad || f5 || Snap.fmtA cb == .f64 || Snap.fmtA cb == .i64 || Snap.fmtA cb == .n64
  | _ => d0bad
/-- TILE_SHAPE (Table 10.15). -/
def snapShape (h : Word) (cb : Snap) : Bool :=
  match tkind h with
  | .mma | .mmas | .mmap =>
    let bad1 := Snap.mb cb = 0 || 32 < Snap.mb cb || Snap.nb cb = 0 || 32 < Snap.nb cb
    let badk := Snap.k cb = 0 || 65536 * Snap.c h cb < Snap.k cb
    bad1 || badk || (tkind h == .mmap && (Snap.mb cb != 1 || Snap.nb cb != 1)) ||
      (tkind h == .mmas && Snap.k cb % 12 != 0)
  | _ => false
/-- SCRATCH_RANGE (Table 10.15), with the first offending byte address: a base, pitch or stride that is no multiple of
16 (its descriptor's base), then every chunk row and every moved row, whatever K and the layer mask (R243). -/
def snapRange (x : UnitSt) (h : Word) (cb : Snap) : Option Nat :=
  let face : Place := { west := true, south := true }
  let rows := fun (o : Opnd) (tiles len : Nat) (p : Place) =>
    (List.range tiles).findSome? fun i => (List.range 128).findSome? fun r => x.rowBad p (o.row i r) len
  match (descFields h).find? fun d => Snap.f cb d.1 d.2.1 d.2.2 % 16 != 0 with
  | some d => some (Snap.f cb (Fin.ofNat 16 (d.1.val / 2 * 2)) 0 32)
  | none =>
    match tkind h with
    | .mma | .mmas | .mmap => (opTests h cb).findSome? fun t => t.badAt x (Snap.nch h cb)
    | .drain => rows (Snap.opnd cb 0 1 0) (hdrN h) (rowBytes h) face
    | .load => rows (Snap.opnd cb 0 1 0) (hdrN h) 512 { face with wb := true }
    | .trn =>
      let g := fun (p : Place) (a : Nat) => if trnScales cb then x.rowBad p a (gridBytes cb) else none
      (rows (Snap.opnd cb 0 1 0) 1 (trnBytes cb) { face with wb := true }).or
        ((rows (Snap.opnd cb 2 3 0) 1 (trnBytes cb) face).or
          ((g { face with wb := true } (Snap.f cb 6 0 32)).or (g face (Snap.f cb 7 0 32))))
    | _ => none
/-- BANK_CONFLICT (Table 10.15, R247). -/
def snapBanks (h : Word) (cb : Snap) : Bool :=
  match tkind h with
  | .mma | .mmas | .mmap => !(opTests h cb).all fun t => t.linesOk (Snap.nch h cb)
  | .drain | .load => !moveLinesOk (Snap.opnd cb 0 1 0) (hdrN h) (rowBytes h) (128 * 64 / rowBytes h)
  | .trn =>
    let per := 128 / trnClks cb
    !(moveLinesOk (Snap.opnd cb 0 1 0) 1 (trnBytes cb) per && moveLinesOk (Snap.opnd cb 2 3 0) 1 (trnBytes cb) per)
  | _ => false

/-! ### The schedule of a command (Table 10.5, R261) -/
/-- The number of steps a command runs: its own, or up to the step at which it stops. -/
def CubeCmd.limit (k : CubeCmd) : Nat :=
  match k.last with
  | some n => Nat.min n (stepsOf k.hdr k.cb)
  | none => stepsOf k.hdr k.cb
/-- The run clock in which step s reads its operands (TZERO: writes its slot). -/
def CubeCmd.stepClk (k : CubeCmd) (s : Nat) : Nat := k.t + stepAt k.hdr k.cb (s - k.origin)
/-- The run clock of completion, of all but TMMA.P and TJOIN. -/
def CubeCmd.endClk (k : CubeCmd) : Nat := k.t + (completeAt k.hdr k.cb - k.origin * stepClks k.hdr k.cb)
/-- The command with its next step in the place of step 0 of a schedule that counts from run clock t (R261). -/
def CubeCmd.resumeAt (k : CubeCmd) (t : Nat) : CubeCmd := { k with t := t, origin := k.next, last := none }
/-- A TMMA, TMMAS or TMMA.P, which alone can stop between two steps. -/
def isProduct (k : CubeCmd) : Bool := tkind k.hdr == .mma || tkind k.hdr == .mmas || tkind k.hdr == .mmap

/-! ### The governor's clocks (R410, R412) -/
/-- Clock `clk` of CLK is ungated for a batt at step g. -/
def ungatedAt (g : BitVec 3) (clk : Nat) : Bool := decide (g.toNat ≤ clk % 8)
/-- A batt is ungated in the present clock. -/
def UnitSt.ungated (x : UnitSt) (b : Fin 8) : Bool := ungatedAt (x.cfg.dcg[b]).eff x.ck.clk
/-- Clocks, from `clk` on, that hold n ungated ones of a batt at step g. -/
def ungatedSpan (g : BitVec 3) : Nat → Nat → Nat → Nat
  | 0, _, _ => 0
  | f + 1, clk, n => if n = 0 then 0 else 1 + ungatedSpan g f (clk + 1) (if ungatedAt g clk then n - 1 else n)

/-! ### Resources (R248) -/
/-- The resources of R248. -/
inductive Res | west | south | wb | accW | accR | plane
  deriving DecidableEq, Repr
/-- All of them. -/
def allRes : List Res := [.west, .south, .wb, .accW, .accR, .plane]
/-- The port of an address. -/
def resOf (a : Nat) : Res :=
  match regionOf a with
  | .west => .west
  | .south => .south
  | _ => .wb
/-- The first and last of `n` rows from row `r` of a tile. The rows ascend, so these name every face that the rows lie in. -/
def Opnd.ends (o : Opnd) (j r n : Nat) : List Nat := [o.row j r, o.row j (r + n - 1)]
/-- Rows of the operands that step s of a product reads, the first and last of each. -/
def productRows (h : Word) (cb : Snap) (s : Nat) : List Nat :=
  let n := max 1 (Snap.nch h cb)
  let nb := max 1 (Snap.nb cb)
  if tkind h == .mmap then
    (if hdrBatt h (s % 8) then
      (Snap.opnd cb 0 1 (s % 8 * Snap.f cb 1 32 32)).ends (s / 8) 0 128 ++ (Snap.opnd cb 2 3 (s % 8 * Snap.f cb 3 32 32)).ends (s / 8) 0 128
     else [])
  else
    (Snap.opnd cb 0 1 0).ends (s % n) (128 * (s / n / nb)) 128 ++ (Snap.opnd cb 2 3 0).ends (s % n) (128 * (s / n % nb)) 128 ++
      (if tkind h == .mmas then (Snap.opnd cb 6 7 0).ends (s % n) (128 * (s / n / nb)) 128 else [])
/-- The rows that step s of a command reads or writes in faces and weight buffer, the first and last of each run. -/
def portRows (h : Word) (cb : Snap) (s : Nat) : List Nat :=
  let o := Snap.opnd cb 0 1 0
  let per := 128 / trnClks cb
  match tkind h with
  | .mma | .mmas | .mmap => productRows h cb s
  | .drain => let per := 8192 / rowBytes h; o.ends (s / (128 / per)) (s % (128 / per) * per) per
  | .load => o.ends (s / 8) (s % 8 * 16) 16
  | .trn => if s < trnClks cb then o.ends 0 (s * per) per else (Snap.opnd cb 2 3 0).ends 0 ((s - trnClks cb) * per) per
  | .zero | .join => []
/-- First and last clock, from issue, in which step s uses a resource (Table 10.5). A product reads no accumulator word through the
accumulator read: a TDRAIN issued before it ends can see a partial sum (example of R261). -/
def stepUse (h : Word) (cb : Snap) (r : Res) (s : Nat) : Option (Nat × Nat) :=
  let d := stepClks h cb
  let port := (portRows h cb s).any fun a => resOf a == r
  match tkind h, r with
  | .mma, .accW | .mmas, .accW => some (22 + s * d, 22 + s * d)
  | .zero, .accW => some (4 + s, 4 + s)
  | .drain, .accR => some (3 + s, 3 + s)
  | .load, .accW => some (5 + s, 5 + s)
  | _, .accW | _, .accR | _, .plane => none
  | _, _ => if port then some (4 + s * d, 3 + s * d + d) else none
/-- The run clock in which batt b has completed every TMMA.P issued before the command `id`, at the governor's present steps (R254,
R412). -/
def UnitSt.readyAt (x : UnitSt) (id : Nat) (was : Nat) (b : Fin 8) : Nat :=
  x.cube.cmds.foldl (fun m k =>
    if tkind k.hdr = .mmap && k.id < id && hdrBatt k.hdr b.val then
      let mine := x.cube.planes.filter fun p => p.b = b && p.cap.cmd == k.id
      let got := (k.next + 7 - b.val) / 8
      let more := k.limit / 8 - got
      let g := (x.cfg.dcg[b]).eff
      match mine.getLast? with
      | some p => let n := p.left + 8 * more; max m (x.ck.run + ungatedSpan g (8 * n) x.ck.clk n - 1)
      | none =>
        if more = 0 then m
        else let t := k.stepClk (8 * got) + b.val; let n := 10 + 8 * more; max m (t + ungatedSpan g (8 * n) (x.ck.clk + (t - x.ck.run) + 1) n)
    else m) was
/-- The predicted completion of a TJOIN that has drained `n` planes, the last up to clock `e` (R254): each masked plane drains in four
clocks once ready. -/
def UnitSt.joinEnd (x : UnitSt) (k : CubeCmd) (n e : Nat) : Nat :=
  (((List.range 8).filter (hdrBatt k.hdr)).drop n).foldl
    (fun e b => max (max (k.t + 4) e) (x.readyAt k.id (k.ready.toList.getD b 0) (Fin.ofNat 8 b) + 1) + 4) (max e (k.t + 4))
/-- The first run clock in which a command that starts now uses a resource. TJOIN holds the accumulator write, and with it the
accumulator read, from its issue to its completion (R248, R413; log 61). -/
def CubeCmd.firstUse (k : CubeCmd) (r : Res) : Option Nat :=
  match tkind k.hdr, r with
  | .join, .accW | .join, .accR => some k.t
  | .join, .plane => some (k.t + 4)
  | .join, _ => none
  | _, _ => (List.range (k.limit - k.next)).findSome? fun i =>
      (stepUse k.hdr k.cb r (k.next + i)).map fun v => k.t + v.1 - k.origin * stepClks k.hdr k.cb
/-- The last run clock in which a running command uses a resource. -/
def UnitSt.lastUse (x : UnitSt) (k : CubeCmd) (r : Res) : Option Nat :=
  match tkind k.hdr, r with
  | .join, .accW | .join, .accR | .join, .plane => some (max x.ck.run (x.joinEnd k x.cube.drained x.cube.drainEnd))
  | .join, _ => none
  | _, _ => (List.range (k.limit - k.origin)).reverse.findSome? fun i =>
      (stepUse k.hdr k.cb r (k.origin + i)).map fun v => k.t + v.2 - k.origin * stepClks k.hdr k.cb
/-- A command that starts would use some resource before an earlier one has done with it (R248). -/
def UnitSt.busy (x : UnitSt) (k : CubeCmd) : Bool :=
  x.cube.cmds.any fun m => allRes.any fun r =>
    match k.firstUse r, x.lastUse m r with
    | some u, some v => decide (u ≤ v)
    | _, _ => false
/-- A command as it enters the cube in run clock t at trap level `lvl`: it keeps when each batt last completed a TMMA.P (R254). -/
def Cube.cmd (c : Cube) (h : Word) (cb : Snap) (mode : BitVec 2) (t : Nat) (lvl : BitVec 2) : CubeCmd :=
  { id := c.nextId, hdr := h, cb := cb, mode := mode, t := t, lvl := lvl, ready := c.ready }

/-! ### Progress (Tables 10.10, 10.11) -/
/-- The step counter as MBI, NBI, KCI. For TTRN, of which Table 10.10 says nothing, KCI is the clock of its schedule: the model's choice
(log 62). -/
def stepIdx (h : Word) (cb : Snap) (s : Nat) : Nat × Nat × Nat :=
  match tkind h with
  | .mma | .mmas =>
    let n := max 1 (Snap.nch h cb)
    let nb := max 1 (Snap.nb cb)
    (s / n / nb, s / n % nb, s % n)
  | .mmap => (0, 0, s / 8)
  | .zero => (0, 0, s)
  | .drain => (0, 0, s / (if hdrSub h = 0 then 8 else 4))
  | .load => (0, 0, s / 8)
  | _ => (0, 0, s)
/-- A progress word. -/
def progWord (st opc : Nat) (i : Nat × Nat × Nat) : Word :=
  BitVec.ofNat 64 (st * 2 ^ 62 + opc * 2 ^ 48 + i.1 % 1024 * 2 ^ 26 + i.2.1 % 1024 * 2 ^ 16 + i.2.2 % 65536)
/-- CPROG: the oldest running command, else the stopped one. KCI counts from 0, for TZERO, TDRAIN and TLOAD the slots from ACC on and
for TJOIN the planes that have been drained, where Table 10.10 says "the next slot or plane"; for TTRN it is the clock of its schedule:
the model's choices (log 62). -/
def UnitSt.cprog (x : UnitSt) : Word :=
  match x.cube.cmds.find? fun k => !k.done with
  | some k => progWord 1 (hdrOpc k.hdr) (if tkind k.hdr = .join then (0, 0, x.cube.drained) else stepIdx k.hdr k.cb k.next)
  | none =>
    match x.cube.stopped with
    | some k => progWord 2 (hdrOpc k.hdr) (stepIdx k.hdr k.cb k.next)
    | none => 0
/-- The progress of a PACKAGE or GANG command (Table 10.11). -/
def PkgCmd.prog (p : PkgCmd) : Word :=
  BitVec.ofNat 64 ((if p.done then 0 else if p.stopped then 2 else 1) * 2 ^ 62 + (if p.done then 0 else hdrOpc p.hdr) * 2 ^ 48 + p.u % 65536)
/-- PPROG: once the command has completed, STATE 0 and RND = P (R364). -/
def State.pprog (s : State) : Word := match s.dev.pkg with | some p => p.prog | none => 0
/-- The tile path of a step of a crown's command, with the batt and the cell quad (row, column) that it names (Table 10.14). -/
def tilePath (member : Nat) (k : Nat) (batt : Option Nat) (quad : Option (Nat × Nat)) (i : Nat × Nat × Nat) : Word :=
  BitVec.ofNat 64 (member % 2 ^ 14 * 2 ^ 50 + k % 4 * 2 ^ 48 + k / 4 % 2 * 2 ^ 47
    + (match batt with | some b => b % 8 * 2 ^ 44 + 2 ^ 37 | none => 0)
    + (match quad with | some q => q.1 % 8 * 2 ^ 41 + q.2 % 8 * 2 ^ 38 + 2 ^ 36 | none => 0)
    + i.1 % 1024 * 2 ^ 26 + i.2.1 % 1024 * 2 ^ 16 + i.2.2 % 65536)

end Sys2Proof.Machine
end

