-- ==== Sys2Proof/Machine/Copy.lean ====
section
/-! DEFINITION. Copy commands: the fields of a CP word and its descriptor (R270–R283), the elements they perform and
the addresses of each, and the issue tests of Table 11.15 and R387. -/
namespace Sys2Proof.Machine

/-! ### Command headers (Table 11.1) -/
/-- OPC. -/
def cpOpc (w : Word) : Nat := bitsOf w.toNat 56 8
/-- ENG. -/
def cpEng (w : Word) : EngId := Fin.ofNat 12 (bitsOf w.toNat 16 4)
/-- STR: 0 weak, 1 strong, 2 .acq, 3 .rel. -/
def cpStr (w : Word) : Nat := bitsOf w.toNat 14 2
/-- QB. -/
def cpQb (w : Word) : Nat := bitsOf w.toNat 9 5
/-- BAR. -/
def cpBar (w : Word) : Fin 32 := Fin.ofNat 32 (bitsOf w.toNat 4 5)
/-- BE, and RET of an atomic. -/
def cpBe (w : Word) : Bool := w.getLsbD 3
/-- FMT of an atomic. -/
def cpFmt (w : Word) : Fmt := fmtOf (bitsOf w.toNat 5 4)
/-- WIDE. -/
def cpWide (w : Word) : Bool := w.getLsbD 4
/-- The kinds of CP commands. -/
inductive CKind | cpy | cpyw | cpyx | cpyf | amo (op : AmoOp) | flushx | pfh | migr
  deriving DecidableEq, Repr
/-- The kind of a CP word (Table 7.18). -/
def ckind (w : Word) : CKind :=
  match cpOpc w with
  | 2 => .cpyw | 3 => .cpyx | 4 => .cpyf
  | 0x10 => .amo .add | 0x11 => .amo .min | 0x12 => .amo .max | 0x13 => .amo .and | 0x14 => .amo .or
  | 0x15 => .amo .xor | 0x16 => .amo .swp | 0x17 => .amo .cas | 0x18 => .amo .faddx
  | 0x20 => .flushx | 0x21 => .pfh | 0x22 => .migr
  | _ => .cpy
/-- The snapshot of cq0–cq31. -/
abbrev CSnap := Vector Word 32
/-- cq[QB + i], 0 past cq31. -/
def qv (w : Word) (q : CSnap) (i : Nat) : Word := q.toList.getD (cpQb w + i) 0
/-- A field of it. -/
def qf (w : Word) (q : CSnap) (i lo len : Nat) : Nat := bitsOf (qv w q i).toNat lo len

/-! ### Address words (Table 11.2) -/
/-- The space of an address word. -/
def awSpace (a : Word) : Nat := bitsOf a.toNat 60 4
/-- Signed DX. -/
def awDx (a : Word) : Int := signedOf 3 (bitsOf a.toNat 32 3)
/-- Signed DY. -/
def awDy (a : Word) : Int := signedOf 2 (bitsOf a.toNat 35 2)
/-- The address within the space. -/
def awAddr (a : Word) : Nat :=
  match awSpace a with
  | 0 => bitsOf a.toNat 0 56
  | 1 => bitsOf a.toNat 0 32
  | _ => bitsOf a.toNat 0 24
/-- Reserved bits and codes of an address word on a host. -/
def awBad (brimU : Bool) (a : Word) : Bool :=
  match awSpace a with
  | 0 => bitsOf a.toNat 56 4 != 0
  | 1 => bitsOf a.toNat 37 23 != 0 || awDy a == -2 || awDx a == -4
  | 2 => !brimU || bitsOf a.toNat 24 36 != 0
  | _ => true
/-- The size of a space's addresses, modulo which element addresses wrap (R275). -/
def awMod (a : Word) : Nat := if awSpace a = 0 then 2 ^ 56 else if awSpace a = 1 then 2 ^ 32 else 2 ^ 24

/-! ### CPY and CPYF (Table 11.3) -/
/-- A dimension: count and signed strides. -/
structure Dim where
  n : Nat
  ss : Int
  ds : Int
  deriving DecidableEq, Repr
/-- The control word cq[QB + 2]. -/
def cCtl (w : Word) (q : CSnap) (lo len : Nat) : Nat := qf w q 2 lo len
/-- Element size in bytes. -/
def cEsz (w : Word) (q : CSnap) : Nat := 2 ^ cCtl w q 0 3
/-- The dimensions. -/
def cDims (w : Word) (q : CSnap) : List Dim :=
  (List.range (cCtl w q 4 4)).map fun d =>
    { n := qf w q (3 + 2 * d) 48 16 + qf w q (4 + 2 * d) 48 16 * 65536,
      ss := signedOf 48 (qf w q (3 + 2 * d) 0 48), ds := signedOf 48 (qf w q (4 + 2 * d) 0 48) }
/-- Mixed-radix digits of an element index, dimension 0 fastest. -/
def digits : List Dim → Nat → List Nat
  | [], _ => []
  | d :: ds, e => e % d.n :: digits ds (e / d.n)
/-- The number of elements. -/
def dimTotal (ds : List Dim) : Nat := ds.foldl (fun t d => t * d.n) 1
/-- An address of a side, before rotation. -/
def sideAddr (a : Word) (off : Int) : Nat := ((awAddr a + off) % (awMod a : Int)).toNat
/-- Element addresses of a side with its rotation (R275). -/
def cAddr (a : Word) (ds : List Dim) (f : Dim → Int) (rot e : Nat) : Nat :=
  let is := digits ds e
  let off := (ds.zip is).foldl (fun t x => t + f x.1 * x.2) 0
  let x := sideAddr a off
  if awSpace a = 1 then rotAddr x (is.getD 1 0 % 128) rot else x

/-! ### CPYX (Table 11.4) -/
/-- ROWS and COLS. -/
def xRows (w : Word) (q : CSnap) : Nat := qf w q 4 0 16 + 1
/-- COLS. -/
def xCols (w : Word) (q : CSnap) : Nat := qf w q 4 16 16 + 1
/-- FMT. -/
def xFmt (w : Word) (q : CSnap) : Fmt := fmtOf (qf w q 4 32 4)
/-- T. -/
def xTile (w : Word) (q : CSnap) : Nat := if qf w q 4 37 1 = 1 then 32 else 16
/-- A scale grid is transposed too. -/
def xScl (w : Word) (q : CSnap) : Bool := qf w q 4 36 1 = 1 || xFmt w q = .e2m1
/-- Scale bytes. -/
def xGrid (w : Word) (q : CSnap) : Nat := if xScl w q then xRows w q / xTile w q * (xCols w q / xTile w q) else 0
/-- Elements of the matrix. -/
def xElts (w : Word) (q : CSnap) : Nat := xRows w q * xCols w q
/-- Bytes of one side of the matrix that are written, elements and scales together. -/
def xBytes (w : Word) (q : CSnap) : Nat :=
  let b := (xFmt w q).bits
  (if b = 4 then xCols w q * ceilDiv (xRows w q) 2 else xElts w q * (b / 8)) + xGrid w q

/-! ### CPYW (Tables 11.5, 11.6) -/
/-- ROWS. -/
def wRows (w : Word) (q : CSnap) : Nat := qf w q 2 0 16 + 1
/-- RLEN. -/
def wRlen (w : Word) (q : CSnap) : Nat := qf w q 2 16 20
/-- FMT. -/
def wFmt (w : Word) (q : CSnap) : Fmt := fmtOf (qf w q 2 36 4)
/-- MODE. -/
def wMode (w : Word) (q : CSnap) : Nat := qf w q 2 40 2
/-- T. -/
def wTile (w : Word) (q : CSnap) : Nat := if qf w q 2 42 1 = 1 then 32 else 16
/-- Bytes that one row in mode 0, or the elements of one in mode 2, reach. -/
def wRowBytes (w : Word) (q : CSnap) : Nat := ceilDiv (wRlen w q * (wFmt w q).bits) 8
/-- Units of a stream: elements (two of e2m1 together; each row starts in a new byte, log 59), groups, or tiles. -/
def wUnitsRow (w : Word) (q : CSnap) : Nat :=
  match wMode w q with
  | 0 => if wFmt w q = .e2m1 then ceilDiv (wRlen w q) 2 else wRlen w q
  | 1 => wRlen w q / 12
  | _ => wRlen w q / wTile w q
/-- Rows of units. -/
def wUnitRows (w : Word) (q : CSnap) : Nat := if wMode w q = 2 then wRows w q / wTile w q else wRows w q
/-- Bytes counted on the barrier (Table 11.6). -/
def wBytes (w : Word) (q : CSnap) : Nat :=
  match wMode w q with
  | 0 => ceilDiv (wRows w q * wRlen w q * (wFmt w q).bits) 8
  | 1 => wRows w q * (wRlen w q / 12) * 8
  | _ => wRows w q * wRlen w q / 2 + wRows w q / wTile w q * (wRlen w q / wTile w q)
/-- Bytes of a destination row. -/
def wDstRow (w : Word) (q : CSnap) : Nat := if wMode w q = 1 then wRlen w q / 12 * 8 else wRowBytes w q
/-- The destination address of byte b of row r. -/
def wDst (w : Word) (q : CSnap) (r b : Nat) : Nat :=
  rotAddr (qf w q 1 0 32 + r * qf w q 1 32 16 + b) (r % 128) (qf w q 1 48 4)

/-! ### Elements -/
/-- The number of elements of a command. CPYX first reads, then writes, each element and each scale byte. -/
def cElems (w : Word) (q : CSnap) : Nat :=
  match ckind w with
  | .cpy | .cpyf => dimTotal (cDims w q)
  | .cpyx => 2 * (xElts w q + xGrid w q)
  | .cpyw => wUnitsRow w q * wUnitRows w q
  | .pfh => qf w q 1 0 8 + 1
  | _ => 1
/-- Width in bytes of an atomic's target. -/
def amoWidth (w : Word) : Nat := if cpWide w && ckind w == .amo .cas then 16 else (cpFmt w).bits / 8
/-- The bytes that a command writes, for its barrier. -/
def cBytes (w : Word) (q : CSnap) : Nat :=
  match ckind w with
  | .cpy | .cpyf => dimTotal (cDims w q) * cEsz w q
  | .cpyx => xBytes w q
  | .cpyw => wBytes w q
  | _ => 0
/-- One side of an element's access: the address word it lies under, the address, the bytes. -/
structure Acc where
  aw : Word
  addr : Nat
  len : Nat
  deriving DecidableEq, Repr
/-- The address of CPYX element k (rows first, then the scale grid) on the source or destination side, with the nibble
of a 4-bit element. -/
def xAcc (w : Word) (q : CSnap) (src : Bool) (k : Nat) : Acc × Nat :=
  let b := (xFmt w q).bits
  if k < xElts w q then
    let i := k / xCols w q
    let c := k % xCols w q
    let (r, x) := if src then (i, c) else (c, i)
    let aw := if src then qv w q 0 else qv w q 1
    let pitch := if src then qf w q 2 0 32 else qf w q 3 0 32
    let rot := if src then qf w q 4 42 4 else qf w q 4 38 4
    let a := sideAddr aw (r * pitch + x * b / 8 : Nat)
    ({ aw := aw, addr := if awSpace aw = 1 then rotAddr a (r % 128) rot else a, len := max 1 (b / 8) }, x % 2)
  else
    let k := k - xElts w q
    let gc := xCols w q / xTile w q
    let gr := xRows w q / xTile w q
    let aw := if src then qv w q 5 else qv w q 6
    ({ aw := aw, addr := sideAddr aw (if src then k else k % gc * gr + k / gc : Nat), len := 1 }, 2)
/-- The source access of an element, if it has one. -/
def cRead (w : Word) (q : CSnap) (off e : Nat) : Option Acc :=
  match ckind w with
  | .cpy => some { aw := qv w q 0, addr := cAddr (qv w q 0) (cDims w q) Dim.ss (cCtl w q 8 4) e, len := cEsz w q }
  | .cpyf => none
  | .cpyx =>
    let n := xElts w q + xGrid w q
    if e < n then some (xAcc w q true e).1
    else
      let x := xAcc w q false (e - n)
      if x.2 < 2 && (xFmt w q).bits == 4 then some x.1 else none
  | .cpyw =>
    let a := qv w q 0
    let len := match wMode w q with
      | 0 => max 1 ((wFmt w q).bits / 8)
      | 1 => 14
      | _ => 1 + wTile w q * wTile w q / 2
    some { aw := a, addr := sideAddr a off, len := len }
  | .amo _ => some { aw := qv w q 0, addr := awAddr (qv w q 0), len := amoWidth w }
  | .flushx | .migr => some { aw := qv w q 0, addr := awAddr (qv w q 0), len := 1 }
  | .pfh => some { aw := qv w q 0, addr := (awAddr (qv w q 0) + e * 65536) % 2 ^ 56, len := 1 }
/-- The destination access of an element in memory or face scratch, if it has one. -/
def cWrite (w : Word) (q : CSnap) (e : Nat) : Option Acc :=
  match ckind w with
  | .cpy | .cpyf =>
    some { aw := qv w q 1, addr := cAddr (qv w q 1) (cDims w q) Dim.ds (cCtl w q 12 4) e, len := cEsz w q }
  | .cpyx =>
    let n := xElts w q + xGrid w q
    if e < n then none else some (xAcc w q false (e - n)).1
  | .amo _ => some { aw := qv w q 0, addr := awAddr (qv w q 0), len := amoWidth w }
  | .flushx => some { aw := qv w q 0, addr := awAddr (qv w q 0), len := 1 }
  | _ => none

/-! ### Spans: the lowest and the highest byte of the elements of a side (R417) -/
/-- Lowest and highest offset of a strided side. -/
def dimSpan (ds : List Dim) (f : Dim → Int) : Int × Int :=
  ds.foldl (fun t d => let x := f d * ((d.n : Int) - 1); (t.1 + min x 0, t.2 + max x 0)) (0, 0)
/-- The destination span of a copy command: first byte and length, from its destination address word. -/
def cSpan (w : Word) (q : CSnap) : Word × Nat × Nat :=
  match ckind w with
  | .cpy | .cpyf =>
    let a := qv w q 1
    let sp := dimSpan (cDims w q) Dim.ds
    let lo := sideAddr a sp.1
    let len := (sp.2 - sp.1).toNat + cEsz w q
    if awSpace a = 1 && cCtl w q 12 4 != 0 then (a, lo / 4096 * 4096, ceilDiv (lo + len) 4096 * 4096 - lo / 4096 * 4096) else (a, lo, len)
  | .cpyx =>
    let a := qv w q 1
    let len := (xCols w q - 1) * qf w q 3 0 32 + ceilDiv (xRows w q * (xFmt w q).bits) 8
    let lo := awAddr a
    if awSpace a = 1 && qf w q 4 38 4 != 0 then (a, lo / 4096 * 4096, ceilDiv (lo + len) 4096 * 4096 - lo / 4096 * 4096) else (a, lo, len)
  | .cpyw =>
    let lo := qf w q 1 0 32
    let len := (wRows w q - 1) * qf w q 1 32 16 + wDstRow w q
    if qf w q 1 48 4 != 0 then (1#64 <<< 60, lo / 4096 * 4096, ceilDiv (lo + len) 4096 * 4096 - lo / 4096 * 4096) else (1#64 <<< 60, lo, len)
  | .amo _ => (qv w q 0, awAddr (qv w q 0), amoWidth w)
  | _ => (qv w q 0, awAddr (qv w q 0), 4)
/-- An address word like `a` that names an address of its space. -/
def awAt (a : Word) (x : Nat) : Word :=
  let m := if awSpace a = 0 then 56 else if awSpace a = 1 then 32 else 24
  BitVec.ofNat 64 (setBits a.toNat 0 m x)

/-! ### Issue tests (Tables 11.15, 18.7; R387, R394) -/
/-- A copy's reserved fields, codes and values: ILLEGAL_OPERAND. A CPYW of the brim core, which has no weight buffer (R278), is one: the
model's choice, where the spec names no cause (log 73). -/
def cpIllegal (brimU : Bool) (w : Word) (q : CSnap) : Bool :=
  let side := fun a => awBad brimU a
  match ckind w with
  | .cpy | .cpyf =>
    let nd := cCtl w q 4 4
    let f := ckind w == .cpyf
    let sa := qv w q 0
    let da := qv w q 1
    31 < cpQb w + 2 || nd = 0 || 10 < nd || 31 < cpQb w + 2 + 2 * nd || 4 < cCtl w q 0 3 ||
      cCtl w q 3 1 != 0 || cCtl w q 28 4 != 0 || cCtl w q 33 31 != 0 || 6 < cCtl w q 8 4 || 6 < cCtl w q 12 4 ||
      (!f && side sa) || side da || (f && (cCtl w q 0 3 = 4 || cCtl w q 8 4 != 0 || (cDims w q).any fun d => d.ss != 0)) ||
      (!f && awSpace sa != 1 && cCtl w q 8 4 != 0) || (awSpace da != 1 && cCtl w q 12 4 != 0) ||
      (cpBe w && !(awSpace da = 1 || (brimU && awSpace da = 2)))
  | .cpyx =>
    let sa := qv w q 0
    let da := qv w q 1
    let far := fun (a : Word) => !(awSpace a = 1 || (brimU && awSpace a = 2))
    31 < cpQb w + 6 || side sa || side da || qf w q 2 32 32 != 0 || qf w q 3 32 32 != 0 || qf w q 4 46 18 != 0 ||
      64 ≤ (xFmt w q).bits || 6 < qf w q 4 38 4 || 6 < qf w q 4 42 4 || (awSpace sa != 1 && qf w q 4 42 4 != 0) ||
      (awSpace da != 1 && qf w q 4 38 4 != 0) || (xScl w q && (side (qv w q 5) || side (qv w q 6))) ||
      (cpBe w && (far da || (xScl w q && far (qv w q 6))))
  | .cpyw =>
    31 < cpQb w + 3 || brimU || awSpace (qv w q 0) != 0 || side (qv w q 0) || qf w q 1 52 12 != 0 || 6 < qf w q 1 48 4 ||
      qf w q 2 43 21 != 0 || qf w q 3 32 32 != 0 || wMode w q = 3 || (wMode w q != 2 && qf w q 3 0 32 != 0) ||
      (match wMode w q with
        | 0 => wFmt w q == .rns16
        | 1 => !(isFp8 (wFmt w q) || isI8 (wFmt w q) || wFmt w q == .e2m1)
        | _ => wFmt w q != .e2m1)
  | .amo _ => 31 < cpQb w + 5 || awSpace (qv w q 0) != 0 || side (qv w q 0) ||
      (cpBe w && qf w q 5 32 32 != 0)
  | .flushx => awSpace (qv w q 0) != 0 || side (qv w q 0)
  | .pfh => 31 < cpQb w + 1 || awSpace (qv w q 0) != 0 || side (qv w q 0) || qf w q 1 8 56 != 0
  | .migr => 31 < cpQb w + 2 || awSpace (qv w q 0) != 0 || side (qv w q 0) ||
      (if qf w q 1 63 1 = 1 then qf w q 1 0 63 != 0 else qf w q 1 0 16 != 0 || qf w q 1 52 12 != 0) ||
      qf w q 2 12 4 != 0 || qf w q 2 17 47 != 0
/-- COPY_SHAPE. -/
def cpShape (w : Word) (q : CSnap) : Bool :=
  match ckind w with
  | .cpy | .cpyf =>
    let ds := cDims w q
    let z := cEsz w q
    ds.any (fun d => d.n = 0 || (ckind w == .cpy && d.ss % z != 0) || d.ds % z != 0) || 2 ^ 48 < dimTotal ds ||
      (ckind w == .cpy && awAddr (qv w q 0) % z != 0) || awAddr (qv w q 1) % z != 0
  | .cpyx =>
    let b := (xFmt w q).bits / 8
    (xScl w q && (xRows w q % xTile w q != 0 || xCols w q % xTile w q != 0)) ||
      (1 < b && (awAddr (qv w q 0) % b != 0 || awAddr (qv w q 1) % b != 0 || qf w q 2 0 32 % b != 0 || qf w q 3 0 32 % b != 0))
  | .cpyw =>
    match wMode w q with
    | 1 => wRlen w q = 0 || wRlen w q % 12 != 0
    | 2 => wRlen w q = 0 || wRows w q % wTile w q != 0 || wRlen w q % wTile w q != 0
    | _ => wRlen w q = 0
  | _ => false
/-- ATOMIC_ALIGN. -/
def cpAlign (w : Word) (q : CSnap) : Bool :=
  match ckind w with
  | .amo _ => awAddr (qv w q 0) % amoWidth w != 0 || 16 < awAddr (qv w q 0) % 16 + amoWidth w
  | _ => false
/-- A place offset names a crown of the task's rectangle (R28, R273). -/
def placeIn (c : Ctx) (a : Word) : Bool :=
  let x := (c.dx.toNat : Int) + awDx a
  let y := (c.dy.toNat : Int) + awDy a
  0 ≤ x && x ≤ bitsOf (c.tr[2]).toNat 0 2 && 0 ≤ y && y ≤ bitsOf (c.tr[2]).toNat 2 1
/-- The first byte of [lo, hi) outside the reservation of a context, on a crown or on the brim core. -/
def UnitSt.firstOut (x : UnitSt) (brimU : Bool) (lo hi : Nat) : Option Nat :=
  if x.inRes brimU lo (hi - lo) then none
  else if !x.inRes brimU lo 1 then some lo
  else some (if brimU || regionOf lo = .west then x.west.2 else 0x2000000 + x.south.2)
/-- The first offending byte of a scratch side: a place outside the rectangle (its address), or an extent outside one face
or the reservation; a crown extent is rounded out to 4 KiB (Table 11.15). `rx` gives the reservation of space 1. -/
def sideBad (x : UnitSt) (rx : Option UnitSt) (a : Word) (lo len : Nat) : Option Nat :=
  match awSpace a with
  | 1 =>
    match rx with
    | some r =>
      if (match r.ctx with | some c => !placeIn c a | none => true) then some lo
      else r.firstOut false (lo / 4096 * 4096) (ceilDiv (lo + len) 4096 * 4096)
    | none => some lo
  | 2 => x.firstOut true lo (lo + len)
  | _ => none
/-- SCRATCH_RANGE at the issue of a CP word, with the first offending byte. `rx`: the record that gives the reservation of
space 1, the context's own on a crown and the driven task's on the brim core. -/
def cpRange (x : UnitSt) (brimU : Bool) (rx : Option UnitSt) (w : Word) (q : CSnap) : Option Nat :=
  let side := sideBad x rx
  match ckind w with
  | .cpy | .cpyf =>
    let f := fun (a : Word) (g : Dim → Int) =>
      if awSpace a = 0 then none
      else
        let sp := dimSpan (cDims w q) g
        let lo : Int := awAddr a + sp.1
        if lo < 0 || (awMod a : Int) ≤ awAddr a + sp.2 then some (sideAddr a sp.1)
        else side a lo.toNat ((sp.2 - sp.1).toNat + cEsz w q)
    (if ckind w == .cpy then f (qv w q 0) Dim.ss else none).or (f (qv w q 1) Dim.ds)
  | .cpyx =>
    let b := (xFmt w q).bits
    let f := fun (a : Word) (rows cols pitch : Nat) =>
      if awSpace a = 0 then none else side a (awAddr a) ((rows - 1) * pitch + ceilDiv (cols * b) 8)
    let g := fun (a : Word) => if xScl w q && awSpace a != 0 then side a (awAddr a) (xGrid w q) else none
    ((f (qv w q 0) (xRows w q) (xCols w q) (qf w q 2 0 32)).or (f (qv w q 1) (xCols w q) (xRows w q) (qf w q 3 0 32))).or
      ((g (qv w q 5)).or (g (qv w q 6)))
  | .cpyw =>
    let inWb := fun lo hi => if lo < 0x4000000 then some lo else if 0x4800000 < hi then some (max lo 0x4800000) else none
    let sp := cSpan w q
    (inWb sp.2.1 (sp.2.1 + sp.2.2)).or
      (if wMode w q = 2 then inWb (qf w q 3 0 32) (qf w q 3 0 32 + wRows w q / wTile w q * (wRlen w q / wTile w q)) else none)
  | .amo _ =>
    if !cpBe w then none
    else if qf w q 5 0 32 % 16 != 0 then some (qf w q 5 0 32)
    else x.firstOut brimU (qf w q 5 0 32) (qf w q 5 0 32 + 16)
  | _ => none
/-- The counter that a command names, if its CEN bit is set. -/
def cpCntr (w : Word) (q : CSnap) : Option (BitVec 12) :=
  match ckind w with
  | .cpy | .cpyf => if cCtl w q 32 1 = 1 then some (BitVec.ofNat 12 (cCtl w q 16 12)) else none
  | .migr => if qf w q 2 16 1 = 1 then some (BitVec.ofNat 12 (qf w q 2 0 12)) else none
  | _ => none
/-- Uses that R394 bars while phase mode is on. -/
def cpPhaseBad (w : Word) (q : CSnap) : Bool :=
  match ckind w with
  | .amo _ | .flushx | .migr => true
  | .cpy | .cpyf => awSpace (qv w q 1) = 0
  | .cpyx => awSpace (qv w q 1) = 0 || (xScl w q && awSpace (qv w q 6) = 0)
  | _ => false

end Sys2Proof.Machine
end

