-- ==== Sys2Proof/Machine/Phase.lean ====
section
/-! DEFINITION. Buffer phases and poison (R286, R391–R400): the snapshot, the barrier shadow, the retained commands,
cancellation, and what a read of a poisoned granule does. -/
namespace Sys2Proof.Machine

/-- The snapshot of R393. -/
def UnitSt.phaseSnap (x : UnitSt) : PhaseSnap :=
  { loops := x.seq.loops, p := x.regs.p, s := x.regs.s, a := x.regs.a, cb := x.regs.cb, cq := x.regs.cq,
    sticky := x.seq.sticky, scsel := x.cube.scsel, bars := x.bars,
    tl := x.trap.tl }
/-- Rows of the declared accumulator slots taken from one map, the others from another. -/
def mergeRows (n : Nat) (decl other : List (Nat × VecVal)) : List (Nat × VecVal) :=
  (decl.filter fun r => r.1 < n * 128) ++ (other.filter fun r => n * 128 ≤ r.1)
/-- Poisoned words of the declared accumulator slots taken from one list, the others from another. -/
def mergeWords (n : Nat) (decl other : List Nat) : List Nat :=
  (decl.filter fun w => w / 128 < n * 128) ++ (other.filter fun w => n * 128 ≤ w / 128)
/-- COMMIT and OFF: the working bank of the declared slots becomes the committed bank, with its poison (R286). -/
def UnitSt.commitBank (x : UnitSt) : UnitSt :=
  { x with st := { x.st with committed := mergeRows x.accn x.st.acc x.st.committed,
                             committedPoison := mergeWords x.accn x.st.accPoison x.st.committedPoison } }
/-- The retained commands one PHASE COMMIT older; those two commits past their completion are dropped (R396). -/
def ageRetained (l : List (QEnt × Nat)) : List (QEnt × Nat) := (l.map fun r => (r.1, r.2 + 1)).filter fun r => r.2 < 2
/-- PHASE (R286, R393, R396, R398): mode 0 COMMIT, 1 ON, 2 OFF; restart PC and queue mask from the bundle. Between ON and the first COMMIT
the committed bank holds what the working bank held at ON: the model's choice, where R286 has COMMIT and OFF alone commit it (log 74). -/
def UnitSt.doPhase (x : UnitSt) (mode : Nat) (restart : BitVec 56) (qmask : BitVec 12) : UnitSt :=
  let was := x.phase.on
  let x := if mode = 1 then (if was then x else x.commitBank) else if was then x.commitBank else x
  let on := if mode = 1 then true else if mode = 2 then false else was
  let commit := mode = 0
  { x with
    es := if commit then { x.es with eng := x.es.eng.map fun e => { e with retained := ageRetained e.retained } } else x.es,
    seg := { x.seg with phased := true },
    phase := { x.phase with on := on, restart := restart, qmask := qmask, snap := some x.phaseSnap, shadow := x.bars,
                            touched := 0, cancels := if mode = 1 then x.phase.cancels else 0,
                            commits := if commit then x.phase.commits + 1 else x.phase.commits, since := [] } }
/-- A count-down seen by the shadow: that of a command issued before the PHASE (R398). -/
def Phase.shadowDown (p : Phase) (n : Fin 32) (cmd bytes : Nat) : Phase :=
  if p.on && !p.since.contains cmd then { p with shadow := p.shadow.set n (p.shadow[n].countDown bytes).1 } else p
/-- Barriers after a cancellation (R398). -/
def UnitSt.restoreBars (x : UnitSt) : Vector Barrier 32 :=
  Vector.ofFn fun n : Fin 32 => if x.phase.touched.getLsbD n.val then x.phase.shadow[n] else x.bars[n]
/-- A cancellation is in progress: no instance issues (R397). -/
def Phase.cancelling (p : Phase) : Bool := p.closing.isSome || p.refetching.isSome
/-- A unit of a CPYW of which bytes have been read is under way. -/
def QEnt.midUnit (q : QEnt) : Bool := ckind q.word == .cpyw && (!q.buf.isEmpty || !q.sent.isEmpty)
/-- A command that has started an element which it has not finished: one sent, or a unit of a CPYW of which it has read bytes. -/
def QEnt.unfinished (q : QEnt) : Bool := !q.sent.isEmpty || q.midUnit
/-- The discarded commands that have finished their elements leave the queue (R397). -/
def Engine.sweep (g : Engine) : Engine := { g with q := g.q.filter fun c => !c.dropped || c.unfinished }
/-- The commands issued since the PHASE discarded, but for the elements that they have started (R397). -/
def Engine.discard (g : Engine) (since : List Nat) : Engine :=
  Engine.sweep { g with
    q := g.q.map fun c => if since.contains c.id then { c with dropped := true } else c,
    log := g.log.filter fun l => !since.contains l.cmd,
    walk := g.walk.filter fun w => !since.contains w.2.1 }
/-- The cube at rest with nothing in flight: every command discarded (R397). -/
def Cube.discard (c : Cube) : Cube :=
  { c with cmds := [], stopped := none, writes := [], caps := [], planes := [], deliv := [], hidden := [], fresh := [] }
/-- A store of a committed instance, which a cancellation leaves; every other access of a later clock belongs to a result or to
the cube and goes with it (R397). -/
def SOp.stays : SOp → Bool
  | .load _ _ _ _ | .probe _ _ | .cube _ _ => false
  | .store _ _ _ | .accWr _ _ _ | .scale _ _ _ | .post _ _ _ => true
/-- The trap levels above one are left, and what they hold is discarded (log 71). -/
def TrapRegs.down (t : TrapRegs) (n : BitVec 2) : TrapRegs :=
  { t with tl := if n.toNat < t.tl.toNat then n else t.tl, hold := Vector.ofFn fun i : Fin 2 => if n.toNat ≤ i.val then {} else t.hold[i] }
/-- Cancellation, first part (R397): what is discarded in the clock in which it is decided: a return from a trap that is under way and
the trap levels entered since the PHASE go with it (log 71). -/
def UnitSt.cancelWork (x : UnitSt) : UnitSt :=
  { x with
    seq := { x.seq with flights := [], boost := [], br := none, yielded := false, held := none, skip := false,
                        stall := 0, after := .issue, runDown := false,
                        accs := x.seq.accs.filter fun a => a.op.stays },
    cube := x.cube.discard,
    trap := match x.phase.snap with | some n => x.trap.down n.tl | none => x.trap,
    es := { x.es with eng := Vector.ofFn fun e : Fin 12 =>
      let g := x.es.eng[e]
      if x.phase.qmask.getLsbD e.val then g.discard x.phase.since else g } }
/-- The working bank of the declared slots becomes the committed bank, whose poison passes into it (R397, Table 20.2). -/
def UnitSt.restoreBank (x : UnitSt) : UnitSt :=
  { x with st := { x.st with acc := mergeRows x.accn x.st.committed x.st.acc,
                             accPoison := mergeWords x.accn x.st.committedPoison x.st.accPoison } }
/-- Cancellation, last part: snapshot, barriers and segment restored, issue resumes at the restart PC (R397). -/
def UnitSt.cancelEnd (x : UnitSt) : UnitSt :=
  match x.phase.snap with
  | none => x
  | some n =>
    { x with
      regs := { x.regs with p := n.p, s := n.s, a := n.a, cb := n.cb, cq := n.cq },
      lat := {},
      seq := { x.seq with loops := n.loops, sticky := n.sticky, pc := x.phase.restart, rix := 0 },
      seg := { x.seg with opened := false },
      cube := { x.cube with scsel := n.scsel },
      bars := x.restoreBars,
      phase := { x.phase with closing := none, refetching := none } }
/-- The refetch command re-issued at the head of its queue, with no count-down and no counter increment (R397). -/
def State.reissue (s : State) (u v : UnitId) (g : EngId) (c : QEnt) : State :=
  let id := (s.unit v).es.nextId
  let c := { c with id := id, next := 0, done := [], sent := [], buf := [], ill := false, off := 0, status := 0, refetch := true, counted := false,
                    ready := 0, bad := [], ended := false, taints := [], moved := 0 }
  let s := s.modUnit v fun x => { x with es := { x.es with nextId := id + 1, eng := x.es.eng.set g { x.es.eng[g] with q := c :: (x.es.eng[g]).q } } }
  s.modUnit u fun x => { x with phase := { x.phase with closing := none, refetching := some (v, g, id) } }
/-- The engines that a cancellation waits for have not finished what they had started. -/
def UnitSt.cancelBusy (x : UnitSt) : Bool :=
  !x.seq.accs.isEmpty || (List.range 12).any fun e =>
    let g := x.es.eng[Fin.ofNat 12 e]
    g.q.any QEnt.dropped || (x.phase.qmask.getLsbD e && !g.stage.isEmpty)
/-- Cancellation, once the engines have finished the elements that they had started: the working bank is restored, and the refetch
command is re-issued, or the phase restarts (R397). -/
def State.cancelNext (s : State) (u : UnitId) : State :=
  let s := s.modUnit u fun x => { x with es := { x.es with eng := x.es.eng.map Engine.sweep } }
  if (s.unit u).cancelBusy then s
  else
    match (s.unit u).phase.closing with
    | none => s
    | some none => s.modUnit u fun x => x.restoreBank.cancelEnd
    | some (some (v, g, c)) => (s.modUnit u UnitSt.restoreBank).reissue u v g c
/-- The ranges that a command writes: its destination, and that of its scales (Tables 11.5, 11.6). -/
def cDests (w : Word) (q : CSnap) : List (Word × Nat × Nat) :=
  cSpan w q :: (match ckind w with
    | .cpyx => if xScl w q then [(qv w q 6, awAddr (qv w q 6), xGrid w q)] else []
    | .cpyw => if wMode w q = 2 then [(1#64 <<< 60, qf w q 3 0 32, wRows w q / wTile w q * (wRlen w q / wTile w q))] else []
    | _ => [])
/-- Two address words name one place of one space. -/
def samePlace (a b : Word) : Bool := awSpace a == awSpace b && (awSpace a != 1 || (awDx a == awDx b && awDy a == awDy b))
/-- A range put to a list of ranges [lo, hi), one for each place: each reaches from the lowest to the highest byte (R417). Ranges of two
places stand apart: the model's choice (log 72). -/
def joinRange (l : List (Word × Nat × Nat)) (r : Word × Nat × Nat) : List (Word × Nat × Nat) :=
  if l.any fun x => samePlace x.1 r.1 then l.map fun x => if samePlace x.1 r.1 then (x.1, min x.2.1 r.2.1, max x.2.2 r.2.2) else x
  else l ++ [r]
/-- The destination extent of a command as such ranges. -/
def destRanges (w : Word) (q : CSnap) : List (Word × Nat × Nat) :=
  ((cDests w q).map fun d => (d.1, d.2.1, d.2.1 + d.2.2)).foldl joinRange []
/-- An address word of space 1 of a command of crown v names the scratch of crown u (R273). -/
def State.aims (s : State) (v u : UnitId) (aw : Word) : Bool :=
  awSpace aw = 1 && !isBrim v && crownUnit ((v.val : Int) + awDx aw + 4 * awDy aw).toNat = u &&
    (match (s.unit v).ctx, (s.unit u).ctx with
     | some c, some d => c.pool = d.pool && c.ent == d.ent
     | _, _ => v = u)
/-- The retained completed commands whose destination extent holds an address of crown u, with their engines (R396). -/
def State.refetches (s : State) (u : UnitId) (addr : Nat) : List (UnitId × EngId × QEnt) :=
  (List.range 8).flatMap fun k => (List.range 12).flatMap fun e =>
    let v := crownUnit k
    (((s.unit v).es.eng[Fin.ofNat 12 e]).retained.filter fun r => (cDests r.1.word r.1.snap).any fun sp =>
      s.aims v u sp.1 && decide (sp.2.1 ≤ addr + 15) && decide (addr < sp.2.1 + sp.2.2)).map fun r => (v, Fin.ofNat 12 e, r.1)
/-- The refetch command of a granule: the most recently completed of them (a retained command holds the place of its completion in
`ready`). -/
def State.findRefetch (s : State) (u : UnitId) (addr : Nat) : Option (UnitId × EngId × QEnt) :=
  (s.refetches u addr).foldl (fun b c =>
    match b with
    | some d => if d.2.2.ready ≤ c.2.2.ready then some c else b
    | none => some c) none
/-- The CROWN entry of a context (Table 19.2). -/
def crownEntry (act cause : Nat) (pc : BitVec 56) : MothArg := { type := 2, act := act, cause := cause, w1 := pc.setWidth 64 }
/-- CANCELLATION (R397, R399). `poison`: the poisoned granules of the consuming access, empty for a signature or an
accumulator word; `ref`: the refetch command. -/
def State.cancelPhase (s : State) (u : UnitId) (cause : Nat) (poison : List Nat) (ref : Option (UnitId × EngId × QEnt)) : State :=
  let x := s.unit u
  let n := x.phase.cancels + 1
  let s := s.modUnit u fun x => { x with phase := { x.phase with cancels := n } }
  if 3 ≤ n then s.killUnit u 0x63
  else
    let e := match poison with
      | [] => crownEntry 1 cause x.phase.restart
      | g :: _ => { type := 0, act := 1, cause := cause, w1 := BitVec.ofNat 64 (2 ^ 60 + g * 16),
                    w2 := BitVec.ofNat 64 (16 * (poison.getLastD g - g + 1)) }
    let s := s.moth u e
    s.modUnit u fun x =>
      let x := x.cancelWork
      { x with phase := { x.phase with closing := some ref } }

/-- The poisoned granules among byte addresses. -/
def poisonedGrans (st : Stores) (as : List Nat) : List Nat :=
  (gransOf as).filter fun g => (smGet ({} : Gran) st.face g).poison
/-- CONSUMPTION of poison in scratch bytes (R395, R396, R400) by an access whose instance issued at a level. `entries`:
the entries of an irreparable consumption; a cancellation in progress finds no further work to cancel. A read that meets poison freezes
the recorder (R422). -/
def State.consumeIn (s : State) (u : UnitId) (st : Stores) (lvl : BitVec 2) (as : List Nat) (entries : List MothArg) : State :=
  let x := s.unit u
  match poisonedGrans st as with
  | [] => s
  | g :: gs =>
    let s := s.modUnit u UnitSt.freeze
    let all := g :: gs
    let fromCopy := all.any fun k => (smGet ({} : Gran) st.face k).prop
    let ref := s.findRefetch u (g * 16)
    if x.phase.cancelling then s
    else if x.phase.on && lvl == 0 && !fromCopy && ref.isSome then s.cancelPhase u 0x40 all ref
    else entries.foldl (fun s e => s.moth u e) s
/-- Consumption of poison that stands in the stores now. -/
def State.consume (s : State) (u : UnitId) (lvl : BitVec 2) (as : List Nat) (entries : List MothArg) : State :=
  s.consumeIn u (s.unit u).st lvl as entries
/-- Consumption by a VM or LDS read: one CROWN entry, however many clocks its reads take (R400). -/
def State.consumeVm (s : State) (u : UnitId) (st : Stores) (lvl : BitVec 2) (as : List Nat) (told : Bool) : State :=
  s.consumeIn u st lvl as (if told then [] else [crownEntry 0 0x40 (s.unit u).seq.pc])
/-- A poisoned accumulator word of the working bank that is read (Table 20.2, R422). -/
def State.consumeAcc (s : State) (u : UnitId) (entries : List MothArg) : State :=
  let x := s.unit u
  let s := s.modUnit u UnitSt.freeze
  if x.phase.cancelling then s else if x.phase.on then s.cancelPhase u 0x40 [] none else entries.foldl (fun s e => s.moth u e) s
/-- A poisoned word of a plane accumulator that is read: consumed under R400 whatever the phase (Table 20.2, R422). -/
def State.consumePlane (s : State) (u : UnitId) (entry : MothArg) : State :=
  let s := s.modUnit u UnitSt.freeze
  if (s.unit u).phase.cancelling then s else s.moth u entry
/-- A signature mismatch (R391); the CROWN entry of a kill is written at its end (R403). -/
def State.signatureFault (s : State) (u : UnitId) : State :=
  let x := s.unit u
  if x.phase.on && !x.seg.phased then s.cancelPhase u 0x38 [] none
  else s.killUnit u 0x38

end Sys2Proof.Machine
end

