-- ==== Sys2Proof/Machine/Cube.lean ====
section
/-! DEFINITION. The cube at work (R242–R257, R72–R78): operand capture, the chunk sums, the steps of each command, plane
writes, TJOIN drains, completion, stop and resume, and injection (R348). -/
namespace Sys2Proof.Machine

/-! ### Chunk sums (R71–R78) -/
/-- The exact value of a scaled product; a scale of 0xFF makes it a NaN (R71). -/
def prodV (fa fb : Fmt) (x y : Nat × Nat) : FVal :=
  if x.2 = 255 || y.2 = 255 then .nan
  else
    match (mulV (decF fa x.1) (decF fb y.1)).1 with
    | .fin n m e => .fin n m (e + (x.2 + y.2 : Nat) - 254)
    | v => v
/-- The exponent ⌊log2⌋ of a non-zero finite term. -/
def expOf : FVal → Option Int
  | .fin _ m e => if m = 0 then none else some (e + (m.log2 : Int))
  | _ => none
/-- The exact sum of terms at the quantum 2^q, each truncated towards zero to it. -/
def sumAt (q : Int) (ts : List FVal) : Int :=
  ts.foldl (fun acc v =>
    match v with
    | .fin n m e =>
      let x : Int := if q ≤ e then ((m * 2 ^ (e - q).toNat : Nat) : Int) else ((m / 2 ^ (q - e).toNat : Nat) : Int)
      if n then acc - x else acc + x
    | _ => acc) 0
/-- The lowest exponent among finite terms. -/
def minExp (ts : List FVal) : Int :=
  ts.foldl (fun q v => match v with | .fin _ m e => if m = 0 then q else min q e | _ => q) 2000
/-- R73 and R74: special values, the exact or windowed sum, one RNE rounding to the accumulator format. -/
def fpChunk (acc : Fmt) (window : Option Nat) (ts : List FVal) : Nat :=
  let pinf := ts.any (· == .inf false)
  let ninf := ts.any (· == .inf true)
  if ts.any (· == .nan) || (pinf && ninf) then Fmt.nanBits acc
  else if pinf then infBits acc false
  else if ninf then infBits acc true
  else
    let q := match window, ts.filterMap expOf with
      | some w, e :: es => es.foldl max e - w
      | _, _ => minExp ts
    let x := sumAt q ts
    if x = 0 then signBit acc (ts.all fun v => match v with | .fin n m _ => n && m == 0 | _ => false)
    else (roundFin acc .rne false false 0 (x < 0) x.natAbs q).1
/-- Pairs of positions that contribute to an output element. -/
def termsOf (a b : List (Option (Nat × Nat))) : List ((Nat × Nat) × (Nat × Nat)) :=
  (a.zip b).filterMap fun x => match x with | (some u, some v) => some (u, v) | _ => none
/-- ChunkSum: the new accumulator element from the terms and the incoming one. -/
def chunkSum (fa fb : Fmt) (ts : List ((Nat × Nat) × (Nat × Nat))) (inc : Nat) : Nat :=
  match fa with
  | .i8 | .n8 =>
    wrapNat 32 (ts.foldl (fun s t => s + readInt 8 fa.isUnsigned t.1.1 * readInt 8 fb.isUnsigned t.2.1) (signedOf 32 inc))
  | .rns16 =>
    let s := ts.foldl (fun s t => rnsOp (fun _ x y => x + y) s (rnsOp (fun _ x y => x * y) t.1.1 t.2.1)) (inc % 65536)
    rnsEnc (rnsDec s)
  | .f64 => fpChunk .f64 (some 120) (ts.map (fun t => prodV fa fb t.1 t.2) ++ [decF .f64 inc])
  | .bf16 | .f16 => fpChunk .f32 (some 60) (ts.map (fun t => prodV fa fb t.1 t.2) ++ [decF .f32 inc])
  | _ => fpChunk .f32 none (ts.map (fun t => prodV fa fb t.1 t.2) ++ [decF .f32 inc])

/-! ### Accumulator rows with the clock rule of R104 -/
/-- Poisoned words of a row: key row × 128 + column. -/
def rowPoison (st : Stores) (k : Nat) : Bool := st.accPoison.any fun w => w / 128 = k
/-- Row k with the words of a list as zero. -/
def zeroWords (bad : List Nat) (k : Nat) (v : VecVal) : VecVal :=
  if bad.any fun w => w / 128 = k then ofLanes fun c => if bad.contains (k * 128 + c) then 0 else (lane v c).toNat else v
/-- A row as a reader sees it: poisoned words read as zero (R400, Table 20.2). -/
def accRead (st : Stores) (k : Nat) : VecVal := zeroWords st.accPoison k (accRow st k)
/-- A row of a plane as a reader sees it. -/
def planeRead (st : Stores) (k : Nat) : VecVal := zeroWords st.planePoison k (planeRow st k)
/-- A row of a plane holds poison. -/
def planeBad (st : Stores) (k : Nat) : Bool := st.planePoison.any fun w => w / 128 = k
/-- A row as every read of the present clock sees it: without the cube's writes of that clock (R104, R245). -/
def UnitSt.accSeen (x : UnitSt) (k : Nat) : VecVal :=
  match x.cube.fresh.find? fun r => r.1 = k with
  | some r => r.2.2.2
  | none => accRead x.st k
/-- The row held poison before the cube's writes of the present clock. -/
def UnitSt.accBad (x : UnitSt) (k : Nat) : Bool :=
  match x.cube.fresh.find? fun r => r.1 = k with
  | some r => r.2.2.1
  | none => rowPoison x.st k
/-- The row that a step of command `id` adds to: what its own steps have written, and no other command's write of the clock. -/
def UnitSt.accFor (x : UnitSt) (id k : Nat) : VecVal :=
  if x.cube.fresh.any fun r => r.1 = k && r.2.1 = id then accRead x.st k else x.accSeen k
/-- A row written by command `id` in the present clock; the later-issued of two commands that write it prevails (R248). -/
def UnitSt.cubeWrite (x : UnitSt) (id k : Nat) (v : VecVal) : UnitSt :=
  match x.cube.fresh.find? fun r => r.1 = k with
  | some r =>
    if id < r.2.1 then x
    else { x with cube := { x.cube with fresh := x.cube.fresh.map fun q => if q.1 = k then (k, id, q.2.2) else q }, st := setAccRow x.st k v }
  | none =>
    { x with
      cube := { x.cube with fresh := (k, id, rowPoison x.st k, accRead x.st k) :: x.cube.fresh },
      seq := if x.seq.undo.isEmpty then x.seq else { x.seq with undo := x.seq.undo.filter fun u => match u.row with | some r => r.1 != k | none => true },
      st := { setAccRow x.st k v with accPoison := x.st.accPoison.filter fun w => w / 128 != k } }

/-! ### Operand capture (R242, R246, R249–R253) -/
/-- The batt that takes K offset `kk` of a chunk for output row i (Table 10.4). -/
def battOf (f64 : Bool) (c kk i : Nat) : Nat :=
  if f64 then
    let p := kk / 3
    match kk % 3 with
    | 0 => 2 * p
    | 1 => 2 * p + 1
    | _ => if i < 64 then 2 * p else 2 * p + 1
  else kk / (max 1 (c / 8))
/-- Element `kk` of a row whose byte i is `f i`. -/
def elemCode (bits : Nat) (f : Nat → Nat) (kk : Nat) : Nat :=
  if bits = 4 then f (kk / 2) / 16 ^ (kk % 2) % 16
  else (List.range (bits / 8)).foldr (fun b acc => f (kk * (bits / 8) + b) + 256 * acc) 0
/-- The bytes of an element within a row. -/
def elemBytes (bits kk : Nat) : List Nat := if bits = 4 then [kk / 2] else (List.range (bits / 8)).map fun b => kk * (bits / 8) + b
/-- The scale bank of read index i (R251). -/
def scaleBank (mode : BitVec 2) (i : Nat) : Nat :=
  match mode.toNat with
  | 0 => 0
  | 1 => 1
  | 2 => i % 2
  | _ => (i + 1) % 2
/-- A scale: entry (g, u) of a bank of a side; beyond u = 7 the spec names no entry, and the value is free (log 12). -/
def scaleAt (c : Cube) (south : Bool) (bank g u free : Nat) : Nat :=
  if u < 8 then
    let v := c.scales.toList.getD ((if south then 2 else 0) + bank) 0
    bitsOf v.toNat (8 * (8 * g + u)) 8
  else (Config.freeValue (free + (if south then 8192 else 0) + 64 * g + u)).toNat % 256
/-- Whether a command's pairing is scaled. -/
def scaledOp (cb : Snap) : Bool := Snap.fmtA cb = .e2m1 || (isFp8 (Snap.fmtA cb) && Snap.scl cb)
/-- What a step reads, and the byte addresses it consumes. -/
structure Capture where
  a : List (List (Option (Nat × Nat)))
  b : List (List (Option (Nat × Nat)))
  addrs : List Nat
/-- Capture of chunk j of A block m and B block n for the batts of `act`, operands offset by a batt's plane strides. The bytes that it
consumes are those of the output rows of `ra` and columns of `rb`. -/
def capture (x : UnitSt) (k : CubeCmd) (act : Nat → Nat → Bool) (offA offB m n j ridx free : Nat)
    (ra rb : Nat → Bool := fun _ => true) : Capture :=
  let cb := k.cb
  let c := Snap.c k.hdr cb
  let ba := (Snap.fmtA cb).bits
  let bb := (Snap.fmtB cb).bits
  let lim := Nat.min c (Snap.k cb - j * c)
  let sparse := tkind k.hdr == .mmas
  let bank := scaleBank k.mode ridx
  let T := Snap.tile cb
  let sc := scaledOp cb
  let u := fun kk => (j * c + kk) / T - j * c / T
  let oa := Snap.opnd cb 0 1 offA
  let oa2 := Snap.opnd cb 6 7 0
  let ob := Snap.opnd cb 2 3 offB
  let adA := fun i p => if sparse && c / 2 * ba / 8 ≤ p then oa2.byteAt j (128 * m + i) (p - c / 2 * ba / 8) else oa.byteAt j (128 * m + i) p
  let adB := fun i p => ob.byteAt j (128 * n + i) p
  let ks := List.range lim
  let rowA := fun i => ks.map fun kk =>
    if act kk i then some (elemCode ba (fun p => (scrByte x.st (adA i p)).toNat) kk,
      if sc then scaleAt x.cube false bank (i / T) (u kk) free else 127) else none
  let colB := fun i => ks.map fun kk =>
    let f := fun p => (scrByte x.st (adB i p)).toNat
    let s := if sc then scaleAt x.cube true bank (i / T) (u kk) free else 127
    if sparse then
      let g := kk / 12
      let mask := f (8 * g + 6) + 256 * f (8 * g + 7)
      let v := popN (kk % 12) mask
      if mask.testBit (kk % 12) && v < 6 then
        some (if bb = 4 then f (8 * g + v / 2) / 16 ^ (v % 2) % 16 else f (8 * g + v), s)
      else none
    else some (elemCode bb f kk, s)
  let used := fun i => ks.filter fun kk => act kk i
  let addrs := (List.range 128).flatMap fun i =>
    (if ra i then (used i).flatMap (fun kk => (elemBytes ba kk).map (adA i)) else []) ++
      (if !rb i then []
        else if sparse then ((List.range (ceilDiv lim 12)).filter fun g => act (12 * g) 0).flatMap fun g => (List.range 8).map fun p => adB i (8 * g + p)
        else (ks.filter fun kk => act kk 0 || act kk 64).flatMap fun kk => (elemBytes bb kk).map (adB i))
  { a := (List.range 128).map rowA, b := (List.range 128).map colB, addrs := addrs }

/-! ### Writing a captured step -/
/-- The rows that a captured step writes: key and value, from the rows as they stand. -/
def capRows (c : ChunkCap) (rd : Nat → VecVal) (sel : Nat → Nat → Bool) : List (Nat × VecVal) :=
  let elem := fun (row : List (Option (Nat × Nat))) (col : Nat) (inc : Nat) =>
    chunkSum c.fmtA c.fmtB (termsOf row (c.b.getD col [])) inc
  if c.fmtA = .f64 then
    (c.a.zipIdx).flatMap fun x =>
      let i := x.2
      (List.range 2).map fun h =>
        let key := (c.slot + h) * 128 + i
        let old := rd key
        (key, ofLanes fun l =>
          let col := h * 64 + l / 2
          let inc := if c.zero then 0 else (lane old (l / 2 * 2)).toNat + (lane old (l / 2 * 2 + 1)).toNat * 2 ^ 32
          if sel i col then elem x.1 col inc / 2 ^ (32 * (l % 2)) else (lane old l).toNat)
  else
    (c.a.zipIdx).map fun x =>
      let key := c.slot * 128 + x.2
      let old := rd key
      (key, ofLanes fun l => if sel x.2 l then elem x.1 l (if c.zero then 0 else (lane old l).toNat) else (lane old l).toNat)
/-- Every output element. -/
def selAll : Nat → Nat → Bool := fun _ _ => true

/-! ### Steps -/
/-- A row address list as bytes of scratch. -/
def rowAddrs (o : Opnd) (tile r len : Nat) : List Nat := (List.range len).map fun i => o.byteAt tile r i
/-- The transpose of a 128 × 128 tile held row-major in bytes: byte p of row c (R257). -/
def trnByte (bits : Nat) (buf : List Byte) (c p : Nat) : Byte :=
  let rb := 16 * bits
  if bits = 4 then
    let nib := fun i => (buf.getD (i * rb + c / 2) 0).toNat / 16 ^ (c % 2) % 16
    BitVec.ofNat 8 (nib (2 * p) + 16 * nib (2 * p + 1))
  else
    let z := bits / 8
    buf.getD (p / z * rb + c * z + p % z) 0
/-- The ENERGY class and the number of charges of a product step (Table 12.7). -/
def stepClass (cb : Snap) : Fin 16 :=
  match (Snap.fmtA cb).bits with
  | 64 => 9
  | 16 => 8
  | _ => 7
/-- The TILE entry of a step that consumed poison, or of a discarded command (Table 19.3). -/
def State.tileEntry (s : State) (u : UnitId) (batt : Option Nat) (idx : Nat × Nat × Nat) (klo khi slot n : Nat)
    (act cause : Nat) (quad : Option (Nat × Nat) := none) : MothArg :=
  { type := 1, act := act, cause := cause,
    w1 := tilePath (bitsOf s.dev.fab.cfg.toNat 0 14) u.val batt quad idx, w2 := tileW2 klo khi slot n }
/-- Charges of a cube step: per batt whose mask bit is 1 (R319), and event 9. -/
def State.stepCharge (s : State) (u : UnitId) (k : CubeCmd) (batts : Nat) : State :=
  (s.charge u (stepClass k.cb) batts).pmEvent u 9 batts
/-- A command of the list replaced. -/
def Cube.put (c : Cube) (k : CubeCmd) : Cube := { c with cmds := c.cmds.map fun x => if x.id = k.id then k else x }
/-- The weight-buffer bytes that a step reads take the ports of their halves (R100). -/
def UnitSt.takeWb (x : UnitSt) (as : List Nat) : UnitSt := x.takePorts (as.filter fun a => regionOf a == .wb0 || regionOf a == .wb1)
/-- The slot that an output block of a chained command begins with (R242). -/
def blockSlot (h : Word) (cb : Snap) (idx : Nat × Nat × Nat) : Nat := hdrAcc h + (idx.1 * Snap.nb cb + idx.2.1) * Snap.wq cb
/-- The entry of a chained step for its output block and chunk (R268, R400). -/
def State.blockEntry (s : State) (u : UnitId) (k : CubeCmd) (st : Nat) : MothArg :=
  let idx := stepIdx k.hdr k.cb st
  let c := Snap.c k.hdr k.cb
  s.tileEntry u none idx (idx.2.2 * c) (Nat.min (Snap.k k.cb) (idx.2.2 * c + c) - 1) (blockSlot k.hdr k.cb idx) (Snap.wq k.cb) 0 0x40
/-- The entry of a plane-mode step: chunk j of batt b (R268, R400). -/
def State.planeEntry (s : State) (u : UnitId) (k : CubeCmd) (b j : Nat) : MothArg :=
  let c := Snap.c k.hdr k.cb
  s.tileEntry u (some b) (0, 0, j) (j * c) (Nat.min (Snap.k k.cb) (j * c + c) - 1) 0 1 0 0x40
/-- What step `st` of a TMMA or TMMAS reads from the stores `sts`. -/
def State.stepCapture (s : State) (u : UnitId) (k : CubeCmd) (st : Nat) (sts : Stores) : Capture :=
  let idx := stepIdx k.hdr k.cb st
  capture { s.unit u with st := sts } k (fun kk i => hdrBatt k.hdr (battOf (Snap.fmtA k.cb = .f64) (Snap.c k.hdr k.cb) kk i)) 0 0
    idx.1 idx.2.1 idx.2.2 st s.free
/-- Step `st` of a TMMA or TMMAS reads its operands from the stores `sts` and is captured. `seen`: granules of an f64 step that its first
clock has read, and whose poison it has consumed (R395); the step has one entry (R400). -/
def State.readStep (s : State) (u : UnitId) (k : CubeCmd) (st : Nat) (sts : Stores) (seen : List Nat := []) : State :=
  let idx := stepIdx k.hdr k.cb st
  let cap := s.stepCapture u k st sts
  let told := !(poisonedGrans sts (cap.addrs.filter fun a => seen.contains (a / 16))).isEmpty
  let ch : ChunkCap := { cmd := k.id, at_ := k.stepClk st + 18, step := st, slot := blockSlot k.hdr k.cb idx, fmtA := Snap.fmtA k.cb,
                         fmtB := Snap.fmtB k.cb, zero := idx.2.2 = 0 && hdrZ k.hdr, a := cap.a, b := cap.b }
  let s := { s with free := s.free + 16384 }.modUnit u fun x => ({ x with cube := { x.cube with caps := x.cube.caps ++ [ch] } } : UnitSt).takeWb cap.addrs
  s.consumeIn u sts k.lvl (if seen.isEmpty then cap.addrs else cap.addrs.filter fun a => !seen.contains (a / 16))
    (if told then [] else [s.blockEntry u k st])
/-- The granules that an f64 step reads in its first clock: those of the first line of each row, and every one of the weight buffer,
which has no lines (R245, R247; log 62). -/
def firstLines (k : CubeCmd) (st : Nat) : List Nat :=
  let idx := stepIdx k.hdr k.cb st
  let rows := fun (o : Opnd) (blk : Nat) => (List.range 128).flatMap fun r =>
    let a := o.row idx.2.2 (128 * blk + r)
    ((List.range 6).filter fun i => resOf a == .wb || (a + 16 * i) / 64 == a / 64).map fun i => o.byteAt idx.2.2 (128 * blk + r) (16 * i) / 16
  rows (Snap.opnd k.cb 0 1 0) idx.1 ++ rows (Snap.opnd k.cb 2 3 0) idx.2.1
/-- Step `k.next` of a command in its run clock: the reads, and what falls in the same clock. The scale grid of a TTRN is read in its
last read clock and written in its last write clock; it takes no part in the bank test, and its addresses are not tested as multiples
of 16: the model's choice (log 62). -/
def State.doStep (s : State) (u : UnitId) (k : CubeCmd) : State :=
  let x := s.unit u
  let st := k.next
  let now := k.stepClk st
  let k' := { k with next := st + 1 }
  let put := fun (s : State) (k : CubeCmd) => s.modUnit u fun x => { x with cube := x.cube.put k }
  let idx := stepIdx k.hdr k.cb st
  let cb := k.cb
  match tkind k.hdr with
  | .mma | .mmas =>
    let s := s.stepCharge u k (popN 8 (hdrLm k.hdr))
    if Snap.fmtA cb = .f64 then
      let gs := firstLines k st
      let first := (s.stepCapture u k st x.st).addrs.filter fun a => gs.contains (a / 16)
      let s := (put s { k' with second := some (now + 1, st, gs.map fun g => (g, smGet ({} : Gran) x.st.face g)) }).modUnit u fun x => x.takeWb (gs.map (16 * ·))
      s.consume u k.lvl first [s.blockEntry u k st]
    else (put s k').readStep u k st x.st
  | .mmap =>
    let b := st % 8
    let j := st / 8
    if hdrBatt k.hdr b then
      let cap := capture x k (fun _ _ => true) (b * Snap.f cb 1 32 32) (b * Snap.f cb 3 32 32) 0 0 j st s.free
      let ch : ChunkCap := { cmd := k.id, at_ := now, step := st, slot := b, fmtA := Snap.fmtA cb, fmtB := Snap.fmtB cb,
                             zero := j = 0 && hdrZ k.hdr, a := cap.a, b := cap.b }
      let mine := x.cube.planes.filter fun p => p.b.val = b && p.cap.cmd == k.id
      let left := match mine.getLast? with | some p => p.left + 8 | none => if x.ungated (Fin.ofNat 8 b) then 19 else 18
      let s := put s k'
      let s := { s with free := s.free + 16384 }.modUnit u fun x =>
        ({ x with cube := { x.cube with planes := x.cube.planes ++ [({ b := Fin.ofNat 8 b, s := j, left := left, cap := ch } : PlaneStep)] } } : UnitSt).takeWb cap.addrs
      let s := s.stepCharge u k 1
      s.consume u k.lvl cap.addrs [s.planeEntry u k b j]
    else put s k'
  | .zero =>
    let s := put s k'
    s.modUnit u fun x => (List.range 128).foldl (fun x r => x.cubeWrite k.id ((hdrAcc k.hdr + st) * 128 + r) 0) x
  | .drain =>
    let rb := rowBytes k.hdr
    let per := 128 * 64 / rb
    let grp := 128 / per
    let o := Snap.opnd cb 0 1 0
    let rows := (List.range per).map fun r => st % grp * per + r
    let bytes := rows.flatMap fun r =>
      let key := (hdrAcc k.hdr + st / grp) * 128 + r
      let v := x.accSeen key
      let ws := (List.range 128).flatMap fun l =>
        match hdrSub k.hdr with
        | 0 => leBytes 4 (lane v l).toNat
        | 1 => leBytes 2 (convert .bf16 .f32 .rne false false 0 (lane v l).toNat).1
        | _ => leBytes 2 (convert .f16 .f32 .rne false false 0 (lane v l).toNat).1
      (rowAddrs o (st / grp) r rb).zip ws
    let bad := rows.any fun r => x.accBad ((hdrAcc k.hdr + st / grp) * 128 + r)
    let slot := hdrAcc k.hdr + st / grp
    let s := put s (if bad then { k' with told := some slot } else k')
    let s := s.modUnit u fun x => { x with seq := { x.seq with accs := x.seq.accs ++ [({ at_ := now + 1, lvl := 0, op := .cube bytes (some k.id) } : SAcc)] } }
    if bad then s.consumeAcc u (if k.told = some slot then [] else [s.tileEntry u none idx 0 0 slot 1 0 0x40]) else s
  | .load =>
    let o := Snap.opnd cb 0 1 0
    let rows := (List.range 16).map fun r => st % 8 * 16 + r
    let as := rows.flatMap fun r => rowAddrs o (st / 8) r 512
    let ws := rows.map fun r =>
      let bs := (rowAddrs o (st / 8) r 512).map (scrByte x.st)
      ({ cmd := k.id, at_ := now + 1, row := (hdrAcc k.hdr + st / 8) * 128 + r, val := BitVec.ofNat 4096 (leNat bs) } : AccWrite)
    let slot := hdrAcc k.hdr + st / 8
    let s := put s (if (poisonedGrans x.st as).isEmpty then k' else { k' with told := some slot })
    let s := s.modUnit u fun x => ({ x with cube := { x.cube with writes := x.cube.writes ++ ws } } : UnitSt).takeWb as
    s.consume u k.lvl as (if k.told = some slot then [] else [s.tileEntry u none idx 0 0 slot 1 0 0x40])
  | .trn =>
    let l := trnClks cb
    let per := 128 / l
    let bits := (Snap.fmtA cb).bits
    let n := 128 / Snap.tile cb
    let sp := trnScales cb
    if st < l then
      let o := Snap.opnd cb 0 1 0
      let as := ((List.range per).flatMap fun r => rowAddrs o 0 (st * per + r) (trnBytes cb)) ++
        (if st + 1 = l && sp then (List.range (n * n)).map (Snap.f cb 6 0 32 + ·) else [])
      let k' := { k' with buf := k.buf ++ as.map (scrByte x.st), told := if (poisonedGrans x.st as).isEmpty then k.told else some 0 }
      let s := (put s k').modUnit u fun x => x.takeWb as
      s.consume u k.lvl as (if k.told.isSome then [] else [s.tileEntry u none idx 0 0 0 1 0 0x40])
    else
      let o := Snap.opnd cb 2 3 0
      let g := st - l
      let rb := trnBytes cb
      let bytes := ((List.range per).flatMap fun r =>
          (List.range rb).map fun p => (o.byteAt 0 (g * per + r) p, trnByte bits k.buf (g * per + r) p)) ++
        (if g + 1 = l && sp then (List.range (n * n)).map fun i =>
            (Snap.f cb 7 0 32 + i, k.buf.getD (128 * rb + i % n * n + i / n) 0) else [])
      let s := put s k'
      s.modUnit u fun x => { x with seq := { x.seq with accs := x.seq.accs ++ [({ at_ := now, lvl := 0, op := .cube bytes none } : SAcc)] } }
  | .join => put s k'
/-- The second clock of an f64 step: the rest of its rows is read, and the step is captured (R245). -/
def State.doSecond (s : State) (u : UnitId) (k : CubeCmd) (st : Nat) (first : List (Nat × Gran)) : State :=
  let x := s.unit u
  (s.modUnit u fun x => { x with cube := x.cube.put { k with second := none } }).readStep u k st
    (first.foldl (fun st g => modGran st g.1 fun _ => g.2) x.st) (first.map Prod.fst)

/-- The run clock in which a command's next step reads; for TMMA.P that of the first batt of its group. -/
def CubeCmd.readClk (k : CubeCmd) : Nat := k.stepClk (if tkind k.hdr == .mmap then k.next / 8 * 8 else k.next)
/-- A stop for pre-emption keeps a step from starting: its read clock lies after that of the stop (R467). A TMMA.P for whose planes a
running TJOIN waits goes on, since the TJOIN runs to completion before the save (log 61). -/
def UnitSt.stepHeld (x : UnitSt) (k : CubeCmd) : Bool :=
  x.status = .saving && isProduct k && decide (x.ck.stopAt < k.readClk) &&
    !(tkind k.hdr == .mmap && x.cube.cmds.any fun j => tkind j.hdr == .join && decide (k.id < j.id) && hdrLm j.hdr &&& hdrLm k.hdr != 0)
/-- A read clock of a TMMA.P finds its batt holding four captured steps (R412). -/
def UnitSt.backlog (x : UnitSt) : Bool :=
  x.cube.cmds.any fun k => tkind k.hdr == .mmap && k.next < k.limit && decide (k.stepClk k.next ≤ x.ck.run) &&
    hdrBatt k.hdr (k.next % 8) && 4 ≤ (x.cube.planes.filter fun p => p.b.val = k.next % 8).length
/-- A command whose next step is due in the present run clock. -/
def UnitSt.stepDue (x : UnitSt) : Option CubeCmd :=
  if x.backlog then none
  else x.cube.cmds.find? fun k => k.crd.isNone && k.next < k.limit && decide (k.stepClk k.next ≤ x.ck.run) && !x.stepHeld k
/-- An f64 step whose second clock of reads is due. -/
def UnitSt.secondDue (x : UnitSt) : Option (CubeCmd × Nat × List (Nat × Gran)) :=
  x.cube.cmds.findSome? fun k => k.second.bind fun r => if r.1 ≤ x.ck.run then some (k, r.2) else none
/-- A captured step or a row whose write is due. -/
def UnitSt.capDue (x : UnitSt) : Option ChunkCap := if x.backlog then none else x.cube.caps.find? fun c => c.at_ ≤ x.ck.run
/-- Rows that fall due. -/
def UnitSt.rowsDue (x : UnitSt) : List AccWrite := if x.backlog then [] else x.cube.writes.filter fun w => w.at_ ≤ x.ck.run
/-- The write of a captured step. -/
def State.writeCap (s : State) (u : UnitId) (c : ChunkCap) : State :=
  let x := s.unit u
  let rows := capRows c (x.accFor c.cmd) selAll
  let bad := !c.zero && rows.any fun r => x.accBad r.1
  let s := s.modUnit u fun x =>
    let x := { x with cube := { x.cube with caps := x.cube.caps.erase c } }
    rows.foldl (fun x r => x.cubeWrite c.cmd r.1 r.2) x
  match x.cube.cmds.find? fun k => k.id = c.cmd with
  | some k => if bad then s.consumeAcc u [s.blockEntry u k c.step] else s
  | none => s
/-- CUBE_STEP: what the cube does in the present run clock, one read, one accumulator write or one group of rows. -/
def State.cubeStepRow (s : State) (u : UnitId) : State :=
  let x := s.unit u
  match x.secondDue with
  | some (k, st, first) => s.doSecond u k st first
  | none =>
    match x.stepDue with
    | some k => s.doStep u k
    | none =>
      match x.rowsDue with
      | w :: ws =>
        s.modUnit u fun x =>
          let x := { x with cube := { x.cube with writes := x.cube.writes.filter fun w => x.ck.run < w.at_ } }
          (w :: ws).foldl (fun x w => x.cubeWrite w.cmd w.row w.val) x
      | [] =>
        match x.capDue with
        | none => s
        | some c => s.writeCap u c

/-! ### Plane mode (R253, R254, R412) -/
/-- One clock of the batts' computation. -/
def UnitSt.planeTick (x : UnitSt) : UnitSt :=
  { x with cube := { x.cube with planes := x.cube.planes.map fun p => if x.ungated p.b then { p with left := p.left - 1 } else p } }
/-- The plane result of batt b that is due. -/
def UnitSt.planeDue (x : UnitSt) (b : Fin 8) : Option PlaneStep := x.cube.planes.find? fun p => p.b = b && p.left == 0
/-- PLANE_WRITE. -/
def State.planeWriteRow (s : State) (u : UnitId) (b : Fin 8) : State :=
  match (s.unit u).planeDue b with
  | none => s
  | some p =>
    let x := s.unit u
    let bad := !p.cap.zero && (List.range 128).any fun r => planeBad x.st (b.val * 128 + r)
    let s := match x.cube.cmds.find? fun k => k.id = p.cap.cmd with
      | some k => if bad then s.consumePlane u (s.planeEntry u k b.val p.s) else s
      | none => s
    s.modUnit u fun x =>
      let rows := capRows p.cap (planeRead x.st) selAll
      { x with
        st := rows.foldl (fun st r => setPlaneRow st r.1 r.2) x.st,
        cube := { x.cube with planes := x.cube.planes.erase p, ready := x.cube.ready.set b (x.ck.run - 1),
                              cmds := x.cube.cmds.map fun k =>
                                if tkind k.hdr == .join && decide (p.cap.cmd < k.id) then { k with ready := k.ready.set b (x.ck.run - 1) } else k } }
/-- The running TJOIN, with the plane that it drains next and the clock of that plane's write. -/
def UnitSt.joinNext (x : UnitSt) : Option (CubeCmd × Nat × Nat) :=
  match x.cube.cmds.find? fun k => tkind k.hdr == .join && !k.done with
  | none => none
  | some k =>
    match ((List.range 8).filter (hdrBatt k.hdr))[x.cube.drained]? with
    | none => none
    | some b =>
      let pending := x.cube.planes.any (fun p => p.b.val = b && decide (p.cap.cmd < k.id)) ||
        x.cube.cmds.any fun m => tkind m.hdr == .mmap && m.id < k.id && hdrBatt m.hdr b && m.next < m.limit
      if pending then none else some (k, b, max (max (k.t + 4) x.cube.drainEnd) (k.ready.toList.getD b 0 + 1) + 3)
/-- One plane added into a row (R75, R254). -/
def joinRow (sub : Nat) (a b : VecVal) : VecVal :=
  ofLanes fun l =>
    let x := (lane a l).toNat
    let y := (lane b l).toNat
    match sub with
    | 0 => (fAdd .f32 { rm := .rne, ftz := false } x y).1
    | 1 => (x + y) % 2 ^ 32
    | _ => rnsOp (fun _ p q => p + q) (x % 65536) (y % 65536)
/-- TJOIN_DRAIN: the write of one plane. -/
def State.joinDrainRow (s : State) (u : UnitId) : State :=
  let x := s.unit u
  match x.joinNext with
  | none => s
  | some (k, b, w) =>
    if x.ck.run < w then s
    else
      let bad := hdrZ k.hdr && (List.range 128).any fun r => x.accBad (hdrAcc k.hdr * 128 + r)
      let slot := if hdrZ k.hdr then hdrAcc k.hdr else hdrAcc k.hdr + x.cube.drained
      let e := s.tileEntry u none (0, 0, x.cube.drained) 0 0 slot 1 0 0x40
      let s := if bad then s.consumeAcc u [e]
        else if (List.range 128).any fun r => planeBad x.st (b * 128 + r) then s.consumePlane u e else s
      s.modUnit u fun x =>
        let x := (List.range 128).foldl (fun x r =>
          let p := planeRead x.st (b * 128 + r)
          let key := slot * 128 + r
          x.cubeWrite k.id key (if hdrZ k.hdr then joinRow (hdrSub k.hdr) (x.accFor k.id key) p else p)) x
        { x with cube := { x.cube with drained := x.cube.drained + 1, drainEnd := w + 1 } }

/-! ### Completion, stop, resume (R245, R260, R261) -/
/-- The clock in which a command completes, if all it does has been done. -/
def UnitSt.cmdEnd (x : UnitSt) (k : CubeCmd) : Option Nat :=
  match tkind k.hdr with
  | .join =>
    let n := popN 8 (hdrLm k.hdr)
    if n = 0 then some (k.t + 4) else if n ≤ x.cube.drained then some x.cube.drainEnd else none
  | .mmap =>
    if k.next < stepsOf k.hdr k.cb || x.cube.planes.any fun p => p.cap.cmd == k.id then none
    else
      let last := (List.range 8).foldl (fun m b => if hdrBatt k.hdr b then max m (x.cube.ready.toList.getD b 0) else m) 0
      some (max k.endClk (last + 1))
  | _ => if k.next < stepsOf k.hdr k.cb then none else some k.endClk
/-- A command that has completed by the end of the clock before the present one. -/
def UnitSt.cmdDone (x : UnitSt) : Option CubeCmd :=
  x.cube.cmds.find? fun k =>
    k.last.isNone && (match x.cmdEnd k with | some e => decide (e < x.ck.run) | none => false)
/-- The brim learns in its next clock that a delivered command of a child has completed (R264). -/
def State.learn (s : State) (u : UnitId) (round : Nat) : State :=
  match (s.unit u).ctx, s.dev.pkg with
  | some c, some p => s.modDev fun d => { d with pkg := some { p with
      completed := p.completed ++ [(c.dy.toNat * 4 + c.dx.toNat, round, (s.unit brim).ck.clk)] } }
  | _, _ => s
/-- CUBE_COMMAND_COMPLETE: the command leaves the cube, with a record of source 3. -/
def State.cubeCompleteRow (s : State) (u : UnitId) : State :=
  match (s.unit u).cmdDone with
  | none => s
  | some k =>
    let run := (s.unit u).ck.run
    let s := s.modUnit u fun x => { x with cube := { x.cube with
      cmds := x.cube.cmds.filter fun m => m.id != k.id,
      hidden := x.cube.hidden.filter fun h => h.1 != k.id,
      drained := if tkind k.hdr == .join then 0 else x.cube.drained,
      drainEnd := if tkind k.hdr == .join then 0 else x.cube.drainEnd } }
    let s := if k.delivered then s.learn u k.round else s
    s.trace u 3 false 0 k.hdr (BitVec.ofNat 64 (run - 1 - k.t)) 1
/-- A TSTOP in run clock t: the steps whose read clock is at or before t + 4 complete (R260). -/
def stopLimit (k : CubeCmd) (t : Nat) : Nat :=
  let d := stepClks k.hdr k.cb
  if t < k.t then k.next
  else if tkind k.hdr == .mmap then max k.next (Nat.min (stepsOf k.hdr k.cb) (k.origin + 8 * ((t - k.t) / 8 + 1)))
  else max k.next (Nat.min (stepsOf k.hdr k.cb) (k.origin + (t - k.t) / d + 1))
/-- TSTOP on a crown. Of two running products it stops the oldest that still has a step to start, and a product of which no step
remains completes with STATE 0: the model's choice (log 62). -/
def Cube.tstop (c : Cube) (t : Nat) : Cube :=
  match c.cmds.find? fun k => isProduct k && k.last.isNone && decide (stopLimit k t < stepsOf k.hdr k.cb) with
  | some k => c.put { k with last := some (stopLimit k t) }
  | none => if c.cmds.any isProduct then c else { c with stopped := none }
/-- A command has nothing left that it has started and not written. -/
def Cube.written (c : Cube) (k : CubeCmd) : Bool :=
  k.limit ≤ k.next && k.second.isNone && !(c.caps.any fun p => p.cmd == k.id) && !(c.planes.any fun p => p.cap.cmd == k.id)
/-- A stopping command whose last started step has been written becomes the stopped one. -/
def Cube.settle (c : Cube) : Cube :=
  match c.cmds.find? fun k => k.last.isSome && c.written k with
  | some k => { c with cmds := c.cmds.filter (fun m => m.id != k.id), stopped := some { k with last := none } }
  | none => c
/-- TRES on a crown: step `next` reads in t + 4 (R261). -/
def Cube.tres (c : Cube) (t : Nat) : Cube :=
  match c.stopped with
  | some k => { c with stopped := none, cmds := c.cmds ++ [k.resumeAt t] }
  | none => c
/-- A command enters the cube. -/
def Cube.start (c : Cube) (k : CubeCmd) : Cube := { c with nextId := c.nextId + 1, cmds := c.cmds ++ [k] }

/-! ### Injection (R348) -/
/-- A write of INJHDR: accepted while the unit is stopped, the cube idle and LVL 0 or 1. -/
def UnitSt.injWrite (x : UnitSt) (h : Word) : UnitSt :=
  let idle := x.cube.cmds.isEmpty && x.cube.stopped.isNone && x.stop.inj.isNone
  let ok := x.stop.stopped && idle && hdrLvl h ≤ 1 && (hdrOpc h = 1 || hdrOpc h = 2 || hdrOpc h = 3 || (hdrOpc h = 12 && hdrLvl h = 1)) &&
    !snapIllegal h x.regs.cb && !snapShape h x.regs.cb
  if ok then { x with stop := { x.stop with inj := some h, injDone := false, injStatus := false } }
  else { x with stop := { x.stop with injStatus := true } }
/-- The output rows of the selected quad, or all at LVL 1. -/
def injRowSel (h : Word) (sel : BitVec 10) (i : Nat) : Bool := hdrLvl h != 0 || i / 16 == bitsOf sel.toNat 4 3
/-- The output columns of the selected quad, or all at LVL 1. -/
def injColSel (h : Word) (sel : BitVec 10) (c : Nat) : Bool := hdrLvl h != 0 || c / 16 == bitsOf sel.toNat 1 3
/-- The output elements of the selected quad, or all at LVL 1. -/
def injSel (h : Word) (sel : BitVec 10) (i c : Nat) : Bool := injRowSel h sel i && injColSel h sel c
/-- Word l of row `key` of an output block that begins with a slot is one of the selected quad. -/
def injWord (h : Word) (sel : BitVec 10) (f64 : Bool) (slot key l : Nat) : Bool :=
  injSel h sel (key % 128) (if f64 then (key / 128 - slot) * 64 + l / 2 else l)
/-- The words of a row that `w` names from one value, the others from another. -/
def mixWords (w : Nat → Bool) (new old : VecVal) : VecVal := ofLanes fun l => if w l then (lane new l).toNat else (lane old l).toNat
/-- The named words of a row, of a list of poisoned words. -/
def badWords (bad : List Nat) (w : Nat → Nat → Bool) (keys : List Nat) : Bool := bad.any fun n => keys.contains (n / 128) && w (n / 128) (n % 128)
/-- The words that `w` names of rows of the working bank written; they alone lose their poison. -/
def UnitSt.putAccWords (x : UnitSt) (w : Nat → Nat → Bool) (rows : List (Nat × VecVal)) : UnitSt :=
  rows.foldl (fun x r => { x with st := { setAccRow x.st r.1 (mixWords (w r.1) r.2 (accRow x.st r.1)) with
    accPoison := x.st.accPoison.filter fun n => !(n / 128 == r.1 && w r.1 (n % 128)) } }) x
/-- The same of rows of a plane. -/
def UnitSt.putPlaneWords (x : UnitSt) (w : Nat → Nat → Bool) (rows : List (Nat × VecVal)) : UnitSt :=
  rows.foldl (fun x r => { x with st := { setPlaneRow x.st r.1 (mixWords (w r.1) r.2 (planeRow x.st r.1)) with
    planePoison := x.st.planePoison.filter fun n => !(n / 128 == r.1 && w r.1 (n % 128)) } }) x
/-- A step of an injected header has read its operands: its charge (R319), and the poison that it consumes, in operands, accumulator
words (`accBad`) and words of a plane (`plBad`), with the path of one batt and for a QUAD header of one quad (R268, R400, Table 20.2). -/
def State.injRead (s : State) (u : UnitId) (k : CubeCmd) (st klo khi slot n : Nat) (as : List Nat) (accBad plBad : Bool) : State :=
  let sel := (s.unit u).stop.injsel.toNat
  let quad := if hdrLvl k.hdr = 0 then some (bitsOf sel 4 3, bitsOf sel 1 3) else none
  let e := s.tileEntry u (some (bitsOf sel 7 3)) (stepIdx k.hdr k.cb st) klo khi slot n 0 0x40 quad
  let s := if tkind k.hdr == .join then s else { s with free := s.free + 16384 }.stepCharge u k 1
  let s := s.consume u (s.unit u).trap.tl as [e]
  let s := if plBad then s.consumePlane u e else s
  if accBad then s.consumeAcc u [e] else s
/-- Step `st` of an injected TMMA or TMMAS, on batt b. -/
def State.injChained (s : State) (u : UnitId) (k : CubeCmd) (b st : Nat) : State :=
  let x := s.unit u
  let h := k.hdr
  let sel := x.stop.injsel
  let c := Snap.c h k.cb
  let f64 := Snap.fmtA k.cb = .f64
  let idx := stepIdx h k.cb st
  let q := blockSlot h k.cb idx
  let cap := capture x k (fun kk i => battOf f64 c kk i == b) 0 0 idx.1 idx.2.1 idx.2.2 st s.free (injRowSel h sel) (injColSel h sel)
  let ch : ChunkCap := { cmd := 0, at_ := 0, step := st, slot := q, fmtA := Snap.fmtA k.cb, fmtB := Snap.fmtB k.cb,
                         zero := idx.2.2 = 0 && hdrZ h, a := cap.a, b := cap.b }
  let rows := capRows ch (accRead x.st) (injSel h sel)
  let w := injWord h sel f64 q
  (s.injRead u k st (idx.2.2 * c) (Nat.min (Snap.k k.cb) (idx.2.2 * c + c) - 1) q (Snap.wq k.cb) cap.addrs
    (!ch.zero && badWords x.st.accPoison w (rows.map Prod.fst)) false).modUnit u fun x => x.putAccWords w rows
/-- Chunk j of an injected TMMA.P, on batt b. -/
def State.injPlane (s : State) (u : UnitId) (k : CubeCmd) (b j : Nat) : State :=
  let x := s.unit u
  let h := k.hdr
  let sel := x.stop.injsel
  let c := Snap.c h k.cb
  let cap := capture x k (fun _ _ => true) (b * Snap.f k.cb 1 32 32) (b * Snap.f k.cb 3 32 32) 0 0 j (8 * j + b) s.free (injRowSel h sel) (injColSel h sel)
  let ch : ChunkCap := { cmd := 0, at_ := 0, step := 8 * j + b, slot := b, fmtA := Snap.fmtA k.cb, fmtB := Snap.fmtB k.cb,
                         zero := j = 0 && hdrZ h, a := cap.a, b := cap.b }
  let rows := capRows ch (planeRead x.st) (injSel h sel)
  let w := injWord h sel false b
  (s.injRead u k (8 * j + b) (j * c) (Nat.min (Snap.k k.cb) (j * c + c) - 1) 0 1 cap.addrs false
    (!ch.zero && badWords x.st.planePoison w (rows.map Prod.fst))).modUnit u fun x => x.putPlaneWords w rows
/-- An injected TJOIN of the plane of batt b. -/
def State.injJoin (s : State) (u : UnitId) (k : CubeCmd) (b : Nat) : State :=
  let x := s.unit u
  let h := k.hdr
  let rows := (List.range 128).map fun r =>
    let key := hdrAcc h * 128 + r
    let p := planeRead x.st (b * 128 + r)
    (key, if hdrZ h then joinRow (hdrSub h) (accRead x.st key) p else p)
  (s.injRead u k 0 0 0 (hdrAcc h) 1 [] (hdrZ h && rows.any fun r => rowPoison x.st r.1)
    ((List.range 128).any fun r => planeBad x.st (b * 128 + r))).modUnit u fun x => x.putAccWords (fun _ _ => true) rows
/-- INJECTION_COMPLETE: the header runs once, on one batt, and for a QUAD header on one quad. -/
def State.injRow (s : State) (u : UnitId) : State :=
  let x := s.unit u
  match x.stop.inj with
  | none => s
  | some h =>
    let b := bitsOf x.stop.injsel.toNat 7 3
    let k : CubeCmd := { hdr := h, cb := x.regs.cb, mode := x.cube.scsel, t := 0 }
    let t := match tkind h with
      | .mma | .mmas => (List.range (stepsOf h k.cb)).foldl (fun (s : State) st => s.injChained u k b st) s
      | .mmap => (List.range (Snap.nch h k.cb)).foldl (fun (s : State) j => s.injPlane u k b j) s
      | .join => s.injJoin u k b
      | _ => s
    t.modUnit u fun y => { y with stop := { y.stop with inj := none, injDone := true } }

end Sys2Proof.Machine
end

