-- ==== Sys2Proof/Machine/Csr.lean ====
section
/-! DEFINITION. The system register space (R296–R298, Table 11.13): which numbers name a register on a host, what a
read returns, what a read clears, and what a write stores, field by field (R7, R213). -/
namespace Sys2Proof.Machine

/-! ### Registers that follow from other state -/
/-- CPOS (Table 2.2). -/
def UnitSt.cpos (x : UnitSt) : BitVec 32 := x.ck.cpos
/-- BID of a physical position, from BMAP (Table 2.4, R34). -/
def UnitSt.bid (x : UnitSt) (pos : Nat) : BitVec 32 :=
  match (List.range 8).find? fun b => bitsOf x.cfg.bmap.toNat (4 * b) 4 = pos with
  | some b => BitVec.ofNat 32 (pos % 16 * 16 + 8 + b)
  | none => BitVec.ofNat 32 (pos % 16 * 16)
/-- Entries of a queue that hold commands. -/
def Engine.cmds (e : Engine) : List QEnt := e.q.filter fun c => c.kind = .cmd
/-- CEPROG[e] (Table 11.10). -/
def Engine.prog (e : Engine) : Word :=
  let st := if e.stopped then 2 else if e.q.isEmpty then 0 else 1
  match e.q with
  | [] => BitVec.ofNat 64 (st * 2 ^ 62)
  | c :: _ =>
    let cmd := match c.kind with | .cmd => true | _ => false
    BitVec.ofNat 64 (st * 2 ^ 62 + e.q.length % 64 * 2 ^ 56 + (if cmd then cpOpc c.word * 2 ^ 48 + c.next % 2 ^ 48 else 0))
/-- DCG_STEP[b] (Table 19.5). -/
def Dcg.csr (d : Dcg) : Word :=
  BitVec.ofNat 64 (d.btw.toNat * 2 ^ 32 + d.atw.toNat * 2 ^ 16 + (if d.trip then 16 else 0) + d.step.toNat)
/-- STOPCTL (Table 14.12). -/
def StopRegs.ctl (s : StopRegs) : Word :=
  BitVec.ofNat 64 ((if s.dumped then 8 else 0) + (if s.reload then 4 else 0) + (if s.stopped then 1 else 0))
/-- INJST (Table 14.12). -/
def StopRegs.injst (s : StopRegs) : Word :=
  BitVec.ofNat 64 ((if s.injStatus then 2 else 0) + (if s.injDone then 1 else 0))
/-- PREQ (Table 12.3). -/
def Clocks.preqCsr (c : Clocks) : Word := BitVec.ofNat 64 (c.rprio.toNat * 2 + (if c.preq then 1 else 0))
/-- A crown stands still: it has failed, or one of its batts has tripped (R408, R414). -/
def UnitSt.halted (x : UnitSt) : Bool := x.cfg.failed || x.cfg.tripped
/-- CROWNCLK[k] (Table 15.4); MHZ of a crown that stands still reads 0 (R408). -/
def State.crownClk (s : State) (k : Fin 8) : Word :=
  BitVec.ofNat 64 ((s.dev.pow.target[k]).toNat * 2 ^ 16 + (if (s.unit (crownUnit k.val)).halted then 0 else (s.dev.pow.mhz[k]).toNat))
/-- REDSPILL of a controller: HBM 2k + i, LP6 16 + l. -/
def Dev.redspill (d : Dev) (c : Nat) : Word := smGet 0 d.hl.spill c
/-- The controller that IXSEL.INDEX names on a unit (Table 11.14); `none` out of range. -/
def spillCtl (u : UnitId) (i : Nat) : Option Nat :=
  if isBrim u then (if i < 8 then some (16 + i) else none) else if i < 2 then some (2 * u.val + i) else none
/-- TABLE of IXSEL. -/
def ixTable (x : BitVec 32) : Nat := bitsOf x.toNat 30 2
/-- INDEX of IXSEL. -/
def ixIndex (x : BitVec 32) : Nat := bitsOf x.toNat 0 16
/-- IXDATA; an index out of range reads zero. -/
def State.ixRead (s : State) (u : UnitId) : Word :=
  let x := s.unit u
  let i := ixIndex x.ck.ixsel
  match ixTable x.ck.ixsel with
  | 0 => if i < 4096 then BitVec.ofNat 64 (s.dev.cit i) else 0
  | 1 => if !isBrim u && i < 384 then smGet 0 x.cfg.qostab i else 0
  | 2 => match spillCtl u i with
    | some c => s.dev.redspill c
    | none => 0
  | _ => 0

/-! ### Which numbers name a register (Table 11.13) -/
/-- A number of the observability range (Table 14.1). -/
def obsNum (n : Nat) : Bool :=
  (0x100 ≤ n && n ≤ 0x104) || (0x108 ≤ n && n ≤ 0x10A) || n = 0x110 || n = 0x111 || (0x120 ≤ n && n ≤ 0x12F) ||
    (0x180 ≤ n && n ≤ 0x182) || (0x190 ≤ n && n ≤ 0x194)
/-- A number of a host. -/
def csrExists (brimU : Bool) (n : Nat) : Bool :=
  n = 3 || n = 8 || n = 9 || n = 0xA || n = 0xB || n = 0xE || (0x10 ≤ n && n ≤ 0x19) || (0x20 ≤ n && n ≤ 0x3F) ||
    (0x40 ≤ n && n ≤ 0x4B) || (0x50 ≤ n && n ≤ 0x52) || n = 0x80 || n = 0x90 || n = 0x91 || obsNum n ||
    (if brimU then n = 0xD || (0x82 ≤ n && n ≤ 0x85) || (0x200 ≤ n && n ≤ 0x21F) || (0x230 ≤ n && n ≤ 0x237) ||
        n = 0x240 || n = 0x241 || (0x248 ≤ n && n ≤ 0x24F) || n = 0x250
      else n ≤ 2 || n = 0xC || (0x58 ≤ n && n ≤ 0x67) || n = 0x81 || n = 0xA0)
/-- A write that needs PRIV (R298, R337, Table 15.4, Table 19.4). -/
def csrPriv (n : Nat) : Bool :=
  n = 0x80 || n = 0x81 || (0x82 ≤ n && n ≤ 0x85) || n = 0x50 || n = 0x51 || n = 0xA0 || n = 0x91 ||
    (0x100 ≤ n && n ≤ 0x1FF) || (0x241 ≤ n && n ≤ 0x27F)

/-! ### Reads -/
/-- The value that CSRR returns. -/
def State.csrRead (s : State) (u : UnitId) (n : Nat) : Word :=
  let x := s.unit u
  let d := s.dev
  if 0x20 ≤ n ∧ n ≤ 0x3F then (x.bars[Fin.ofNat 32 (n - 0x20)]).csr
  else if 0x40 ≤ n ∧ n ≤ 0x4B then (x.es.eng[Fin.ofNat 12 (n - 0x40)]).prog
  else if 0x58 ≤ n ∧ n ≤ 0x5F then (x.cfg.dcg[Fin.ofNat 8 (n - 0x58)]).csr
  else if 0x60 ≤ n ∧ n ≤ 0x67 then ((x.cfg.dcg[Fin.ofNat 8 (n - 0x60)]).temp).setWidth 64
  else if 0x120 ≤ n ∧ n ≤ 0x12F then (x.pm.sel[Fin.ofNat 16 (n - 0x120)]).setWidth 64
  else if 0x200 ≤ n ∧ n ≤ 0x21F then (d.att.meas[Fin.ofNat 8 ((n - 0x200) / 4)]).extractLsb' (64 * ((n - 0x200) % 4)) 64
  else if 0x230 ≤ n ∧ n ≤ 0x237 then d.att.idpub.extractLsb' (64 * (n - 0x230)) 64
  else if 0x248 ≤ n ∧ n ≤ 0x24F then s.crownClk (Fin.ofNat 8 (n - 0x248))
  else
    match n with
    | 0x000 => x.fp.vctl.setWidth 64
    | 0x002 => x.cpos.setWidth 64
    | 0x003 => x.ck.xlbase
    | 0x008 => BitVec.ofNat 64 x.ck.clk
    | 0x009 => BitVec.ofNat 64 x.ck.scyc
    | 0x00A => x.seg.cnt
    | 0x00B => x.seg.crc.setWidth 64
    | 0x00C => x.cprog
    | 0x00D => s.pprog
    | 0x00E => x.ck.ectr
    | 0x010 => x.trap.tl.setWidth 64
    | 0x011 => (x.trap.cause[(0 : Fin 2)]).setWidth 64
    | 0x012 => (x.trap.cause[(1 : Fin 2)]).setWidth 64
    | 0x013 => (x.trap.epc[(0 : Fin 2)]).setWidth 64
    | 0x014 => (x.trap.epc[(1 : Fin 2)]).setWidth 64
    | 0x015 => x.trap.tval[(0 : Fin 2)]
    | 0x016 => x.trap.tval[(1 : Fin 2)]
    | 0x017 => (x.tvec 1).setWidth 64
    | 0x018 => (x.tvec 2).setWidth 64
    | 0x019 => (s.tsave u).setWidth 64
    | 0x050 => x.ck.preqCsr
    | 0x051 => x.ck.pmaxiter.setWidth 64
    | 0x052 => x.obs.dthresh.setWidth 64
    | 0x080 => d.hbmcfg
    | 0x081 => x.cfg.qosctl.setWidth 64
    | 0x082 => d.card.ctl
    | 0x083 => d.card.hot
    | 0x084 => d.card.fq
    | 0x085 => d.card.cq
    | 0x090 => x.ck.ixsel.setWidth 64
    | 0x091 => s.ixRead u
    | 0x0A0 => x.cfg.bmap
    | 0x100 => x.obs.rctl
    | 0x101 => x.obs.rxl
    | 0x102 => x.obs.tbuf
    | 0x103 => x.obs.thead
    | 0x104 => x.obs.tlost
    | 0x108 => x.obs.trga
    | 0x109 => x.obs.trgb
    | 0x10A => if x.obs.cap then 1 else 0
    | 0x110 => x.pm.ctl
    | 0x111 => x.pm.per.setWidth 64
    | 0x180 => x.obs.dlog
    | 0x181 => x.obs.dhead
    | 0x182 => x.obs.cclk.setWidth 64
    | 0x190 => x.stop.ctl
    | 0x191 => x.stop.dumpva.setWidth 64
    | 0x193 => x.stop.injsel.setWidth 64
    | 0x194 => x.stop.injst
    | 0x240 => d.pow.stat
    | 0x241 => d.pow.lim.setWidth 64
    | 0x250 => d.pow.dcgcfg
    | _ => 0
/-- The RC fields that a read clears (Tables 14.4, 14.12, 15.3). -/
def State.csrClear (s : State) (u : UnitId) (n : Nat) : State :=
  match n with
  | 0x104 => s.modUnit u fun x => { x with obs := { x.obs with tlost := 0 } }
  | 0x194 => s.modUnit u fun x => { x with stop := { x.stop with injDone := false } }
  | 0x240 => s.modDev fun d => { d with pow := { d.pow with stat := d.pow.stat &&& ~~~(0xFFFF#64) } }
  | _ => s

/-! ### Writes -/
/-- VCTL: flags clear on 1; FTZ and DRM stored (Table 3.6). -/
def FpCtl.write (f : FpCtl) (v : Word) : FpCtl :=
  let w : BitVec 32 := v.setWidth 32
  { f with vctl := (f.vctl &&& ~~~(w &&& 0xF800#32) &&& 0xF800#32) ||| (w &&& 0xF#32) }
/-- VSEED (R67). -/
def FpCtl.reseed (f : FpCtl) (v : BitVec 32) : FpCtl := { f with gens := Vector.ofFn fun i : Fin 128 => seedLane v i.val }
/-- PREQ.REQ written (Table 12.3): by software, RPRIO 0. -/
def Clocks.writePreq (c : Clocks) (req : Bool) : Clocks :=
  { c with preq := req, rprio := 0, reqClks := if c.preq && req then c.reqClks else 0 }
/-- CARDCTL (Table 6.5, R440). -/
def Carder.writeCtl (c : Carder) (v : Word) : Carder :=
  let m := Nat.min (Nat.max (bitsOf v.toNat 8 5) 1) 16
  { c with ctl := (v &&& 0xFFFFFFFF00FF0003#64) ||| BitVec.ofNat 64 (m * 256) }
/-- A completion record of a request that never became a move (Table 6.9), MCKS still zero. -/
def cqRec (status passes src part dst leaf hot cause : Nat) : Vector Word 4 :=
  #v[BitVec.ofNat 64 (status * 2 ^ 60 + passes * 2 ^ 56 + src % 2 ^ 52), BitVec.ofNat 64 (part * 2 ^ 52 + dst % 2 ^ 52),
     BitVec.ofNat 64 (leaf % 2 ^ 52), BitVec.ofNat 64 (hot % 256 * 2 ^ 24 + cause)]
/-- A request declined: its record is written when one is free. -/
def Dev.decline (d : Dev) (status : Nat) (m : MigReq) : Dev :=
  { d with card := { d.card with declines := d.card.declines ++
      [{ w := cqRec status 0 m.src m.part.toNat 0 m.leaf m.hot.toNat 1, accepted := m.accepted, cnts := m.cnt.toList }] } }
/-- CARDCTL written: EN = 0 declines every pending request with DISABLED (R151). -/
def Dev.writeCardctl (d : Dev) (v : Word) : Dev :=
  let d := { d with card := d.card.writeCtl v }
  if v.getLsbD 0 then d
  else (d.card.reqs.foldl (fun d m => d.decline 2 m) { d with card := { d.card with reqs := [] } })
/-- CARDHOT (Table 6.6). -/
def Carder.writeHot (c : Carder) (v : Word) : Carder :=
  if c.hot.getLsbD 0 then c else { c with hot := v &&& 0x000FFFFFFFFF0001#64 }
/-- CARDFQ (Table 6.7). -/
def Carder.writeFq (c : Carder) (v : Word) : Carder :=
  { c with fq := (v &&& 0x0FFF000000FF8000#64) ||| (c.fq &&& 0x00000FFF00000000#64) }
/-- CARDCQ (Table 6.8). -/
def Carder.writeCq (c : Carder) (v : Word) : Carder :=
  { c with cq := (v &&& 0x03FF000000FF8000#64) ||| (c.cq &&& 0x000003FF00000000#64) }
/-- HBMCFG (Table 4.7): IXGROUPS follows from IXSIZE and NCROWN. -/
def writeHbmcfg (h v : Word) : Word :=
  if h.getLsbD 0 then h
  else
    let ix := Nat.min (bitsOf v.toNat 8 8) 128
    let n := max 1 (bitsOf h.toNat 36 4)
    let g := ix * 2 ^ 18 / ceilDiv 4096 n
    (h &&& 0x000000F0FF000000#64) ||| BitVec.ofNat 64 (g % 2 ^ 17 * 2 ^ 40 + ix * 256) ||| (v &&& 1#64)
/-- CROWNCLK[k].TARGET (Table 15.4). -/
def clkTarget (v : Word) : BitVec 10 :=
  BitVec.ofNat 10 (Nat.min 800 (Nat.max 400 (bitsOf v.toNat 16 10 / 25 * 25)))
/-- DCGCFG: a write that breaks TW < TH < TC or PER ≥ 1 changes nothing (R409). -/
def writeDcg (old v : Word) : Word :=
  if (fld v 0 8).toNat < (fld v 8 8).toNat && (fld v 8 8).toNat < (fld v 16 8).toNat && fld v 32 16 != 0 then v &&& 0x0000FFFF0FFFFFFF#64
  else old
/-- PWRLIM (Table 15.4). -/
def pwrLimit (v : Word) : BitVec 16 := BitVec.ofNat 16 (Nat.min 2600 (Nat.max 1000 (bitsOf v.toNat 0 16)))
/-- The IXDATA write: QOSTAB, and REDSPILL while unlocked; CIT is locked by firmware (R109). -/
def State.ixWrite (s : State) (u : UnitId) (v : Word) : State :=
  let i := ixIndex (s.unit u).ck.ixsel
  match ixTable (s.unit u).ck.ixsel with
  | 1 => if !isBrim u && i < 384 then s.modUnit u fun x => { x with cfg := { x.cfg with qostab := smSet 0 x.cfg.qostab i v } } else s
  | 2 =>
    match spillCtl u i with
    | some c => if (s.dev.redspill c).getLsbD 0 then s else s.modDev fun d => { d with hl := { d.hl with spill := smSet 0 d.hl.spill c v } }
    | none => s
  | _ => s
/-- A counter register written (R343): the counters it affects are zeroed. -/
def PmRegs.writeCtl (p : PmRegs) (v : Word) : PmRegs :=
  { p with ctl := v &&& 0xFFF0000F#64, cnt := Vector.replicate 16 {}, set_ := 0, since := 0 }
/-- PMPER. -/
def PmRegs.writePer (p : PmRegs) (v : Word) : PmRegs :=
  { p with per := v.setWidth 32, cnt := Vector.replicate 16 {}, set_ := 0, since := 0 }
/-- PMSEL[c]. -/
def PmRegs.writeSel (p : PmRegs) (c : Fin 16) (v : Word) : PmRegs :=
  { p with sel := p.sel.set c (v.setWidth 32), cnt := p.cnt.set c {} }
/-- STOPCTL.STOP and RELOAD written; GO is `State.go` of Issue.lean's clock. -/
def StopRegs.write (s : StopRegs) (v : Word) : StopRegs :=
  { s with reload := v.getLsbD 2, stopReq := s.stopReq || (v.getLsbD 0 && !s.stopped) }
/-- The levels of the trap registers. -/
def TrapRegs.write (t : TrapRegs) (n : Nat) (v : Word) : TrapRegs :=
  match n with
  | 0x011 => { t with cause := t.cause.set 0 (v.setWidth 24) }
  | 0x012 => { t with cause := t.cause.set 1 (v.setWidth 24) }
  | 0x013 => { t with epc := t.epc.set 0 (v.setWidth 56) }
  | 0x014 => { t with epc := t.epc.set 1 (v.setWidth 56) }
  | 0x015 => { t with tval := t.tval.set 0 v }
  | 0x016 => { t with tval := t.tval.set 1 v }
  | _ => t
/-- The recorder and drift registers. A write of TRGA does not keep ACT [57:56], which Table 14.6 gives as RW in the map that it shares
with TRGB and as "TRGB only" in its Meaning: the model's choice (log 68). -/
def Observe.write (o : Observe) (n : Nat) (v : Word) : Observe :=
  match n with
  | 0x100 => { o with rctl := v &&& 0x00000FFF0003FFFF#64, frozenAt := none }
  | 0x101 => { o with rxl := v &&& xlBits }
  | 0x102 => { o with tbuf := v &&& 0x00FFFFFFFFFFFFFF#64 }
  | 0x103 => { o with thead := v }
  | 0x108 => { o with trga := v &&& 0xF0FFFFFFFFFFFFFF#64 }
  | 0x109 => { o with trgb := v &&& 0xF3FFFFFFFFFFFFFF#64 }
  | 0x10A => { o with cap := v.getLsbD 0 }
  | 0x180 => { o with dlog := v &&& 0x00FFFFFFFFFFFFFF#64 }
  | 0x181 => { o with dhead := v }
  | 0x052 => { o with dthresh := v.setWidth 32 }
  | _ => o
/-- What a CSRW that lands writes; a write of a read-only register is ignored (R213). -/
def State.csrWrite (s : State) (u : UnitId) (n : Nat) (v : Word) : State :=
  if 0x120 ≤ n ∧ n ≤ 0x12F then s.modUnit u fun x => { x with pm := x.pm.writeSel (Fin.ofNat 16 (n - 0x120)) v }
  else if 0x248 ≤ n ∧ n ≤ 0x24F then
    s.modDev fun d => { d with pow := { d.pow with target := d.pow.target.set (Fin.ofNat 8 (n - 0x248)) (clkTarget v) } }
  else if 0x11 ≤ n ∧ n ≤ 0x16 then s.modUnit u fun x => { x with trap := x.trap.write n v }
  else
    match n with
    | 0x000 => s.modUnit u fun x => { x with fp := x.fp.write v }
    | 0x001 => s.modUnit u fun x => { x with fp := x.fp.reseed (v.setWidth 32) }
    | 0x050 => s.modUnit u fun x => { x with ck := x.ck.writePreq (v.getLsbD 0) }
    | 0x051 => s.modUnit u fun x => { x with ck := { x.ck with pmaxiter := v.setWidth 32 } }
    | 0x080 => s.modDev fun d => { d with hbmcfg := writeHbmcfg d.hbmcfg v }
    | 0x081 => s.modUnit u fun x => { x with cfg := { x.cfg with qosctl := v.setWidth 32 &&& 0x77FF#32 } }
    | 0x082 => s.modDev fun d => d.writeCardctl v
    | 0x083 => s.modDev fun d => { d with card := d.card.writeHot v }
    | 0x084 => s.modDev fun d => { d with card := d.card.writeFq v }
    | 0x085 => s.modDev fun d => { d with card := d.card.writeCq v }
    | 0x090 => s.modUnit u fun x => { x with ck := { x.ck with ixsel := v.setWidth 32 &&& 0xC000FFFF#32 } }
    | 0x091 => s.ixWrite u v
    | 0x0A0 => s.modUnit u fun x => if x.cfg.bmap.getLsbD 63 then x else
        { x with cfg := { x.cfg with bmap := v &&& 0x80001FFFFFFFFFFF#64, bmapShadow := v &&& 0x80001FFFFFFFFFFF#64 } }
    | 0x110 => s.modUnit u fun x => { x with pm := x.pm.writeCtl v }
    | 0x111 => s.modUnit u fun x => { x with pm := x.pm.writePer v }
    | 0x190 => s.modUnit u fun x => { x with stop := x.stop.write v }
    | 0x191 => s.modUnit u fun x => { x with stop := { x.stop with dumpva := v.setWidth 56 } }
    | 0x192 => s.modUnit u fun x => x.injWrite v
    | 0x193 => s.modUnit u fun x => { x with stop := { x.stop with injsel := v.setWidth 10 &&& 0x3FE#10 } }
    | 0x241 => s.modDev fun d => { d with pow := { d.pow with lim := pwrLimit v } }
    | 0x250 => s.modDev fun d => { d with pow := { d.pow with dcgcfg := writeDcg d.pow.dcgcfg v } }
    | _ => s.modUnit u fun x => { x with obs := x.obs.write n v }

end Sys2Proof.Machine
end

