-- ==== Sys2Proof/Machine/Operands.lean ====
section
/-! DEFINITION. Operands: register and latch reads with the boost buffers in front of them (R86, R89, R90, R180),
effective addresses and post-modification (R214), and the guard and the lane predicate of an operation (R166, R167). -/
namespace Sys2Proof.Machine

/-! ### Boost levels (R180) -/
/-- A landed entry of a level. -/
def UnitSt.landed (x : UnitSt) (lvl : Bool) : List BoostEnt :=
  x.seq.boost.filter fun e => e.lvl == lvl && decide (e.fl.due ≤ x.ck.scyc)
/-- The entries that an operation of a boost level reads through, in the order in which a later one hides an earlier:
level 1 before level 2, each in issue order. -/
def UnitSt.through (x : UnitSt) (b : Boost) : List BoostEnt :=
  match b with
  | .none => []
  | .one => x.landed false
  | .two => x.landed false ++ x.landed true

/-! ### Register sources -/
/-- s[n] as an operation of a boost level reads it. -/
def UnitSt.rdS (x : UnitSt) (b : Boost) (n : Fin 64) : Word :=
  if n = 0 then 0
  else (x.through b).foldl (fun v e => if e.fl.dst = .s n then e.fl.val.setWidth 64 else v) (x.regs.s[n])
/-- A write of the mode state: mode 3 zeroes the value (R216). -/
def AReg.setMode (a : AReg) (md : AMd) : AReg := { val := if md.mode = 3 then 0 else a.val, md := md }
/-- a[n] as an operation of a boost level reads it. -/
def UnitSt.rdA (x : UnitSt) (b : Boost) (n : Fin 32) : AReg :=
  (x.through b).foldl (fun v e =>
    match e.fl.dst with
    | .a m => if m = n then { v with val := e.fl.val.setWidth 32 } else v
    | .am m md => if m = n then v.setMode md else v
    | _ => v) (x.regs.a[n])
/-- A physical vector register as an operation of a boost level reads it, lane by lane. -/
def UnitSt.rdV (x : UnitSt) (b : Boost) (n : Fin 64) : VecVal :=
  (x.through b).foldl (fun v e => if e.fl.dst = .v n then mergeLanes e.fl.mask e.fl.val v else v) (x.regs.v[n])
/-- p[n] as an operation of a boost level reads it. -/
def UnitSt.rdP (x : UnitSt) (b : Boost) (n : PReg) : Mask :=
  if n = 0 then BitVec.allOnes 128
  else (x.through b).foldl (fun v e =>
    if e.fl.dst = .p n then (e.fl.val.setWidth 128 &&& e.fl.mask) ||| (v &&& ~~~e.fl.mask) else v) (x.regs.p[n])

/-! ### Slot sources (Table 4.2) -/
/-- A 32-bit value in every lane. -/
def bcast (v : BitVec 32) : VecVal := ofLanes fun _ => v.toNat
/-- A source of an S slot. -/
def UnitSt.srcS (x : UnitSt) (b : Boost) : SSrc → Word
  | .reg n => x.rdS b (r6 n)
  | .latch .ls0 => x.lat.ls0
  | .latch .ls1 => x.lat.ls1
  | .latch .la0 => x.lat.la0.setWidth 64
  | .latch .la1 => x.lat.la1.setWidth 64
/-- The value of a source of an A slot. -/
def UnitSt.srcA (x : UnitSt) (b : Boost) : ASrc → BitVec 32
  | .reg n => (x.rdA b (r5 n)).val
  | .latch .ls0 => x.lat.ls0.setWidth 32
  | .latch .ls1 => x.lat.ls1.setWidth 32
  | .latch .la0 => x.lat.la0
  | .latch .la1 => x.lat.la1
/-- A latch read by a vector slot. -/
def Latches.vec (l : Latches) : Latch → VecVal
  | .ls0 => bcast (l.ls0.setWidth 32)
  | .ls1 => bcast (l.ls1.setWidth 32)
  | .la0 => bcast l.la0
  | .la1 => bcast l.la1
  | .lv0 => l.lv0
  | .lv1 => l.lv1
  | .lvm => l.lvm
  | .lac => l.lac
/-- The physical register of a vector code in the present rotation. -/
def UnitSt.phys (x : UnitSt) (n : BitVec 6) : Fin 64 := physV x.seq.rbase (r6 n)
/-- A source of a V0, V1, VM or SC slot. -/
def UnitSt.srcV (x : UnitSt) (b : Boost) : VSrc → VecVal
  | .reg n => x.rdV b (x.phys n)
  | .latch l => x.lat.vec l
/-- The scalar registers that sources read (R173). -/
def portS (l : List SSrc) : List (Fin 64) := l.filterMap fun a => match a with | .reg n => some (r6 n) | .latch _ => none
/-- The physical vector registers that sources read. -/
def UnitSt.portV (x : UnitSt) (l : List VSrc) : List (Fin 64) :=
  l.filterMap fun a => match a with | .reg n => some (x.phys n) | .latch _ => none

/-! ### Effective addresses (R214, Table 8.11) -/
/-- BRev(x, K). -/
def brevK (k x : Nat) : Nat := natOfBits k fun i => x.testBit (k - 1 - i)
/-- EA(a). -/
def AReg.ea (a : AReg) : BitVec 32 :=
  if a.md.mode = 3 then
    let k := a.md.k.toNat
    a.md.base + BitVec.ofNat 32 (brevK k (a.val.toNat % 2 ^ k) * 2 ^ a.md.esh.toNat)
  else a.val
/-- The post-modified value; `none` in mode 0. -/
def AReg.post (a : AReg) : Option (BitVec 32) :=
  match a.md.mode.toNat with
  | 1 => some (a.val + a.md.inc)
  | 2 =>
    let d : Int := (a.val.toNat : Int) - a.md.base.toNat + a.md.inc.toInt
    some (a.md.base + BitVec.ofNat 32 (d % (a.md.len.toNat : Int)).toNat)
  | 3 => some (BitVec.ofNat 32 ((a.val.toNat + 1) % 2 ^ a.md.k.toNat))
  | _ => none
/-- The address that a source of an A slot gives: a latch is plain (R215). -/
def UnitSt.eaA (x : UnitSt) (b : Boost) : ASrc → BitVec 32
  | .reg n => (x.rdA b (r5 n)).ea
  | .latch l => x.srcA b (.latch l)

/-! ### Guards and lanes -/
/-- The guard is on (R166). -/
def UnitSt.guardOn (x : UnitSt) (b : Boost) (g : Guard) : Bool := (x.rdP b g.gp).getLsbD 0 != g.neg
/-- The lanes with a 1 in a mask, in ascending order. -/
def lanesOf (m : Mask) : List Nat := (List.range 128).filter fun i => m.getLsbD i
/-- A mask from a function of the lane. -/
def maskOf (f : Nat → Bool) : Mask := BitVec.ofNat 128 (natOfBits 128 f)
/-- All lanes with one value. -/
def uniform (b : Bool) : Mask := if b then BitVec.allOnes 128 else 0
/-- The mask that governs 64-bit elements: bit 2e for lanes 2e and 2e + 1 (R219). -/
def mask64 (m : Mask) : Mask := maskOf fun i => m.getLsbD (i / 2 * 2)
/-- The lanes of a result of a format. -/
def fmtMask (f : Fmt) (m : Mask) : Mask := if f.bits = 64 then mask64 m else m
/-- The rounding mode in effect: code 6 takes VCTL.DRM (R62). -/
def UnitSt.rmOf (x : UnitSt) (r : RMode) : RMode :=
  match r with
  | .dyn => (decRM (fld x.fp.vctl 0 3)).getD .rne
  | r => r
/-- VCTL.FTZ. -/
def UnitSt.ftz (x : UnitSt) : Bool := x.fp.vctl.getLsbD 3
/-- What rounding needs. -/
def UnitSt.env (x : UnitSt) (r : RMode) : FpEnv := { rm := x.rmOf r, ftz := x.ftz }
/-- RM code 6 with VCTL.DRM = SR, illegal outside VCVT (R62, R220). -/
def UnitSt.drmBad (x : UnitSt) (r : RMode) : Bool := r == .dyn && fld x.fp.vctl 0 3 == 5#3

end Sys2Proof.Machine
end

