-- ==== Sys2Proof/Machine/Issue.lean ====
section
/-! DEFINITION. Issue: what one slot operation is to its instance (nullification, wait, fault, effect: R43, R166,
R371, R372), results in flight and their landing (R185, R186, R89), boosted results (R179, R199), and the scratch,
accumulator and latch accesses of later clocks (Table 7.11, R236, R251). -/
namespace Sys2Proof.Machine

/-! ### Cause codes (Table 18.7) -/
def cILLEGAL_BUNDLE : BitVec 8 := 0x01
def cSEGMENT_STATE : BitVec 8 := 0x02
def cILLEGAL_OPCODE : BitVec 8 := 0x03
def cILLEGAL_PREFIX : BitVec 8 := 0x04
def cBOOST_ILLEGAL : BitVec 8 := 0x05
def cILLEGAL_OPERAND : BitVec 8 := 0x06
def cNONUNIFORM_BRANCH : BitVec 8 := 0x08
def cBAD_TARGET : BitVec 8 := 0x09
def cLOOP_OVERFLOW : BitVec 8 := 0x0A
def cLOOP_STATE : BitVec 8 := 0x0B
def cTRAP_STATE : BitVec 8 := 0x0C
def cBOOST_OVERFLOW : BitVec 8 := 0x0D
def cBOOST_STATE : BitVec 8 := 0x0E
def cDIV_ZERO : BitVec 8 := 0x10
def cSCRATCH_RANGE : BitVec 8 := 0x14
def cACC_RANGE : BitVec 8 := 0x15
def cBAD_CSR : BitVec 8 := 0x16
def cPRIVILEGE : BitVec 8 := 0x17
def cCOUNTER_RANGE : BitVec 8 := 0x18
def cQUEUE_FULL : BitVec 8 := 0x19
def cATOMIC_ALIGN : BitVec 8 := 0x1A
def cCOPY_SHAPE : BitVec 8 := 0x1B
def cBARRIER_STATE : BitVec 8 := 0x1C
def cTILE_SHAPE : BitVec 8 := 0x20
def cBANK_CONFLICT : BitVec 8 := 0x21
def cCUBE_BUSY : BitVec 8 := 0x22
def cCUBE_STATE : BitVec 8 := 0x23
def cTILE_PLACE : BitVec 8 := 0x24
def cTRAP_IMM : BitVec 8 := 0x28
def cTRANSLATION_FAULT : BitVec 8 := 0x30
def cTABLE_FORMAT : BitVec 8 := 0x31
def cTASK_RECORD : BitVec 8 := 0x32

/-! ### Operations -/
/-- A slot operation as its instance meets it: its slot and word, its boost level (level 2 `true`), energy class, the
register ports it uses, whether its guard nullifies it, the wait it is in (Table 2.6 cause, object awaited), its
synchronous fault, the engines into whose queues it places an entry (R271), the causes that Table 11.15 lists after
QUEUE_FULL, what a clock of its wait or its own fault does, and its effect. -/
structure Op where
  slot : Fin 12
  word : Word
  lvl : Option Bool := none
  cls : Option (Fin 16) := none
  sr : List (Fin 64) := []
  vr : List (Fin 64) := []
  nul : Bool := false
  wait : Option (Nat × Nat) := none
  fault : Option (BitVec 8 × Word) := none
  bstFault : Option (Fin 12) := none
  enq : List EngId := []
  late : Option (BitVec 8 × Word) := none
  onWait : State → State := id
  onFault : State → State := id
  eff : State → State

/-- The slot word of an operation. -/
def wordOf (i : Instr) : Word := (encode i).elim 0 Prod.snd
/-- The level of a boost code. -/
def Boost.lvl : Boost → Option Bool
  | .none => none
  | .one => some false
  | .two => some true
/-- The first of a list of causes with their values. -/
def firstFault : List (Bool × BitVec 8 × Word) → Option (BitVec 8 × Word)
  | [] => none
  | (b, c, v) :: t => if b then some (c, v) else firstFault t
/-- Operations outstanding at a boost level, with those of lower slots of the same instance. -/
def UnitSt.boostCount (x : UnitSt) (lvl : Bool) : Nat := (x.seq.boost.filter fun e => e.lvl == lvl).length
/-- Entries of a queue at the start of the issue clock: a completion of that clock frees no room (R271). -/
def Engine.occ (e : Engine) : Nat := e.q.length + e.freed
/-- QUEUE_FULL: the lowest engine whose queue, with the entries of lower slots of the instance, holds 32 (R271). -/
def UnitSt.queueFull (x : UnitSt) (enq pre : List EngId) : Option (BitVec 8 × Word) :=
  (enq.find? fun e => decide (32 ≤ (x.es.eng[e]).occ + pre.count e)).map fun e => (cQUEUE_FULL, BitVec.ofNat 64 e.val)
/-- The synchronous fault of an operation in an instance in which `more` operations of lower slots are boosted at its
level (R384) and those slots have placed entries in the queues `pre`. -/
def Op.trapOf (o : Op) (x : UnitSt) (more : Nat) (pre : List EngId) : Option TrapArg :=
  match (o.fault.or (x.queueFull o.enq pre)).or o.late with
  | some (c, v) => some { code := c, slot := (o.bstFault.getD o.slot).val, tval := v, bst := o.bstFault.isSome }
  | none =>
    match o.lvl with
    | some l => if 8 ≤ x.boostCount l + more then some { code := cBOOST_OVERFLOW, slot := o.slot.val, tval := o.word } else none
    | none => none
/-- The effect of an operation with its energy charge (R319). -/
def Op.run (o : Op) (s : State) : State :=
  match o.cls with
  | some c => (o.eff s).charge s.cur c 1
  | none => o.eff s
/-- A clock in which a bundle is held (Table 2.6): the stall and its cause. -/
def State.holdFor (s : State) (cause : Nat) : State :=
  s.modMe fun x => { x with seq := { x.seq with held := some (cause, match x.seq.held with | some (_, n) => n + 1 | none => 1) } }
/-- THE MEANING OF ONE SLOT OPERATION at its issue: nullified, it changes nothing; while its wait holds, the bundle is
held; a fault takes the trap (R371, R374); otherwise its effect. -/
def runOp (o : Op) (s : State) : Host.Outcome State Fault Refusal :=
  if o.nul then .next s
  else
    match o.wait with
    | some (c, _) => .next ((o.onWait s).holdFor c)
    | none =>
      match o.trapOf s.me 0 [] with
      | some a => .next ((o.onFault s).takeTrap s.cur a)
      | none => .next (o.run s)

/-! ### Results in flight -/
/-- A result: destination, latency, lanes, value, latch, flags; `held`: the fault of a boosted operation. -/
structure Result where
  slot : Fin 12
  bst : Boost := .none
  nw : Bool := false
  dst : FDest
  lat : Nat
  mask : Mask := BitVec.allOnes 128
  val : VecVal := 0
  latch : Option Latch := none
  flags : FFlags := 0
  held : Option (BitVec 8 × Word) := none
/-- A result put in flight at issue; VCTL flags take effect at issue + 1, after a CSRW of that clock (R68, R189). A
boosted result goes to its level's buffer and changes no latch and no flag (R179). -/
def UnitSt.emit (x : UnitSt) (r : Result) : UnitSt :=
  let id := x.seq.nextId
  let f : Flight := { id := id, slot := r.slot, dst := if r.nw then .none else r.dst, due := x.ck.scyc + r.lat, mask := r.mask,
                      val := r.val, latch := if r.bst = .none then r.latch else none }
  let q := { x.seq with nextId := id + 1 }
  match Boost.lvl r.bst with
  | some l => { x with seq := { q with boost := q.boost ++ [({ lvl := l, fl := f, flags := r.flags, fault := r.held } : BoostEnt)] } }
  | none =>
    let fl : List Flight := if r.flags = 0 then [] else
      [{ id := id, slot := r.slot, dst := .flags, due := x.ck.scyc + 1, mask := BitVec.allOnes 128, val := r.flags.setWidth 4096 }]
    { x with seq := { q with flights := q.flights ++ f :: fl } }
/-- A result of the present unit. -/
def State.emit (s : State) (r : Result) : State := s.modMe fun x => x.emit r
/-- A post-modified address register: one schedule cycle later, never a latch result (R89, R214). -/
def UnitSt.postMod (x : UnitSt) (slot : Fin 12) (b : Boost) (n : Fin 32) : UnitSt :=
  match (x.rdA b n).post with
  | some v => x.emit { slot := slot, dst := .a n, lat := 1, val := v.setWidth 4096 }
  | none => x
/-- A vector latch with the active lanes of a result. -/
def Latches.put (l : Latches) (n : Latch) (m : Mask) (v : VecVal) : Latches :=
  match n with
  | .ls0 => { l with ls0 := v.setWidth 64 }
  | .ls1 => { l with ls1 := v.setWidth 64 }
  | .la0 => { l with la0 := v.setWidth 32 }
  | .la1 => { l with la1 := v.setWidth 32 }
  | .lv0 => { l with lv0 := if m = BitVec.allOnes 128 then v else mergeLanes m v l.lv0 }
  | .lv1 => { l with lv1 := if m = BitVec.allOnes 128 then v else mergeLanes m v l.lv1 }
  | .lvm => { l with lvm := if m = BitVec.allOnes 128 then v else mergeLanes m v l.lvm }
  | .lac => { l with lac := if m = BitVec.allOnes 128 then v else mergeLanes m v l.lac }
/-- The register write of a landing result. -/
def Regs.landOne (r : Regs) (f : Flight) : Regs :=
  match f.dst with
  | .s n => r.ws n (f.val.setWidth 64)
  | .a n => { r with a := r.a.set n { r.a[n] with val := f.val.setWidth 32 } }
  | .am n md => { r with a := r.a.set n ((r.a[n]).setMode md) }
  | .v n => r.wv n f.mask f.val
  | .p n => r.wp n f.mask (f.val.setWidth 128)
  | .cb n => { r with cb := r.cb.set n (f.val.setWidth 64) }
  | .cq n => { r with cq := r.cq.set n (f.val.setWidth 64) }
  | _ => r
/-- RCTL.SRCEN with bits set or cleared by TRCON or TRCOFF; another owner's context changes nothing (R339). -/
def Observe.trc (o : Observe) (own : Option (BitVec 12)) (on : Bool) (m : Word) : Observe :=
  if own == some (fld o.rctl 32 12) then
    { o with rctl := if on then o.rctl ||| (m &&& 0xFFFF#64) else o.rctl &&& ~~~(m &&& 0xFFFF#64) }
  else o
/-- A landing result on a unit. -/
def State.land (s : State) (u : UnitId) (f : Flight) : State :=
  let s := match f.dst with
    | .csr n => s.csrWrite u n.toNat (f.val.setWidth 64)
    | .flags => s.modUnit u fun x => { x with fp := { x.fp with vctl := x.fp.vctl ||| ((f.val.setWidth 32 &&& 0x1F#32) <<< 11) } }
    | .trc on => s.modUnit u fun x => { x with obs := x.obs.trc (s.ownerOf u) on (f.val.setWidth 64) }
    | _ => s.modUnit u fun x => { x with regs := x.regs.landOne f }
  match f.latch with
  | some l => if f.mask = 0 then s else s.modUnit u fun x => { x with lat := x.lat.put l f.mask f.val }
  | none => s
/-- The order of landing in one schedule cycle: CSRW first (R68), then issue order with the higher slot last (R186). -/
def Flight.rank (f : Flight) : Nat := match f.dst with | .csr _ => 0 | _ => f.id + 1
/-- A result put in its place. -/
def insFlight (f : Flight) : List Flight → List Flight
  | [] => [f]
  | g :: t => if f.rank < g.rank then f :: g :: t else g :: insFlight f t
/-- Results in the order in which they land. -/
def landOrder (l : List Flight) : List Flight := l.foldl (fun t f => insFlight f t) []
/-- The results due at the schedule cycle `sc` land. -/
def State.landAll (s : State) (u : UnitId) (sc : Nat) : State :=
  let q := (s.unit u).seq
  let due := q.flights.filter fun f => f.due ≤ sc
  if due.isEmpty then s
  else
    (landOrder due).foldl (fun s f => s.land u f)
      (s.modUnit u fun x => { x with seq := { x.seq with flights := x.seq.flights.filter fun f => sc < f.due } })

/-! ### COMMIT and SQUASH (R199) -/
/-- The oldest level-1 operation that holds a fault. -/
def UnitSt.heldFault (x : UnitSt) : Option (BoostEnt × BitVec 8 × Word) :=
  (x.seq.boost.find? fun e => !e.lvl && e.fault.isSome).bind fun e => e.fault.map fun f => (e, f)
/-- The flights that a committed entry becomes: landed, it is readable from the next schedule cycle. -/
def BoostEnt.commit (e : BoostEnt) (sc : Nat) : List Flight :=
  let due := max e.fl.due (sc + 1)
  { e.fl with due := due, latch := none } ::
    (if e.flags = 0 then [] else [{ e.fl with dst := .flags, due := due, latch := none, mask := BitVec.allOnes 128, val := e.flags.setWidth 4096 }])
/-- COMMIT of the buffers of `old`, the state before the instance. -/
def UnitSt.commit (x old : UnitSt) : UnitSt :=
  let mine := fun (e : BoostEnt) => old.seq.boost.any fun o => o.fl.id == e.fl.id
  { x with seq := { x.seq with
      flights := x.seq.flights ++ (old.seq.boost.filter fun e => !e.lvl).flatMap fun e => e.commit x.ck.scyc,
      boost := (x.seq.boost.filter fun e => !(mine e && !e.lvl)).map fun e => if mine e then { e with lvl := false } else e } }
/-- SQUASH. -/
def UnitSt.squash (x old : UnitSt) : UnitSt :=
  { x with seq := { x.seq with boost := x.seq.boost.filter fun e => !(old.seq.boost.any fun o => o.fl.id == e.fl.id) } }

/-! ### Accesses of later clocks -/
/-- The data of a read put into its flight, whose value is 0 until its reads return; a read of both faces returns in two
clocks (R233). -/
def fillFlights (l : List Flight) (id : Nat) (v : VecVal) : List Flight :=
  l.map fun f => if f.id = id ∧ f.dst ≠ .flags then { f with val := f.val ||| v } else f
/-- The flight `id` takes the data that its read returns. -/
def UnitSt.fill (x : UnitSt) (id : Nat) (v : VecVal) : UnitSt :=
  { x with
    seq := { x.seq with flights := fillFlights x.seq.flights id v,
                        boost := x.seq.boost.map fun e => if e.fl.id = id then { e with fl := { e.fl with val := e.fl.val ||| v } } else e },
    trap := { x.trap with hold := x.trap.hold.map fun h =>
      { h with flights := fillFlights h.flights id v,
               boost := h.boost.map fun e => if e.fl.id = id then { e with fl := { e.fl with val := e.fl.val ||| v } } else e } } }
/-- A loaded element extended to 32 bits (R233). -/
def extLoad (width : Nat) (signed : Bool) (v : Nat) : Nat :=
  if signed then wrapNat 32 (signedOf (8 * width) v) else v
/-- The lanes that a VM read returns. -/
def loadLanes (rd : Nat → Nat → Nat) (lanes : List (Nat × Nat)) (width : Nat) (signed : Bool) : VecVal :=
  ofLanes fun i =>
    match lanes.find? fun l => l.1 = i with
    | some l => extLoad width signed (rd l.2 width)
    | none => 0
/-! ### Reads in schedule order (R130, R188)
The pipelines of scratch accesses run on in a wait stall, so that a copy which the stall awaits finds the stores landed (R132); what
a read sees is nevertheless settled by schedule cycles alone (R42): a store whose write cycle is not before the read's cycle is undone
for it. -/
/-- A read of a later clock. -/
def SOp.reads : SOp → Bool
  | .load _ _ _ _ | .probe _ _ | .post _ _ _ => true
  | _ => false
/-- A read may still come that is not to see a store of schedule cycle `sc`. -/
def UnitSt.wanted (x : UnitSt) (sc : Nat) : Bool := decide (x.ck.scyc + 2 ≤ sc) || x.seq.accs.any fun r => r.op.reads && decide (r.sc ≤ sc)
/-- What stores have replaced is forgotten once no read can want it. -/
def UnitSt.forget (x : UnitSt) : UnitSt :=
  if x.seq.undo.isEmpty then x
  else { x with seq := { x.seq with undo := x.seq.undo.filter fun u => if u.row.isSome then decide (x.ck.scyc ≤ u.sc) else x.wanted u.sc } }
/-- The granules that a read of schedule cycle `sc` is to see otherwise than they stand: the first of a granule counts. -/
def Sequencer.older (q : Sequencer) (sc : Nat) : List (Nat × Gran) := (q.undo.filter fun u => decide (sc ≤ u.sc)).flatMap Undo.grans
/-- The stores as a read of schedule cycle `sc` sees them. -/
def UnitSt.seenAt (x : UnitSt) (sc : Nat) : Stores := (x.seq.older sc).foldr (fun g st => modGran st g.1 fun _ => g.2) x.st
/-- A change that is no store of a program made to what is kept as well. -/
def UnitSt.alsoKept (x : UnitSt) (f : Stores → Stores) : UnitSt :=
  if x.seq.undo.isEmpty then x else { x with seq := { x.seq with undo := x.seq.undo.map fun u => { u with grans := mapGrans f u.grans } } }
/-- A store or a copy write made to what copies go on seeing of granules that a TDRAIN has written (R132). -/
def Cube.alsoHidden (c : Cube) (f : Stores → Stores) : Cube :=
  { c with hidden := c.hidden.map fun h => (h.1, h.2.1, smGet {} (f { face := [h.2] }).face h.2.1) }
/-- Granule g of a unit's scratch as it stands. -/
def State.granNow (s : State) (u : UnitId) (g : Nat) : Gran :=
  if isBrim u then { data := BitVec.ofNat 128 (s.dev.rdNat (brimPa (16 * g)) 16) } else smGet ({} : Gran) (s.unit u).st.face g
/-- What a store of schedule cycle `sc` is about to replace is kept. -/
def State.keepGrans (s : State) (u : UnitId) (sc : Nat) (gs : List Nat) : State :=
  if (s.unit u).wanted sc then
    let k := gs.map fun g => (g, s.granNow u g)
    s.modUnit u fun x => { x with seq := { x.seq with undo := x.seq.undo ++ [{ sc := sc, grans := k }] } }
  else s
/-- Bytes as a read of schedule cycle `sc` sees them. -/
def State.rdSeen (s : State) (u : UnitId) (sc a n : Nat) : Nat :=
  if isBrim u then
    match ((s.unit u).seq.older sc).find? fun g => g.1 = a / 16 with
    | some g => bitsOf g.2.data.toNat (8 * (a % 16)) (8 * n)
    | none => s.dev.rdNat (brimPa a) n
  else scrNat ((s.unit u).seenAt sc) a n
/-- The reads still to come of an operation whose poison has been reported. -/
def UnitSt.tell (x : UnitSt) (id : Nat) : UnitSt :=
  { x with seq := { x.seq with accs := x.seq.accs.map fun a => match a.op with
      | .load i _ _ _ => if i = id then { a with told := true } else a
      | _ => a } }
/-- An access performed on a unit (Table 7.11): a read fills its flight and consumes poison (R400); a store writes. -/
def State.perform (s : State) (u : UnitId) (a : SAcc) : State :=
  let x := s.unit u
  match a.op with
  | .load id lanes width signed =>
    let t := s.modUnit u fun x => x.fill id (loadLanes (s.rdSeen u a.sc) lanes width signed)
    if isBrim u then t
    else
      let as := lanes.flatMap fun l => (List.range width).map (l.2 + ·)
      let t := t.consumeVm u (x.seenAt a.sc) a.lvl as a.told
      if (poisonedGrans (x.seenAt a.sc) as).isEmpty then t else t.modUnit u fun x => x.tell id
  | .probe id lanes =>
    let st := x.seenAt a.sc
    (s.modUnit u fun x => x.fill id ((maskOf fun i => match lanes.find? fun l => l.1 = i with
      | some l => (granAt st l.2).full
      | none => false).setWidth 4096)).consumeVm u st a.lvl (lanes.map Prod.snd) false
  | .store bytes fe gs =>
    let s := s.keepGrans u a.sc (gransOf (bytes.map Prod.fst ++ gs.map (16 * ·)))
    if isBrim u then s.scrWrite u bytes
    else s.modUnit u fun x =>
      let f := fun (st : Stores) => let st := scrStore st bytes none; match fe with | some b => setFull st gs b | none => st
      { x with st := f x.st, cube := x.cube.alsoHidden f }
  | .cube bytes drain =>
    s.modUnit u fun x =>
      let old := match drain with
        | none => []
        | some id => (gransOf (bytes.map Prod.fst)).filterMap fun g =>
            if x.cube.hidden.any fun h => h.2.1 = g then none else some (id, g, smGet ({} : Gran) x.st.face g)
      { x with st := scrStore x.st bytes (some true), cube := { x.cube with hidden := x.cube.hidden ++ old } }
  | .accWr row mask val =>
    s.modUnit u fun x =>
      if x.cube.fresh.any fun r => r.1 = row then x
      else { x with
        seq := if x.ck.scyc ≤ a.sc then { x.seq with undo := x.seq.undo ++ [{ sc := a.sc, row := some (row, mask, accRow x.st row) }] } else x.seq,
        st := { setAccRow x.st row (mergeLanes mask val (accRow x.st row)) with
        accPoison := x.st.accPoison.filter fun w => !(w / 128 = row && mask.getLsbD (w % 128)) } }
  | .scale side bank val =>
    s.modUnit u fun x => { x with cube := { x.cube with
      scales := x.cube.scales.set (Fin.ofNat 4 ((if side then 2 else 0) + (if bank then 1 else 0))) val } }
  | .post pool id addr =>
    s.modUnit u fun x => { x with es := { x.es with sy := x.es.sy.map fun o =>
      match o with
      | .tpost i p e ad _ sc lv =>
        if i = id ∧ p = pool then
          .tpost i p e ad (Vector.ofFn fun k : Fin 8 => BitVec.ofNat 64 (s.rdSeen u a.sc (addr + 8 * k.val) 8)) sc lv
        else o
      | o => o } }
/-- The order of the accesses of one clock: reads, then VM stores, then cube writes (R99, R130). -/
def SOp.rank : SOp → Nat
  | .load _ _ _ _ | .probe _ _ | .post _ _ _ => 0
  | .store _ _ _ | .accWr _ _ _ | .scale _ _ _ => 1
  | .cube _ _ => 2
/-- The accesses that fall in the present run clock are performed, reads first. A FEPROB read in the clock in which a VLD.FE.C
clears its granule sees the cleared bit: the model's choice (log 60). -/
def State.performAll (s : State) (u : UnitId) : State :=
  let s := s.modUnit u UnitSt.forget
  let x := s.unit u
  let due := x.seq.accs.filter fun a => a.at_ ≤ x.ck.run
  if due.isEmpty then s
  else
    let s := s.modUnit u fun x => { x with seq := { x.seq with accs := x.seq.accs.filter fun a => x.ck.run < a.at_ } }
    ([0, 1, 2].flatMap fun r => due.filter fun a => a.op.rank = r).foldl (fun s a => s.perform u a) s
/-- An access queued for `n` run clocks, which are also `n` schedule cycles, after the present one (log 69). -/
def UnitSt.later (x : UnitSt) (n : Nat) (op : SOp) : UnitSt :=
  { x with seq := { x.seq with accs := x.seq.accs ++ [({ at_ := x.ck.run + n, sc := x.ck.scyc + n, lvl := x.trap.tl, op := op } : SAcc)] } }
/-- The byte lies in the south face: one clock later than the west face and the weight buffer. -/
def southOf (a : Nat) : Nat := if regionOf a = .south then 1 else 0
/-- Lanes of an access split by the clock in which they fall. -/
def splitLanes (brimU : Bool) (l : List (Nat × Nat)) : List (Nat × Nat) × List (Nat × Nat) :=
  l.partition fun x => brimU || southOf x.2 = 0

end Sys2Proof.Machine
end

