-- ==== Sys2Proof/Machine/Control.lean ====
section
/-! DEFINITION. The BR slot (R192–R203): branches, calls, loops, boost resolution, exit, traps and WAITN. A transfer
that instance 0 decides is held as the pending BR action and applied after the last instance (R169, R193). -/
namespace Sys2Proof.Machine

/-- The address of the bundle that follows the one at PC, trailer included (R161, R193). -/
def State.seqAddr (s : State) : BitVec 56 :=
  s.me.seq.pc + BitVec.ofNat 56 ((s.lenAt s.cur s.me.seq.pc.toNat).getD 16)
/-- The length of the present bundle. -/
def State.bundleLen (s : State) : Nat := (s.lenAt s.cur s.me.seq.pc.toNat).getD 16
/-- An operation of the BR slot. -/
def brOp (s : State) (i : Instr) (g : Guard) (sr : List (Fin 64)) (faults : List (Bool × BitVec 8 × Word)) (eff : State → State) : Op :=
  { slot := 0, word := wordOf i, cls := some 1, sr := sr, nul := !s.me.guardOn .none g, fault := firstFault faults, eff := eff }
/-- The BR action that the last instance applies. -/
def State.setBr (s : State) (a : BrAct) : State := s.modMe fun x => { x with seq := { x.seq with br := some a } }
/-- A transfer to a target, with its trace record (source 0). -/
def State.goto (s : State) (t : BitVec 56) : State :=
  (s.setBr (.goto t)).trace s.cur 0 true s.me.seq.pc.toNat (t.setWidth 64) 0
/-- PC + OFF × 8 modulo 2^56. -/
def State.target {n : Nat} (s : State) (off : BitVec n) : BitVec 56 := s.me.seq.pc + off.signExtend 56 * 8
/-- B.T and B.F: taken when every lane is `want` (R193). -/
def brCond (want : Bool) (i : Instr) (a : BrCond) (s : State) : Op :=
  let p := s.me.rdP .none a.bp
  let all := if want then p = BitVec.allOnes 128 else p = 0
  brOp s i a.g [] [(p != 0 && p != BitVec.allOnes 128, cNONUNIFORM_BRANCH, BitVec.ofNat 64 (popN 128 p.toNat))]
    fun t => if all then t.goto (s.target a.off) else t
/-- B.T. -/
def opBT (a : BrCond) (s : State) : Op := brCond true (.bT a) a s
/-- B.F. -/
def opBF (a : BrCond) (s : State) : Op := brCond false (.bF a) a s
/-- J. -/
def opJ (a : BrJump) (s : State) : Op := brOp s (.j a) a.g [] [] fun t => t.goto (s.target a.off)
/-- JX and RET (R193). -/
def brReg (i : Instr) (a : BrReg) (s : State) : Op :=
  let t := s.me.rdS .none (r6 a.sa)
  brOp s i a.g [r6 a.sa] [(fld t 0 3 != 0 || fld t 56 8 != 0, cBAD_TARGET, t)] fun u => u.goto (t.setWidth 56)
/-- JX. -/
def opJx (a : BrReg) (s : State) : Op := brReg (.jx a) a s
/-- RET. -/
def opRet (a : BrReg) (s : State) : Op := brReg (.ret a) a s
/-- CALL: the link has latency 1 and changes no latch. -/
def opCall (a : BrCall) (s : State) : Op :=
  brOp s (.call a) a.g [] [] fun t =>
    (t.emit { slot := 0, dst := .s (r6 a.dst), lat := 1, val := (s.seqAddr).setWidth 4096 }).goto (s.target a.off)
/-- LOOP and LOOPP (R194, R195, R198). -/
def brLoop (i : Instr) (g : Guard) (sa : BitVec 6) (imm : Nat) (endoff : BitVec 14) (pipe : Bool) (epi : BitVec 3) (rb : BitVec 5)
    (s : State) : Op :=
  let x := s.me
  let t := ((x.rdS .none (r6 sa)).toNat + imm) % 2 ^ 32
  let off := endoff.toNat * 8
  let inEnd := match x.seq.loops.getLast? with | some e => e.endA == x.seq.pc | none => false
  brOp s i g [r6 sa]
    [(t != 0 && decide (6 ≤ x.seq.loops.length), cLOOP_OVERFLOW, BitVec.ofNat 64 t),
     (inEnd || decide (off < s.bundleLen), cLOOP_STATE, wordOf i)]
    fun u => u.setBr (.push pipe (BitVec.ofNat 32 t) epi rb (x.seq.pc + BitVec.ofNat 56 off))
/-- LOOP. -/
def opLoop (a : BrLoop) (s : State) : Op := brLoop (.loop a) a.g a.sa a.imm.toNat a.endoff false 0 0 s
/-- LOOPP. -/
def opLoopp (a : BrLoopP) (s : State) : Op := brLoop (.loopp a) a.g a.sa a.imm.toNat a.endoff true a.epi a.rb s
/-- LEXIT (R198). -/
def opLexit (a : GuardOnly) (s : State) : Op :=
  brOp s (.lexit a) a.g [] [(s.me.seq.loops.isEmpty, cLOOP_STATE, wordOf (.lexit a))] fun t => t.setBr .lexit
/-- COMMIT (R199): the oldest held fault of level 1, else the entries of both levels move one level down. -/
def opCommit (a : GuardOnly) (s : State) : Op :=
  let h := s.me.heldFault
  { brOp s (.commit a) a.g [] [] fun t => t.modMe fun x => x.commit s.me with
    fault := h.map fun f => f.2, bstFault := h.map fun f => f.1.fl.slot }
/-- SQUASH (R199). -/
def opSquash (a : GuardOnly) (s : State) : Op := brOp s (.squash a) a.g [] [] fun t => t.modMe fun x => x.squash s.me
/-- EXIT (R201). -/
def opExit (a : GuardOnly) (s : State) : Op :=
  brOp s (.exit a) a.g [] [(s.me.trap.tl != 0, cTRAP_STATE, wordOf (.exit a))] fun t => t.setBr .exit
/-- TRAPI (R202). -/
def opTrapi (a : BrTrap) (s : State) : Op := brOp s (.trapi a) a.g [] [] fun t => t.setBr (.trapi a.code)
/-- Entries of a boost level, as BOOST_STATE reports them (Table 18.7). -/
def UnitSt.boostTval (x : UnitSt) : Word := BitVec.ofNat 64 (x.boostCount false % 16 + x.boostCount true % 16 * 16)
/-- TRET (R202, R376). -/
def opTret (a : GuardOnly) (s : State) : Op :=
  let x := s.me
  let i : Fin 2 := Fin.ofNat 2 (x.trap.tl.toNat - 1)
  let w := wordOf (.tret a)
  brOp s (.tret a) a.g []
    [(x.trap.tl = 0 || (fld (x.trap.cause[i]) 18 3).toNat != x.seq.loops.length, cTRAP_STATE, w),
     (!x.seq.boost.isEmpty, cBOOST_STATE, x.boostTval),
     (fld (x.trap.epc[i]) 0 3 != 0, cBAD_TARGET, (x.trap.epc[i]).setWidth 64)]
    fun t => t.setBr .tret
/-- Entries that WAITN counts: commands and markers of the queues of a mask (R203, R288). -/
def UnitSt.queued (x : UnitSt) (m : BitVec 12) : Nat :=
  (List.range 12).foldl (fun t e => if m.getLsbD e then t + (x.es.eng[Fin.ofNat 12 e]).q.length else t) 0
/-- WAITN (R203): a counter wait; QMASK = 0 and N of 32 or more hold at once. -/
def opWaitn (a : BrWait) (s : State) : Op :=
  { brOp s (.waitn a) a.g [] [] id with wait := if a.n.toNat < 32 && a.n.toNat < s.me.queued a.qmask then some (3, 0) else none }

/-! ### Meanings -/
def execBT (a : BrCond) (s : State) : Host.Outcome State Fault Refusal := runOp (opBT a s) s
def execBF (a : BrCond) (s : State) : Host.Outcome State Fault Refusal := runOp (opBF a s) s
def execJ (a : BrJump) (s : State) : Host.Outcome State Fault Refusal := runOp (opJ a s) s
def execJx (a : BrReg) (s : State) : Host.Outcome State Fault Refusal := runOp (opJx a s) s
def execCall (a : BrCall) (s : State) : Host.Outcome State Fault Refusal := runOp (opCall a s) s
def execRet (a : BrReg) (s : State) : Host.Outcome State Fault Refusal := runOp (opRet a s) s
def execLoop (a : BrLoop) (s : State) : Host.Outcome State Fault Refusal := runOp (opLoop a s) s
def execLoopp (a : BrLoopP) (s : State) : Host.Outcome State Fault Refusal := runOp (opLoopp a s) s
def execLexit (a : GuardOnly) (s : State) : Host.Outcome State Fault Refusal := runOp (opLexit a s) s
def execCommit (a : GuardOnly) (s : State) : Host.Outcome State Fault Refusal := runOp (opCommit a s) s
def execSquash (a : GuardOnly) (s : State) : Host.Outcome State Fault Refusal := runOp (opSquash a s) s
def execExit (a : GuardOnly) (s : State) : Host.Outcome State Fault Refusal := runOp (opExit a s) s
def execTrapi (a : BrTrap) (s : State) : Host.Outcome State Fault Refusal := runOp (opTrapi a s) s
def execTret (a : GuardOnly) (s : State) : Host.Outcome State Fault Refusal := runOp (opTret a s) s
def execWaitn (a : BrWait) (s : State) : Host.Outcome State Fault Refusal := runOp (opWaitn a s) s

end Sys2Proof.Machine
end

