-- ==== Sys2Proof/Machine/Scalar.lean ====
section
/-! DEFINITION. The integer, predicate, staging and system-register forms of the S slots (R205–R210, R212, R213,
Tables 8.6–8.9), with the latencies of Table 7.10. -/
namespace Sys2Proof.Machine

/-- The slot index of an S operation. -/
def sSlot (slot1 : Bool) : Fin 12 := if slot1 then 2 else 1
/-- The latch of an S slot. -/
def sLatch (slot1 : Bool) : Latch := if slot1 then .ls1 else .ls0
/-- A predicate destination changes no latch: it is no 64-bit result. -/
def latchOf (l : Latch) : FDest → Option Latch
  | .p _ => none
  | _ => some l
/-- An S operation: sources, destination, latency, result, flags, its own causes (held when boosted). -/
def sOp (s : State) (i : Instr) (h : SHd) (dst : FDest) (lat : Nat) (srcs : List SSrc) (val : Nat) (flags : FFlags := 0)
    (own : List (Bool × BitVec 8 × Word) := []) : Op :=
  let f := firstFault own
  { slot := sSlot h.slot1, word := wordOf i, lvl := Boost.lvl h.bst, cls := some 1, sr := portS srcs,
    nul := !s.me.guardOn h.bst h.g, fault := if h.bst = .none then f else none,
    eff := fun t => t.emit { slot := sSlot h.slot1, bst := h.bst, nw := h.nw, dst := dst, lat := lat, val := BitVec.ofNat 4096 val,
                             latch := latchOf (sLatch h.slot1) dst, flags := flags, held := if h.bst = .none then none else f } }
/-- A scalar destination. -/
def sd (n : BitVec 6) : FDest := .s (r6 n)
/-- A width code in bits (Table 8.7). -/
def wBits : IWidth → Nat
  | .w64 => 64 | .w32 => 32 | .w16 => 16 | .w8 => 8
/-- A w-bit result extended to 64 bits: by zeros when U = 1, by sign otherwise (R205). -/
def extW (w : Nat) (u : Bool) (n : Nat) : Nat := if u then n % 2 ^ w else wrapNat 64 (signedOf w n)
/-- ADD, SUB, MUL: the exact result reduced, or saturated, and extended. -/
def sArith (s : State) (i : Instr) (a : SArith) (lat : Nat) (f : Int → Int → Int) : Op :=
  let w := wBits a.w
  let x := readInt w a.u (s.me.srcS a.h.bst a.a).toNat
  let y := readInt w a.u (s.me.srcS a.h.bst a.b).toNat
  sOp s i a.h (sd a.dst) lat [a.a, a.b] (extW w a.u (intRes w a.u a.sat (f x y)))
/-- Bitwise forms and shifts: `f w a b` on the raw operands. -/
def sLogic (s : State) (i : Instr) (a : SLogic) (f : Nat → Nat → Nat → Nat) : Op :=
  let w := wBits a.w
  sOp s i a.h (sd a.dst) 1 [a.a, a.b]
    (extW w a.u (f w (s.me.srcS a.h.bst a.a).toNat (s.me.srcS a.h.bst a.b).toNat % 2 ^ w))
/-- Forms with an N twin: the mnemonic gives the signedness. -/
def sTwin (s : State) (i : Instr) (a : STwin) (u : Bool) (lat : Nat) (f : Nat → Int → Int → Int) (div : Bool := false) : Op :=
  let w := wBits a.w
  let x := readInt w u (s.me.srcS a.h.bst a.a).toNat
  let y := readInt w u (s.me.srcS a.h.bst a.b).toNat
  sOp s i a.h (sd a.dst) lat [a.a, a.b] (extW w u (wrapNat w (f w x y))) 0
    [(div && y == 0, cDIV_ZERO, BitVec.ofNat 64 (extW w u (wrapNat w x)))]
/-- CLZ, CTZ, POPC, BREV. -/
def sUn (s : State) (i : Instr) (a : SUn) (f : Nat → Nat → Nat) : Op :=
  let w := wBits a.w
  sOp s i a.h (sd a.dst) 1 [a.a] (extW w a.u (f w ((s.me.srcS a.h.bst a.a).toNat % 2 ^ w)))
/-- The immediate of an immediate form: sign-extended, or extended by XIMM (R176). -/
def immOf (imm : BitVec 20) (x : Option (BitVec 44)) : Word :=
  match x with
  | some p => BitVec.ofNat 64 (p.toNat * 2 ^ 20 + imm.toNat)
  | none => imm.signExtend 64
/-- ADDI, ANDI, ORI, XORI. -/
def sImm (s : State) (i : Instr) (a : SImm) (x : Option (BitVec 44)) (f : Word → Word → Word) : Op :=
  sOp s i a.h (sd a.dst) 1 [a.a] (f (s.me.srcS a.h.bst a.a) (immOf a.imm x)).toNat
/-- SHLI, SHRI, SARI. -/
def sShI (s : State) (i : Instr) (a : SShI) (f : Nat → Nat → Nat → Nat) : Op :=
  sOp s i a.h (sd a.dst) 1 [a.a] (f 64 (s.me.srcS a.h.bst a.a).toNat a.d.toNat)

def opAdd (a : SArith) (s : State) : Op := sArith s (.add a) a 1 (· + ·)
def opSub (a : SArith) (s : State) : Op := sArith s (.sub a) a 1 (· - ·)
def opMul (a : SArith) (s : State) : Op := sArith s (.mul a) a 3 (· * ·)
/-- Floor(a × b / 2^w). -/
def mulHigh (w : Nat) (x y : Int) : Int := x * y / (2 ^ w : Nat)
def opMulh (a : STwin) (s : State) : Op := sTwin s (.mulh a) a false 3 mulHigh
def opMulhn (a : STwin) (s : State) : Op := sTwin s (.mulhn a) a true 3 mulHigh
def opDiv (a : STwin) (s : State) : Op := sTwin s (.div a) a false 18 (fun _ x y => x.tdiv y) true
def opDivn (a : STwin) (s : State) : Op := sTwin s (.divn a) a true 18 (fun _ x y => x.tdiv y) true
def opRem (a : STwin) (s : State) : Op := sTwin s (.rem a) a false 18 (fun _ x y => x - y * x.tdiv y) true
def opRemn (a : STwin) (s : State) : Op := sTwin s (.remn a) a true 18 (fun _ x y => x - y * x.tdiv y) true
def opAnd (a : SLogic) (s : State) : Op := sLogic s (.and a) a fun _ x y => x &&& y
def opOr (a : SLogic) (s : State) : Op := sLogic s (.or a) a fun _ x y => x ||| y
def opXor (a : SLogic) (s : State) : Op := sLogic s (.xor a) a fun _ x y => x ^^^ y
/-- a and not b, over w bits. -/
def opAndn (a : SLogic) (s : State) : Op := sLogic s (.andn a) a fun w x y => x &&& (2 ^ w - 1 - y % 2 ^ w)
/-- The shift count d = s[SB][5:0] (Table 8.6). -/
def opShl (a : SLogic) (s : State) : Op := sLogic s (.shl a) a fun w x y => shlN w x (y % 64)
def opShr (a : SLogic) (s : State) : Op := sLogic s (.shr a) a fun w x y => shrN w x (y % 64)
def opSar (a : SLogic) (s : State) : Op := sLogic s (.sar a) a fun w x y => sarN w x (y % 64)
def opRotl (a : SLogic) (s : State) : Op := sLogic s (.rotl a) a rotlN
def opMin (a : STwin) (s : State) : Op := sTwin s (.min a) a false 1 fun _ x y => min x y
def opMinn (a : STwin) (s : State) : Op := sTwin s (.minn a) a true 1 fun _ x y => min x y
def opMax (a : STwin) (s : State) : Op := sTwin s (.max a) a false 1 fun _ x y => max x y
def opMaxn (a : STwin) (s : State) : Op := sTwin s (.maxn a) a true 1 fun _ x y => max x y
def opClz (a : SUn) (s : State) : Op := sUn s (.clz a) a clzN
def opCtz (a : SUn) (s : State) : Op := sUn s (.ctz a) a ctzN
def opPopc (a : SUn) (s : State) : Op := sUn s (.popc a) a popN
def opBrev (a : SUn) (s : State) : Op := sUn s (.brev a) a brevN
def opAddi (a : SImm) (x : Option (BitVec 44)) (s : State) : Op := sImm s (.addi a) a x (· + ·)
def opAndi (a : SImm) (x : Option (BitVec 44)) (s : State) : Op := sImm s (.andi a) a x (· &&& ·)
def opOri (a : SImm) (x : Option (BitVec 44)) (s : State) : Op := sImm s (.ori a) a x (· ||| ·)
def opXori (a : SImm) (x : Option (BitVec 44)) (s : State) : Op := sImm s (.xori a) a x (· ^^^ ·)
def opMovi (a : SMovi) (x : Option (BitVec 44)) (s : State) : Op := sOp s (.movi a) a.h (sd a.dst) 1 [] (immOf a.imm x).toNat
def opShli (a : SShI) (s : State) : Op := sShI s (.shli a) a shlN
def opShri (a : SShI) (s : State) : Op := sShI s (.shri a) a shrN
def opSari (a : SShI) (s : State) : Op := sShI s (.sari a) a sarN
/-- BEXT (Table 8.8). -/
def opBext (a : SBext) (s : State) : Op :=
  sOp s (.bext a) a.h (sd a.dst) 1 [a.a] (bitsOf (s.me.srcS a.h.bst a.a).toNat a.pos.toNat (a.len1.toNat + 1))
/-- BINS (Table 8.8): bits beyond 63 are dropped. -/
def opBins (a : SBins) (s : State) : Op :=
  sOp s (.bins a) a.h (sd a.dst) 1 [a.a, a.b]
    (setBits (s.me.srcS a.h.bst a.b).toNat a.pos.toNat (a.len1.toNat + 1) (s.me.srcS a.h.bst a.a).toNat % 2 ^ 64)
/-- SEXT (Table 8.8). -/
def opSext (a : SExt) (s : State) : Op :=
  sOp s (.sext a) a.h (sd a.dst) 1 [a.a] (wrapNat 64 (signedOf (a.len1.toNat + 1) (s.me.srcS a.h.bst a.a).toNat))
/-- ZEXT (Table 8.8). -/
def opZext (a : SExt) (s : State) : Op :=
  sOp s (.zext a) a.h (sd a.dst) 1 [a.a] ((s.me.srcS a.h.bst a.a).toNat % 2 ^ (a.len1.toNat + 1))
/-- SEL (R210): bit 0 of p[k]. -/
def opSel (a : SSel) (s : State) : Op :=
  sOp s (.sel a) a.h (sd a.dst) 1 [a.a, a.b]
    (s.me.srcS a.h.bst (if (s.me.rdP a.h.bst a.k).getLsbD 0 then a.a else a.b)).toNat
/-- CMP: the relation in every lane (Table 8.9). -/
def opCmp (a : SCmp) (s : State) : Op :=
  sOp s (.cmp a) a.h (.p a.dst) 1 [a.a, a.b]
    (uniform (icond (wBits a.w) a.cond (s.me.srcS a.h.bst a.a).toNat (s.me.srcS a.h.bst a.b).toNat)).toNat
/-- PSET (Table 8.9). -/
def opPset (a : SPset) (s : State) : Op :=
  let l := (s.me.srcS a.h.bst a.a).toNat + a.lo.toNat
  let n := (s.me.srcS a.h.bst a.b).toNat + a.ni.toNat
  sOp s (.pset a) a.h (.p a.dst) 1 [a.a, a.b] (natOfBits 128 fun i => l ≤ i && decide (i < l + n))
/-- PLOG (Table 8.9). -/
def plog (op : PLogOp) (a b : Mask) : Mask :=
  match op with
  | .and => a &&& b | .or => a ||| b | .xor => a ^^^ b | .andn => a &&& ~~~b | .not => ~~~a | .mov => a
def opPlog (a : SPlog) (s : State) : Op :=
  sOp s (.plog a) a.h (.p a.dst) 1 [] (plog a.op (s.me.rdP a.h.bst a.a) (s.me.rdP a.h.bst a.b)).toNat
/-- MOVCB and MOVQ (R212): the staging register at issue + 1. -/
def sStage (s : State) (i : Instr) (slot1 : Bool) (g : Guard) (nw : Bool) (a : SSrc) (dst : FDest) : Op :=
  sOp s i { slot1 := slot1, g := g, bst := .none, nw := nw } dst 1 [a] (s.me.srcS .none a).toNat
def opMovcb (a : SMovCb) (s : State) : Op := sStage s (.movcb a) a.slot1 a.g a.nw a.a (.cb (Fin.ofNat 16 a.dst.toNat))
def opMovq (a : SMovQ) (s : State) : Op := sStage s (.movq a) a.slot1 a.g a.nw a.a (.cq (r5 a.dst))
/-- CSRR (R213): the register as it stands at issue; RC fields clear. -/
def opCsrr (a : SCsrr) (s : State) : Op :=
  let n := a.csr.toNat
  let bad := !csrExists (isBrim s.cur) n
  let o := sOp s (.csrr a) a.h (sd a.dst) 2 [] (s.csrRead s.cur n).toNat 0 [(bad, cBAD_CSR, BitVec.ofNat 64 n)]
  { o with eff := fun t => if bad then o.eff t else (o.eff t).csrClear s.cur n }
/-- CSRW (R213, R189, R298, R385): the write lands at issue + 1. -/
def opCsrw (a : SCsrw) (s : State) : Op :=
  let n := a.csr.toNat
  let v := s.me.srcS .none a.a
  let w := wordOf (.csrw a)
  { slot := sSlot a.slot1, word := w, cls := some 1, sr := portS [a.a], nul := !s.me.guardOn .none a.g,
    fault := firstFault
      [(n = 0 && !isBrim s.cur && decide (6 ≤ (fld v 0 3).toNat), cILLEGAL_OPERAND, w),
       (!csrExists (isBrim s.cur) n, cBAD_CSR, BitVec.ofNat 64 n),
       (csrPriv n && !(s.desc s.cur).priv, cPRIVILEGE, w)],
    eff := fun t => t.emit { slot := sSlot a.slot1, dst := .csr a.csr, lat := 1, val := v.setWidth 4096 } }

/-! ### Meanings -/
def execAdd (a : SArith) (s : State) : Host.Outcome State Fault Refusal := runOp (opAdd a s) s
def execSub (a : SArith) (s : State) : Host.Outcome State Fault Refusal := runOp (opSub a s) s
def execMul (a : SArith) (s : State) : Host.Outcome State Fault Refusal := runOp (opMul a s) s
def execMulh (a : STwin) (s : State) : Host.Outcome State Fault Refusal := runOp (opMulh a s) s
def execMulhn (a : STwin) (s : State) : Host.Outcome State Fault Refusal := runOp (opMulhn a s) s
def execDiv (a : STwin) (s : State) : Host.Outcome State Fault Refusal := runOp (opDiv a s) s
def execDivn (a : STwin) (s : State) : Host.Outcome State Fault Refusal := runOp (opDivn a s) s
def execRem (a : STwin) (s : State) : Host.Outcome State Fault Refusal := runOp (opRem a s) s
def execRemn (a : STwin) (s : State) : Host.Outcome State Fault Refusal := runOp (opRemn a s) s
def execAnd (a : SLogic) (s : State) : Host.Outcome State Fault Refusal := runOp (opAnd a s) s
def execAndi (a : SImm) (s : State) : Host.Outcome State Fault Refusal := runOp (opAndi a none s) s
def execOr (a : SLogic) (s : State) : Host.Outcome State Fault Refusal := runOp (opOr a s) s
def execOri (a : SImm) (s : State) : Host.Outcome State Fault Refusal := runOp (opOri a none s) s
def execXor (a : SLogic) (s : State) : Host.Outcome State Fault Refusal := runOp (opXor a s) s
def execXori (a : SImm) (s : State) : Host.Outcome State Fault Refusal := runOp (opXori a none s) s
def execAndn (a : SLogic) (s : State) : Host.Outcome State Fault Refusal := runOp (opAndn a s) s
def execAddi (a : SImm) (s : State) : Host.Outcome State Fault Refusal := runOp (opAddi a none s) s
def execShl (a : SLogic) (s : State) : Host.Outcome State Fault Refusal := runOp (opShl a s) s
def execShli (a : SShI) (s : State) : Host.Outcome State Fault Refusal := runOp (opShli a s) s
def execShr (a : SLogic) (s : State) : Host.Outcome State Fault Refusal := runOp (opShr a s) s
def execShri (a : SShI) (s : State) : Host.Outcome State Fault Refusal := runOp (opShri a s) s
def execSar (a : SLogic) (s : State) : Host.Outcome State Fault Refusal := runOp (opSar a s) s
def execSari (a : SShI) (s : State) : Host.Outcome State Fault Refusal := runOp (opSari a s) s
def execRotl (a : SLogic) (s : State) : Host.Outcome State Fault Refusal := runOp (opRotl a s) s
def execMin (a : STwin) (s : State) : Host.Outcome State Fault Refusal := runOp (opMin a s) s
def execMinn (a : STwin) (s : State) : Host.Outcome State Fault Refusal := runOp (opMinn a s) s
def execMax (a : STwin) (s : State) : Host.Outcome State Fault Refusal := runOp (opMax a s) s
def execMaxn (a : STwin) (s : State) : Host.Outcome State Fault Refusal := runOp (opMaxn a s) s
def execClz (a : SUn) (s : State) : Host.Outcome State Fault Refusal := runOp (opClz a s) s
def execCtz (a : SUn) (s : State) : Host.Outcome State Fault Refusal := runOp (opCtz a s) s
def execPopc (a : SUn) (s : State) : Host.Outcome State Fault Refusal := runOp (opPopc a s) s
def execBrev (a : SUn) (s : State) : Host.Outcome State Fault Refusal := runOp (opBrev a s) s
def execBext (a : SBext) (s : State) : Host.Outcome State Fault Refusal := runOp (opBext a s) s
def execBins (a : SBins) (s : State) : Host.Outcome State Fault Refusal := runOp (opBins a s) s
def execSext (a : SExt) (s : State) : Host.Outcome State Fault Refusal := runOp (opSext a s) s
def execZext (a : SExt) (s : State) : Host.Outcome State Fault Refusal := runOp (opZext a s) s
def execMovi (a : SMovi) (s : State) : Host.Outcome State Fault Refusal := runOp (opMovi a none s) s
def execSel (a : SSel) (s : State) : Host.Outcome State Fault Refusal := runOp (opSel a s) s
def execCmp (a : SCmp) (s : State) : Host.Outcome State Fault Refusal := runOp (opCmp a s) s
def execPset (a : SPset) (s : State) : Host.Outcome State Fault Refusal := runOp (opPset a s) s
def execPlog (a : SPlog) (s : State) : Host.Outcome State Fault Refusal := runOp (opPlog a s) s
def execMovcb (a : SMovCb) (s : State) : Host.Outcome State Fault Refusal := runOp (opMovcb a s) s
def execMovq (a : SMovQ) (s : State) : Host.Outcome State Fault Refusal := runOp (opMovq a s) s
def execCsrr (a : SCsrr) (s : State) : Host.Outcome State Fault Refusal := runOp (opCsrr a s) s
def execCsrw (a : SCsrw) (s : State) : Host.Outcome State Fault Refusal := runOp (opCsrw a s) s

end Sys2Proof.Machine
end

