-- ==== Sys2Proof/Machine/ScalarFp.lean ====
section
/-! DEFINITION. Scalar floating point (R211, Table 8.10): operands from the low bits of the registers, one rounding,
flags into VCTL; latencies of Table 7.10. -/
namespace Sys2Proof.Machine

/-- The illegal rounding mode: DYN with VCTL.DRM = SR (R62, R211). -/
def drmFault (s : State) (r : RMode) (w : Word) : Bool × BitVec 8 × Word := (s.me.drmBad r, cILLEGAL_OPERAND, w)
/-- The low bits of a source in a format. -/
def fsrc (s : State) (b : Boost) (f : Fmt) (a : SSrc) : Nat := (s.me.srcS b a).toNat % 2 ^ f.bits
/-- FADD, FSUB, FMUL, FDIV. -/
def sFp2 (s : State) (i : Instr) (a : SFp2) (lat : Nat) (f : Fmt → FpEnv → Nat → Nat → Nat × FFlags) : Op :=
  let r := f a.fmt (s.me.env a.rm) (fsrc s a.h.bst a.fmt a.a) (fsrc s a.h.bst a.fmt a.b)
  sOp s i a.h (sd a.dst) lat [a.a, a.b] r.1 r.2 [drmFault s a.rm (wordOf i)]
def opFadd (a : SFp2) (s : State) : Op := sFp2 s (.fadd a) a 4 fAdd
def opFsub (a : SFp2) (s : State) : Op := sFp2 s (.fsub a) a 4 fSub
def opFmul (a : SFp2) (s : State) : Op := sFp2 s (.fmul a) a 6 fMul
def opFdiv (a : SFp2) (s : State) : Op := sFp2 s (.fdiv a) a 18 fDiv
/-- FFMA. -/
def opFfma (a : SFp3) (s : State) : Op :=
  let r := fFma a.fmt (s.me.env a.rm) (fsrc s a.h.bst a.fmt a.a) (fsrc s a.h.bst a.fmt a.b) (fsrc s a.h.bst a.fmt a.c)
  sOp s (.ffma a) a.h (sd a.dst) 6 [a.a, a.b, a.c] r.1 r.2 [drmFault s a.rm (wordOf (.ffma a))]
/-- FSQRT. -/
def opFsqrt (a : SFp1) (s : State) : Op :=
  let r := fSqrt a.fmt (s.me.env a.rm) (fsrc s a.h.bst a.fmt a.a)
  sOp s (.fsqrt a) a.h (sd a.dst) 18 [a.a] r.1 r.2 [drmFault s a.rm (wordOf (.fsqrt a))]
/-- FMIN, FMAX (R61). -/
def sFmm (s : State) (i : Instr) (a : SFmm) (isMax : Bool) : Op :=
  let r := fMinMax a.fmt s.me.ftz isMax (fsrc s a.h.bst a.fmt a.a) (fsrc s a.h.bst a.fmt a.b)
  sOp s i a.h (sd a.dst) 4 [a.a, a.b] r.1 r.2
def opFmin (a : SFmm) (s : State) : Op := sFmm s (.fmin a) a false
def opFmax (a : SFmm) (s : State) : Op := sFmm s (.fmax a) a true
/-- FCMP: the relation in every lane. -/
def opFcmp (a : SFcmp) (s : State) : Op :=
  let r := fCompare a.fmt a.cond (fsrc s a.h.bst a.fmt a.a) (fsrc s a.h.bst a.fmt a.b)
  sOp s (.fcmp a) a.h (.p a.dst) 4 [a.a, a.b] (uniform r.1).toNat r.2
/-- FCVT: an integer result is extended by the sign of its format. -/
def opFcvt (a : SFcvt) (s : State) : Op :=
  let r := convert a.dfmt a.sfmt (s.me.rmOf a.rm) a.sat s.me.ftz 0 (fsrc s a.h.bst a.sfmt a.a)
  sOp s (.fcvt a) a.h (sd a.dst) 4 [a.a] (if a.dfmt.isSigned then extW a.dfmt.bits false r.1 else r.1) r.2
    [drmFault s a.rm (wordOf (.fcvt a))]
/-- FCLASS. -/
def opFclass (a : SFclass) (s : State) : Op := sOp s (.fclass a) a.h (sd a.dst) 2 [a.a] (fClass a.fmt (fsrc s a.h.bst a.fmt a.a))

/-! ### Meanings -/
def execFadd (a : SFp2) (s : State) : Host.Outcome State Fault Refusal := runOp (opFadd a s) s
def execFsub (a : SFp2) (s : State) : Host.Outcome State Fault Refusal := runOp (opFsub a s) s
def execFmul (a : SFp2) (s : State) : Host.Outcome State Fault Refusal := runOp (opFmul a s) s
def execFfma (a : SFp3) (s : State) : Host.Outcome State Fault Refusal := runOp (opFfma a s) s
def execFdiv (a : SFp2) (s : State) : Host.Outcome State Fault Refusal := runOp (opFdiv a s) s
def execFsqrt (a : SFp1) (s : State) : Host.Outcome State Fault Refusal := runOp (opFsqrt a s) s
def execFmin (a : SFmm) (s : State) : Host.Outcome State Fault Refusal := runOp (opFmin a s) s
def execFmax (a : SFmm) (s : State) : Host.Outcome State Fault Refusal := runOp (opFmax a s) s
def execFcmp (a : SFcmp) (s : State) : Host.Outcome State Fault Refusal := runOp (opFcmp a s) s
def execFcvt (a : SFcvt) (s : State) : Host.Outcome State Fault Refusal := runOp (opFcvt a s) s
def execFclass (a : SFclass) (s : State) : Host.Outcome State Fault Refusal := runOp (opFclass a s) s

end Sys2Proof.Machine
end

