-- ==== Sys2Proof/Machine/Address.lean ====
section
/-! DEFINITION. The A slots (R214–R217): address arithmetic, AMODE, LDS and STS, with post-modification and the
scratch cycles of Table 7.11. -/
namespace Sys2Proof.Machine

/-- The slot index of an A operation. -/
def aSlot (slot1 : Bool) : Fin 12 := if slot1 then 4 else 3
/-- The latch of an A slot. -/
def aLatch (slot1 : Bool) : Latch := if slot1 then .la1 else .la0
/-- An A operation that gives a value of latency 1. -/
def aOp (s : State) (i : Instr) (h : SHd) (dst : FDest) (val : BitVec 32) (latch : Bool)
    (own : List (Bool × BitVec 8 × Word) := []) : Op :=
  let f := firstFault own
  { slot := aSlot h.slot1, word := wordOf i, lvl := Boost.lvl h.bst, cls := some 1,
    nul := !s.me.guardOn h.bst h.g, fault := if h.bst = .none then f else none,
    eff := fun t => t.emit { slot := aSlot h.slot1, bst := h.bst, nw := h.nw, dst := dst, lat := 1, val := val.setWidth 4096,
                             latch := if latch then some (aLatch h.slot1) else none, held := if h.bst = .none then none else f } }
/-- The displacement: sign-extended, or extended by XADR (R177). -/
def dispOf (d : BitVec 16) (x : Option (BitVec 16)) : BitVec 32 :=
  match x with
  | some hi => hi ++ d
  | none => d.signExtend 32
def opAadd (a : AAdd) (s : State) : Op :=
  aOp s (.aadd a) a.h (.a (r5 a.dst)) (s.me.srcA a.h.bst a.a + s.me.srcA a.h.bst a.b) true
def opAaddi (a : AAddi) (x : Option (BitVec 16)) (s : State) : Op :=
  aOp s (.aaddi a) a.h (.a (r5 a.dst)) (s.me.srcA a.h.bst a.a + dispOf a.disp x) true
/-- AMOV: the value alone. -/
def opAmov (a : AMov) (s : State) : Op := aOp s (.amov a) a.h (.a (r5 a.dst)) (s.me.srcA a.h.bst a.a) true
/-- AGET: the effective address, no post-modification. -/
def opAget (a : AMov) (s : State) : Op := aOp s (.aget a) a.h (.a (r5 a.dst)) (s.me.eaA a.h.bst a.a) true
/-- The mode state that AMODE sets (R216), from the values before its issue. -/
def amodeOf (x : UnitSt) (b : Boost) (dst : BitVec 5) : AModeArg → AMd
  | .plain => {}
  | .incr inc => { mode := 1, inc := inc.signExtend 32 }
  | .modulo len inc => { mode := 2, inc := inc.signExtend 32, base := (x.rdA b (r5 dst)).val, len := x.srcA b len }
  | .bitrev base k esh => { mode := 3, base := x.srcA b base, k := k.setWidth 8, esh := esh.setWidth 8 }
/-- LEN non-zero and greater than |INC| (R216). -/
def amodeBad (x : UnitSt) (b : Boost) : AModeArg → Bool
  | .modulo len inc => (x.srcA b len).toNat ≤ inc.toInt.natAbs
  | _ => false
/-- AMODE changes no latch (R89). -/
def opAmode (a : AMode) (s : State) : Op :=
  aOp s (.amode a) a.h (.am (r5 a.dst) (amodeOf s.me a.h.bst a.dst a.arg)) 0 false
    [(amodeBad s.me a.h.bst a.arg, cILLEGAL_OPERAND, wordOf (.amode a))]
/-- Bytes of a scalar scratch access. -/
def szBytes : LsSize → Nat
  | .b1 => 1 | .b2 => 2 | .b4 => 4
/-- SCRATCH_RANGE of LDS and STS (R217): misaligned, or outside the reservation. -/
def lsBad (s : State) (x n : Nat) : Bool := x % n != 0 || !s.me.inRes (isBrim s.cur) x n
/-- The post-modification of a base that is a register. -/
def postBase (x : UnitSt) (slot : Fin 12) (b : Boost) (pm : Bool) : ASrc → UnitSt
  | .reg n => if pm then x.postMod slot b (r5 n) else x
  | .latch _ => x
/-- LDS: read at issue + 2 or + 3, landing at issue + 9 or + 11. -/
def opLds (a : ALds) (x : Option (BitVec 16)) (s : State) : Op :=
  let n := szBytes a.sz
  let ad := (s.me.eaA a.h.bst a.a + dispOf a.disp x).toNat
  let bad := lsBad s ad n
  let f : Option (BitVec 8 × Word) := if bad then some (cSCRATCH_RANGE, BitVec.ofNat 64 ad) else none
  let so := if isBrim s.cur then 0 else southOf ad
  { slot := aSlot a.h.slot1, word := wordOf (.lds a), lvl := Boost.lvl a.h.bst, cls := some 1,
    nul := !s.me.guardOn a.h.bst a.h.g, fault := if a.h.bst = .none then f else none,
    eff := fun t => t.modMe fun u =>
      let id := u.seq.nextId
      let u := u.emit { slot := aSlot a.h.slot1, bst := a.h.bst, nw := a.h.nw, dst := .a (r5 a.dst), lat := 9 + 2 * so,
                        latch := some (aLatch a.h.slot1), held := if a.h.bst = .none then none else f }
      let u := if bad then u else u.later (2 + so) (.load id [(0, ad)] n a.sgn)
      postBase u (aSlot a.h.slot1) a.h.bst a.pm a.a }
/-- STS: the data is read at issue, the write falls at issue + 3 or + 4; full/empty bits are kept. -/
def opSts (a : ASts) (x : Option (BitVec 16)) (s : State) : Op :=
  let n := szBytes a.sz
  let ad := (s.me.eaA .none a.a + dispOf a.disp x).toNat
  let so := if isBrim s.cur then 0 else southOf ad
  { slot := aSlot a.slot1, word := wordOf (.sts a), cls := some 1, nul := !s.me.guardOn .none a.g,
    fault := firstFault [(lsBad s ad n, cSCRATCH_RANGE, BitVec.ofNat 64 ad)],
    eff := fun t => t.modMe fun u =>
      postBase (u.later (3 + so) (.store (bytesAt ad (leBytes n (s.me.srcA .none a.b).toNat)) none [])) (aSlot a.slot1) .none a.pm a.a }

/-! ### Meanings -/
def execAadd (a : AAdd) (s : State) : Host.Outcome State Fault Refusal := runOp (opAadd a s) s
def execAaddi (a : AAddi) (s : State) : Host.Outcome State Fault Refusal := runOp (opAaddi a none s) s
def execAmov (a : AMov) (s : State) : Host.Outcome State Fault Refusal := runOp (opAmov a s) s
def execAget (a : AMov) (s : State) : Host.Outcome State Fault Refusal := runOp (opAget a s) s
def execAmode (a : AMode) (s : State) : Host.Outcome State Fault Refusal := runOp (opAmode a s) s
def execLds (a : ALds) (s : State) : Host.Outcome State Fault Refusal := runOp (opLds a none s) s
def execSts (a : ASts) (s : State) : Host.Outcome State Fault Refusal := runOp (opSts a none s) s
/-- XIMM in S1 (R176): it issues no operation of its own and reads and writes nothing. -/
def execXimm (_ : XimmArg) (s : State) : Host.Outcome State Fault Refusal := .next s
/-- XADR in A1 (R177): it issues no operation of its own and reads and writes nothing. -/
def execXadr (_ : XadrArg) (s : State) : Host.Outcome State Fault Refusal := .next s
/-- NOP in any slot (R190): nothing; in a sticky slot it releases the slot (R171). -/
def execNop (n : Fin 12) (s : State) : Host.Outcome State Fault Refusal :=
  let rel := fun (i : Fin 4) => s.modMe fun x => { x with seq := { x.seq with sticky := x.seq.sticky.set i { x.seq.sticky[i] with released := true } } }
  match n.val with
  | 5 => .next (rel 0)
  | 6 => .next (rel 1)
  | 7 => .next (rel 2)
  | 9 => .next (rel 3)
  | _ => .next s

end Sys2Proof.Machine
end

