-- ==== Sys2Proof/Machine/Vector.lean ====
section
/-! DEFINITION. V0 and V1 (R219–R230): elements and lanes, integer and floating lane arithmetic, compares, movement,
reductions, conversions, packing and the special functions, with the latencies of Table 7.10. -/
namespace Sys2Proof.Machine

/-- The slot index of a V operation. -/
def vSlot (slot1 : Bool) : Fin 12 := if slot1 then 6 else 5
/-- The latch of a V slot. -/
def vLatch (slot1 : Bool) : Latch := if slot1 then .lv1 else .lv0
/-- Element e of a register in w-bit elements (R219). -/
def elt (w : Nat) (v : VecVal) (e : Nat) : Nat := (v.extractLsb' (w * e) w).toNat
/-- The lane whose predicate bit governs element e (R219). -/
def eltLane (w e : Nat) : Nat := if w = 64 then 2 * e else e * w / 32
/-- A register from its w-bit elements, with the flags of the active ones. -/
def mapElts (w : Nat) (m : Mask) (f : Nat → Nat × FFlags) : VecVal × FFlags :=
  let r := (List.range (4096 / w)).foldr (fun e (acc : Nat × FFlags) =>
    let y := f e
    (y.1 % 2 ^ w + 2 ^ w * acc.1, if m.getLsbD (eltLane w e) then acc.2 ||| y.2 else acc.2)) (0, 0)
  (BitVec.ofNat 4096 r.1, r.2)
/-- A V operation: sources, destination, latency, class, lanes written, result and flags. Boosted or not, its fault is raised as it
issues (R237, log 63). -/
def vOp (s : State) (i : Instr) (h : VHd) (dst : FDest) (lat : Nat) (cls : Fin 16) (srcs : List VSrc) (mask : Mask)
    (r : VecVal × FFlags) (own : List (Bool × BitVec 8 × Word) := []) (noLatch : Bool := false) : Op :=
  { slot := vSlot h.slot1, word := wordOf i, lvl := Boost.lvl h.bst, cls := some cls, vr := s.me.portV srcs,
    fault := firstFault own,
    eff := fun t => t.emit { slot := vSlot h.slot1, bst := h.bst, nw := h.nw, dst := dst, lat := lat, mask := mask, val := r.1,
                             latch := if noLatch then none else latchOf (vLatch h.slot1) dst, flags := r.2 } }
/-- The lane predicate of an operation. -/
def vPred (s : State) (h : VHd) : Mask := s.me.rdP h.bst h.pred
/-- The destination register of a vector code. -/
def vd (s : State) (n : BitVec 6) : FDest := .v (s.me.phys n)
/-- A source of a V operation. -/
def vsrc (s : State) (h : VHd) (a : VSrc) : VecVal := s.me.srcV h.bst a

/-! ### Integer lane arithmetic (R222, Table 9.2) -/
/-- Two sources with .s allowed; rns16 works per channel (R78). -/
def vInt2S (s : State) (i : Instr) (a : VInt2S) (lat : Nat) (f : Int → Int → Int) (rns : Nat → Nat → Nat → Nat) : Op :=
  let w := a.fmt.bits
  let x := vsrc s a.h a.a
  let y := vsrc s a.h a.b
  let u := a.fmt.isUnsigned
  vOp s i a.h (vd s a.dst) lat 2 [a.a, a.b] (vPred s a.h)
    (mapElts w 0 fun e =>
      (if a.fmt = .rns16 then rnsOp rns (elt w x e) (elt w y e)
       else intRes w u a.sat (f (readInt w u (elt w x e)) (readInt w u (elt w y e))), 0))
def opVadd (a : VInt2S) (s : State) : Op := vInt2S s (.vadd a) a 3 (· + ·) fun _ x y => x + y
def opVsub (a : VInt2S) (s : State) : Op := vInt2S s (.vsub a) a 3 (· - ·) fun m x y => x + m - y
def opVmul (a : VInt2S) (s : State) : Op := vInt2S s (.vmul a) a 6 (· * ·) fun _ x y => x * y
/-- Two sources, `f w a b` on the raw elements. -/
def vInt2 (s : State) (i : Instr) (a : VInt2) (lat : Nat) (f : Nat → Bool → Nat → Nat → Nat) : Op :=
  let w := a.fmt.bits
  let x := vsrc s a.h a.a
  let y := vsrc s a.h a.b
  vOp s i a.h (vd s a.dst) lat 2 [a.a, a.b] (vPred s a.h)
    (mapElts w 0 fun e => (f w a.fmt.isUnsigned (elt w x e) (elt w y e), 0))
def opVmulh (a : VInt2) (s : State) : Op :=
  vInt2 s (.vmulh a) a 6 fun w u x y => wrapNat w (mulHigh w (readInt w u x) (readInt w u y))
def opVmin (a : VInt2) (s : State) : Op := vInt2 s (.vmin a) a 3 fun w u x y => if readInt w u y < readInt w u x then y else x
def opVmax (a : VInt2) (s : State) : Op := vInt2 s (.vmax a) a 3 fun w u x y => if readInt w u x < readInt w u y then y else x
def opVshl (a : VInt2) (s : State) : Op := vInt2 s (.vshl a) a 3 fun w _ x d => shlN w x d
def opVshr (a : VInt2) (s : State) : Op := vInt2 s (.vshr a) a 3 fun w _ x d => shrN w x d
def opVsar (a : VInt2) (s : State) : Op := vInt2 s (.vsar a) a 3 fun w _ x d => sarN w x d
/-- VMAD: exact before reduction or Sat. -/
def opVmad (a : VInt3S) (s : State) : Op :=
  let w := a.fmt.bits
  let u := a.fmt.isUnsigned
  let x := vsrc s a.h a.a
  let y := vsrc s a.h a.b
  let z := vsrc s a.h a.c
  vOp s (.vmad a) a.h (vd s a.dst) 6 2 [a.a, a.b, a.c] (vPred s a.h)
    (mapElts w 0 fun e =>
      (intRes w u a.sat (readInt w u (elt w x e) * readInt w u (elt w y e) + readInt w u (elt w z e)), 0))
/-- VCLMP: Min(Max(a, b), c). -/
def opVclmp (a : VInt3) (s : State) : Op :=
  let w := a.fmt.bits
  let u := a.fmt.isUnsigned
  let x := vsrc s a.h a.a
  let y := vsrc s a.h a.b
  let z := vsrc s a.h a.c
  vOp s (.vclmp a) a.h (vd s a.dst) 3 2 [a.a, a.b, a.c] (vPred s a.h)
    (mapElts w 0 fun e =>
      (wrapNat w (min (max (readInt w u (elt w x e)) (readInt w u (elt w y e))) (readInt w u (elt w z e))), 0))
/-- VABS and VNEG. -/
def vInt1S (s : State) (i : Instr) (a : VInt1S) (f : Int → Int) : Op :=
  let w := a.fmt.bits
  let u := a.fmt.isUnsigned
  let x := vsrc s a.h a.a
  vOp s i a.h (vd s a.dst) 3 2 [a.a] (vPred s a.h) (mapElts w 0 fun e => (intRes w u a.sat (f (readInt w u (elt w x e))), 0))
def opVabs (a : VInt1S) (s : State) : Op := vInt1S s (.vabs a) a fun x => (x.natAbs : Int)
def opVneg (a : VInt1S) (s : State) : Op := vInt1S s (.vneg a) a fun x => -x
/-- Whole-lane logic. -/
def vLog2 (s : State) (i : Instr) (a : VLane2) (f : VecVal → VecVal → VecVal) : Op :=
  vOp s i a.h (vd s a.dst) 3 2 [a.a, a.b] (vPred s a.h) (f (vsrc s a.h a.a) (vsrc s a.h a.b), 0)
def opVand (a : VLane2) (s : State) : Op := vLog2 s (.vand a) a (· &&& ·)
def opVor (a : VLane2) (s : State) : Op := vLog2 s (.vor a) a (· ||| ·)
def opVxor (a : VLane2) (s : State) : Op := vLog2 s (.vxor a) a (· ^^^ ·)
def opVnot (a : VLane1) (s : State) : Op :=
  vOp s (.vnot a) a.h (vd s a.dst) 3 2 [a.a] (vPred s a.h) (~~~(vsrc s a.h a.a), 0)

/-! ### Floating-point lane arithmetic (R223, Table 9.3) -/
/-- Two sources, one rounding. -/
def vFp2 (s : State) (i : Instr) (a : VFp2) (lat : Nat) (f : Fmt → FpEnv → Nat → Nat → Nat × FFlags) : Op :=
  let w := a.fmt.bits
  let x := vsrc s a.h a.a
  let y := vsrc s a.h a.b
  let m := vPred s a.h
  let v := s.me.env a.rm
  vOp s i a.h (vd s a.dst) lat 3 [a.a, a.b] (fmtMask a.fmt m) (mapElts w m fun e => f a.fmt v (elt w x e) (elt w y e))
    [drmFault s a.rm (wordOf i)]
def opVfadd (a : VFp2) (s : State) : Op := vFp2 s (.vfadd a) a 4 fAdd
def opVfsub (a : VFp2) (s : State) : Op := vFp2 s (.vfsub a) a 4 fSub
def opVfmul (a : VFp2) (s : State) : Op := vFp2 s (.vfmul a) a 6 fMul
/-- VFMA. -/
def opVfma (a : VFp3) (s : State) : Op :=
  let w := a.fmt.bits
  let x := vsrc s a.h a.a
  let y := vsrc s a.h a.b
  let z := vsrc s a.h a.c
  let m := vPred s a.h
  let v := s.me.env a.rm
  vOp s (.vfma a) a.h (vd s a.dst) 6 3 [a.a, a.b, a.c] (fmtMask a.fmt m)
    (mapElts w m fun e => fFma a.fmt v (elt w x e) (elt w y e) (elt w z e)) [drmFault s a.rm (wordOf (.vfma a))]
/-- VFMIN and VFMAX (R61). -/
def vFmm (s : State) (i : Instr) (a : VFmm) (isMax : Bool) : Op :=
  let w := a.fmt.bits
  let x := vsrc s a.h a.a
  let y := vsrc s a.h a.b
  let m := vPred s a.h
  vOp s i a.h (vd s a.dst) 4 3 [a.a, a.b] (fmtMask a.fmt m) (mapElts w m fun e => fMinMax a.fmt s.me.ftz isMax (elt w x e) (elt w y e))
def opVfmin (a : VFmm) (s : State) : Op := vFmm s (.vfmin a) a false
def opVfmax (a : VFmm) (s : State) : Op := vFmm s (.vfmax a) a true
/-- VFABS and VFNEG: the sign bit cleared or inverted; no flag. -/
def vFsg (s : State) (i : Instr) (a : VFsg) (neg : Bool) : Op :=
  let w := a.fmt.bits
  let x := vsrc s a.h a.a
  let m := vPred s a.h
  vOp s i a.h (vd s a.dst) 3 2 [a.a] (fmtMask a.fmt m) (mapElts w m fun e =>
    let y := elt w x e
    (if neg then y ^^^ 2 ^ (w - 1) else y % 2 ^ (w - 1), 0))
def opVfabs (a : VFsg) (s : State) : Op := vFsg s (.vfabs a) a false
def opVfneg (a : VFsg) (s : State) : Op := vFsg s (.vfneg a) a true

/-! ### Compares and selects (R224) -/
/-- VCMP: 32-bit lanes. -/
def opVcmp (a : VCmp) (s : State) : Op :=
  let x := vsrc s a.h a.a
  let y := vsrc s a.h a.b
  vOp s (.vcmp a) a.h (.p a.dst) 3 2 [a.a, a.b] (vPred s a.h)
    ((maskOf fun i => icond 32 a.cond (lane x i).toNat (lane y i).toNat).setWidth 4096, 0)
/-- VFCMP: an f64 relation goes into both bits of its element. -/
def opVfcmp (a : VFcmp) (s : State) : Op :=
  let w := a.fmt.bits
  let x := vsrc s a.h a.a
  let y := vsrc s a.h a.b
  let m := vPred s a.h
  let r := fun e => fCompare a.fmt a.cond (elt w x e) (elt w y e)
  let fl := (mapElts w m fun e => (0, (r e).2)).2
  vOp s (.vfcmp a) a.h (.p a.dst) 4 3 [a.a, a.b] (fmtMask a.fmt m)
    ((maskOf fun i => (r (if w = 64 then i / 2 else i)).1).setWidth 4096, fl)
/-- VSEL. -/
def opVsel (a : VSel) (s : State) : Op :=
  vOp s (.vsel a) a.h (vd s a.dst) 3 2 [a.a, a.b] (vPred s a.h)
    (mergeLanes (s.me.rdP a.h.bst a.selp) (vsrc s a.h a.a) (vsrc s a.h a.b), 0)

/-! ### Movement (R225, Tables 9.5, 9.6) -/
/-- Lane i of the result is a lane of the sources. -/
def vMove (s : State) (i : Instr) (h : VHd) (dst : BitVec 6) (lat : Nat) (srcs : List VSrc) (f : Nat → BitVec 32) : Op :=
  vOp s i h (vd s dst) lat 2 srcs (vPred s h) (ofLanes fun k => (f k).toNat, 0)
def opVmov (a : VLane1) (s : State) : Op := vMove s (.vmov a) a.h a.dst 3 [a.a] (lane (vsrc s a.h a.a))
def opVbcast (a : VBcast) (s : State) : Op :=
  let w := a.fmt.bits
  vOp s (.vbcast a) a.h (vd s a.dst) 3 2 [a.a] (fmtMask a.fmt (vPred s a.h))
    (mapElts w 0 fun _ => (elt w (vsrc s a.h a.a) a.idx.toNat, 0))
def opVext (a : VExt) (s : State) : Op :=
  vMove s (.vext a) a.h a.dst 3 [a.a, a.b] fun i =>
    if i + a.k.toNat < 128 then lane (vsrc s a.h a.a) (i + a.k.toNat) else lane (vsrc s a.h a.b) (i + a.k.toNat - 128)
def opViota (a : VIota) (s : State) : Op :=
  vOp s (.viota a) a.h (vd s a.dst) 3 2 [] (vPred s a.h) (mapElts a.fmt.bits 0 fun e => (a.base.toNat + e, 0))
def opVperm (a : VLane2) (s : State) : Op :=
  vMove s (.vperm a) a.h a.dst 5 [a.a, a.b] fun i => lane (vsrc s a.h a.a) ((lane (vsrc s a.h a.b) i).toNat % 128)
def opVrot (a : VRot) (s : State) : Op := vMove s (.vrot a) a.h a.dst 5 [a.a] fun i => lane (vsrc s a.h a.a) ((i + a.k.toNat) % 128)
/-- The lane that VSHUF takes (Table 9.6). -/
def shufLane (mode : ShufMode) (m i : Nat) : Nat :=
  let c := i / 16
  let j := i % 16
  match mode with
  | .xor => 16 * c + (j ^^^ m)
  | .rot => 16 * c + (j + m) % 16
  | .bc => 16 * c + m
  | .clx => 16 * (c ^^^ (m % 8)) + j
def opVshuf (a : VShuf) (s : State) : Op :=
  vMove s (.vshuf a) a.h a.dst 3 [a.a] fun i => lane (vsrc s a.h a.a) (shufLane a.mode a.m.toNat i)

/-! ### Reductions and scans (R80, R81, R226) -/
/-- The combination of two lanes. -/
def redOp (f : Fmt) (op : RedOp) (v : FpEnv) (x y : Nat) : Nat × FFlags :=
  match op with
  | .and => (x &&& y, 0) | .or => (x ||| y, 0) | .xor => (x ^^^ y, 0)
  | .add => if f = .f32 then fAdd .f32 v x y else ((x + y) % 2 ^ 32, 0)
  | .min => if f = .f32 then fMinMax .f32 v.ftz false x y else (if readInt 32 f.isUnsigned y < readInt 32 f.isUnsigned x then y else x, 0)
  | .max => if f = .f32 then fMinMax .f32 v.ftz true x y else (if readInt 32 f.isUnsigned x < readInt 32 f.isUnsigned y then y else x, 0)
/-- The identity of R80. -/
def redId (f : Fmt) (op : RedOp) : Nat :=
  match op with
  | .add => if f = .f32 then 0x80000000 else 0
  | .or | .xor => 0
  | .and => 0xFFFFFFFF
  | .min => if f = .f32 then 0x7F800000 else if f = .n32 then 0xFFFFFFFF else 0x7FFFFFFF
  | .max => if f = .f32 then 0xFF800000 else if f = .n32 then 0 else 0x80000000
/-- One level of the tree. -/
def redLevel (g : Nat → Nat → Nat × FFlags) : List Nat → List Nat × FFlags
  | x :: y :: t =>
    let r := g x y
    let l := redLevel g t
    (r.1 :: l.1, r.2 ||| l.2)
  | l => (l, 0)
/-- n levels. -/
def redTree (g : Nat → Nat → Nat × FFlags) : Nat → List Nat → Nat × FFlags
  | 0, l => (l.headD 0, 0)
  | n + 1, l =>
    let a := redLevel g l
    let b := redTree g n a.1
    (b.1, a.2 ||| b.2)
/-- The operands of lanes [lo, lo + n), inactive ones at the identity. -/
def redIn (f : Fmt) (op : RedOp) (m : Mask) (v : VecVal) (lo n : Nat) : List Nat :=
  (List.range n).map fun i => if m.getLsbD (lo + i) then (lane v (lo + i)).toNat else redId f op
/-- Inclusive prefixes. -/
def scanGo (g : Nat → Nat → Nat × FFlags) : Nat → List Nat → List Nat × FFlags
  | _, [] => ([], 0)
  | acc, x :: t =>
    let r := g acc x
    let l := scanGo g r.1 t
    (r.1 :: l.1, r.2 ||| l.2)
/-- The energy class of a reduction. -/
def redCls (f : Fmt) : Fin 16 := if f = .f32 then 3 else 2
/-- VRED: the result of a scope in every active lane of it. -/
def opVred (a : VRedF) (s : State) : Op :=
  let g := redOp a.fmt a.op (s.me.env a.rm)
  let m := vPred s a.h
  let x := vsrc s a.h a.a
  let n := if a.cl then 16 else 128
  let rs := (List.range (128 / n)).map fun k => redTree g (if a.cl then 4 else 7) (redIn a.fmt a.op m x (n * k) n)
  let lat := if a.fmt = .f32 then (if a.cl then 16 else 28) else (if a.cl then 12 else 21)
  vOp s (.vred a) a.h (vd s a.dst) lat (redCls a.fmt) [a.a] m
    (ofLanes fun i => ((rs.getD (i / n) (0, 0)).1), rs.foldl (fun f r => f ||| r.2) 0) [drmFault s a.rm (wordOf (.vred a))]
/-- VSCAN: every lane of the scope is written; a predicate of no lane changes no latch (R89). -/
def opVscan (a : VRedF) (s : State) : Op :=
  let g := redOp a.fmt a.op (s.me.env a.rm)
  let m := vPred s a.h
  let x := vsrc s a.h a.a
  let n := if a.cl then 16 else 128
  let rs := (List.range (128 / n)).map fun k => scanGo g (redId a.fmt a.op) (redIn a.fmt a.op m x (n * k) n)
  vOp s (.vscan a) a.h (vd s a.dst) (if a.cl then 20 else 132) (redCls a.fmt) [a.a] (BitVec.allOnes 128)
    (ofLanes fun i => ((rs.getD (i / n) ([], 0)).1).getD (i % n) 0, rs.foldl (fun f r => f ||| r.2) 0)
    [drmFault s a.rm (wordOf (.vscan a))] (decide (m = 0))

/-! ### Conversions and packing (R64, R227, R228) -/
/-- One step of a lane generator (R64). -/
def genNext (x : BitVec 32) : BitVec 32 :=
  let x := x ^^^ (x <<< 13)
  let x := x ^^^ (x >>> 17)
  x ^^^ (x <<< 5)
/-- The generators advanced in the lanes where `f` holds. -/
def FpCtl.draw (c : FpCtl) (f : Nat → Bool) : FpCtl :=
  { c with gens := Vector.ofFn fun i : Fin 128 => if f i.val then genNext c.gens[i] else c.gens[i] }
/-- The draw of a lane. -/
def FpCtl.rnd (c : FpCtl) (i : Nat) : Nat := (c.gens.toList.getD i 0).toNat
/-- The result of VCVT with the generators as they stand after the draws: 32-bit lanes, or 64 elements. -/
def vcvtVal (a : VCvt) (rm : RMode) (ftz : Bool) (gen : FpCtl) (m : Mask) (x : VecVal) : VecVal × FFlags :=
  let ext := fun (n : Nat) => if a.dfmt.isSigned then extW a.dfmt.bits false n else n
  if a.dfmt.bits = 64 || a.sfmt.bits = 64 then
    mapElts 64 m fun e =>
      let v := if a.sfmt.bits = 64 then elt 64 x e else elt 64 x e % 2 ^ 32
      let r := convert a.dfmt a.sfmt rm a.sat ftz (gen.rnd (2 * e)) v
      (if a.dfmt.bits = 64 then r.1 else ext r.1 % 2 ^ 32, r.2)
  else
    mapElts 32 m fun i =>
      let r := convert a.dfmt a.sfmt rm a.sat ftz (gen.rnd i) (lane x i).toNat
      (ext r.1, r.2)
/-- VCVT: under SR every element of an active lane draws. That V0 draws before V1 is the model's choice (log 75). -/
def opVcvt (a : VCvt) (s : State) : Op :=
  let m := vPred s a.h
  let w64 := a.dfmt.bits = 64 || a.sfmt.bits = 64
  let m' := if w64 then mask64 m else m
  let rm := s.me.rmOf a.rm
  let x := vsrc s a.h a.a
  let o := vOp s (.vcvt a) a.h (vd s a.dst) 4 3 [a.a] m' (0, 0)
  { o with eff := fun t =>
      let t := if rm = .sr then t.modMe fun y => { y with fp := y.fp.draw fun i => m'.getLsbD i && (!w64 || i % 2 == 0) } else t
      let r := vcvtVal a rm s.me.ftz t.me.fp m x
      t.emit { slot := vSlot a.h.slot1, bst := a.h.bst, nw := a.h.nw, dst := vd s a.dst, lat := 4, mask := m', val := r.1,
               latch := some (vLatch a.h.slot1), flags := r.2 } }
/-- VPACK (R228): n source lanes into one destination lane. -/
def opVpack (a : VPackF) (s : State) : Op :=
  let w := a.w.bits
  let n := 32 / w
  let k := 128 / n
  let x := vsrc s a.h a.a
  let lo := a.q.toNat * k
  let part := fun i j =>
    let v := (lane x (i * n + j)).toNat % 2 ^ a.fmt.bits
    if a.fmt.isFloat || a.fmt == .rns16 then v % 2 ^ w
    else if a.sat then wrapNat w (satInt w a.fmt.isUnsigned (readInt a.fmt.bits a.fmt.isUnsigned v))
    else v % 2 ^ w
  vOp s (.vpack a) a.h (vd s a.dst) 3 2 [a.a] (vPred s a.h &&& maskOf fun l => lo ≤ l && decide (l < lo + k))
    (ofLanes fun l => if lo ≤ l ∧ l < lo + k then (List.range n).foldr (fun j acc => part (l - lo) j + 2 ^ w * acc) 0 else 0, 0)
/-- VUNPK (R228). -/
def opVunpk (a : VUnpkF) (s : State) : Op :=
  let w := a.w.bits
  let n := 32 / w
  let x := vsrc s a.h a.a
  vOp s (.vunpk a) a.h (vd s a.dst) 3 2 [a.a] (vPred s a.h)
    (ofLanes fun i =>
      let y := bitsOf (lane x (a.q.toNat * (128 / n) + i / n)).toNat (w * (i % n)) w
      if a.fmt.isSigned then wrapNat 32 (signedOf w y) else y, 0)
/-- VRNS and VCRT (R79, R229). -/
def opVrns (a : VLane1) (s : State) : Op :=
  vOp s (.vrns a) a.h (vd s a.dst) 6 2 [a.a] (vPred s a.h) (ofLanes fun i => rnsOf (lane (vsrc s a.h a.a) i).toInt, 0)
def opVcrt (a : VLane1) (s : State) : Op :=
  vOp s (.vcrt a) a.h (vd s a.dst) 6 2 [a.a] (vPred s a.h)
    (ofLanes fun i => wrapNat 32 (rnsTo ((lane (vsrc s a.h a.a) i).toNat % 65536)), 0)

/-! ### Special functions (R230): V1 only -/
/-- A special function, latency 12. -/
def vSpec (s : State) (i : Instr) (a : VSpec) (g : FVal → FVal × FFlags) : Op :=
  let h : VHd := { slot1 := true, pred := a.pred, bst := a.bst, nw := a.nw, step := a.step }
  let w := a.fmt.bits
  let m := vPred s h
  let x := vsrc s h a.a
  vOp s i h (vd s a.dst) 12 4 [a.a] m (mapElts w m fun e => fSpecial g a.fmt (s.me.env a.rm) (elt w x e)) [drmFault s a.rm (wordOf i)]
def opVexp2 (a : VSpec) (s : State) : Op := vSpec s (.vexp2 a) a exp2V
def opVlog2 (a : VSpec) (s : State) : Op := vSpec s (.vlog2 a) a log2V
def opVrcp (a : VSpec) (s : State) : Op := vSpec s (.vrcp a) a rcpV
def opVrsq (a : VSpec) (s : State) : Op := vSpec s (.vrsq a) a rsqV
def opVtanh (a : VSpec) (s : State) : Op := vSpec s (.vtanh a) a tanhV

/-! ### Meanings -/
def execVadd (a : VInt2S) (s : State) : Host.Outcome State Fault Refusal := runOp (opVadd a s) s
def execVsub (a : VInt2S) (s : State) : Host.Outcome State Fault Refusal := runOp (opVsub a s) s
def execVmul (a : VInt2S) (s : State) : Host.Outcome State Fault Refusal := runOp (opVmul a s) s
def execVmulh (a : VInt2) (s : State) : Host.Outcome State Fault Refusal := runOp (opVmulh a s) s
def execVmad (a : VInt3S) (s : State) : Host.Outcome State Fault Refusal := runOp (opVmad a s) s
def execVmin (a : VInt2) (s : State) : Host.Outcome State Fault Refusal := runOp (opVmin a s) s
def execVmax (a : VInt2) (s : State) : Host.Outcome State Fault Refusal := runOp (opVmax a s) s
def execVabs (a : VInt1S) (s : State) : Host.Outcome State Fault Refusal := runOp (opVabs a s) s
def execVneg (a : VInt1S) (s : State) : Host.Outcome State Fault Refusal := runOp (opVneg a s) s
def execVand (a : VLane2) (s : State) : Host.Outcome State Fault Refusal := runOp (opVand a s) s
def execVor (a : VLane2) (s : State) : Host.Outcome State Fault Refusal := runOp (opVor a s) s
def execVxor (a : VLane2) (s : State) : Host.Outcome State Fault Refusal := runOp (opVxor a s) s
def execVnot (a : VLane1) (s : State) : Host.Outcome State Fault Refusal := runOp (opVnot a s) s
def execVshl (a : VInt2) (s : State) : Host.Outcome State Fault Refusal := runOp (opVshl a s) s
def execVshr (a : VInt2) (s : State) : Host.Outcome State Fault Refusal := runOp (opVshr a s) s
def execVsar (a : VInt2) (s : State) : Host.Outcome State Fault Refusal := runOp (opVsar a s) s
def execVclmp (a : VInt3) (s : State) : Host.Outcome State Fault Refusal := runOp (opVclmp a s) s
def execVfadd (a : VFp2) (s : State) : Host.Outcome State Fault Refusal := runOp (opVfadd a s) s
def execVfsub (a : VFp2) (s : State) : Host.Outcome State Fault Refusal := runOp (opVfsub a s) s
def execVfmul (a : VFp2) (s : State) : Host.Outcome State Fault Refusal := runOp (opVfmul a s) s
def execVfma (a : VFp3) (s : State) : Host.Outcome State Fault Refusal := runOp (opVfma a s) s
def execVfmin (a : VFmm) (s : State) : Host.Outcome State Fault Refusal := runOp (opVfmin a s) s
def execVfmax (a : VFmm) (s : State) : Host.Outcome State Fault Refusal := runOp (opVfmax a s) s
def execVfabs (a : VFsg) (s : State) : Host.Outcome State Fault Refusal := runOp (opVfabs a s) s
def execVfneg (a : VFsg) (s : State) : Host.Outcome State Fault Refusal := runOp (opVfneg a s) s
def execVcmp (a : VCmp) (s : State) : Host.Outcome State Fault Refusal := runOp (opVcmp a s) s
def execVfcmp (a : VFcmp) (s : State) : Host.Outcome State Fault Refusal := runOp (opVfcmp a s) s
def execVsel (a : VSel) (s : State) : Host.Outcome State Fault Refusal := runOp (opVsel a s) s
def execVmov (a : VLane1) (s : State) : Host.Outcome State Fault Refusal := runOp (opVmov a s) s
def execVbcast (a : VBcast) (s : State) : Host.Outcome State Fault Refusal := runOp (opVbcast a s) s
def execVext (a : VExt) (s : State) : Host.Outcome State Fault Refusal := runOp (opVext a s) s
def execViota (a : VIota) (s : State) : Host.Outcome State Fault Refusal := runOp (opViota a s) s
def execVperm (a : VLane2) (s : State) : Host.Outcome State Fault Refusal := runOp (opVperm a s) s
def execVrot (a : VRot) (s : State) : Host.Outcome State Fault Refusal := runOp (opVrot a s) s
def execVshuf (a : VShuf) (s : State) : Host.Outcome State Fault Refusal := runOp (opVshuf a s) s
def execVred (a : VRedF) (s : State) : Host.Outcome State Fault Refusal := runOp (opVred a s) s
def execVscan (a : VRedF) (s : State) : Host.Outcome State Fault Refusal := runOp (opVscan a s) s
def execVcvt (a : VCvt) (s : State) : Host.Outcome State Fault Refusal := runOp (opVcvt a s) s
def execVpack (a : VPackF) (s : State) : Host.Outcome State Fault Refusal := runOp (opVpack a s) s
def execVunpk (a : VUnpkF) (s : State) : Host.Outcome State Fault Refusal := runOp (opVunpk a s) s
def execVrns (a : VLane1) (s : State) : Host.Outcome State Fault Refusal := runOp (opVrns a s) s
def execVcrt (a : VLane1) (s : State) : Host.Outcome State Fault Refusal := runOp (opVcrt a s) s
def execVexp2 (a : VSpec) (s : State) : Host.Outcome State Fault Refusal := runOp (opVexp2 a s) s
def execVlog2 (a : VSpec) (s : State) : Host.Outcome State Fault Refusal := runOp (opVlog2 a s) s
def execVrcp (a : VSpec) (s : State) : Host.Outcome State Fault Refusal := runOp (opVrcp a s) s
def execVrsq (a : VSpec) (s : State) : Host.Outcome State Fault Refusal := runOp (opVrsq a s) s
def execVtanh (a : VSpec) (s : State) : Host.Outcome State Fault Refusal := runOp (opVtanh a s) s

end Sys2Proof.Machine
end

