-- ==== Sys2Proof/Machine/VecMem.lean ====
section
/-! DEFINITION. The VM slot (R231–R236): element addresses, the range tests of R232, loads and stores in the cycles of
Table 7.11, full/empty forms (R234, R235) and accumulator rows. -/
namespace Sys2Proof.Machine

/-- The lane predicate of a VM operation. -/
def mPred (s : State) (h : MHd) : Mask := s.me.rdP h.bst h.pred
/-- x: the effective address of a[AR] at issue. -/
def mBase (s : State) (h : MHd) : Nat := ((s.me.rdA h.bst (r5 h.ar)).ea).toNat
/-- Active lanes with their element addresses. -/
def mLanes (m : Mask) (f : Nat → Int) : List (Nat × Nat) := (lanesOf m).map fun i => (i, (f i % (2 ^ 32 : Nat)).toNat)
/-- A byte may be accessed: face scratch of the reservation, or the weight buffer where the form reads it (R232). -/
def mByteOk (x : UnitSt) (wb : Bool) (a : Nat) : Bool :=
  x.inRes false a 1 || (wb && (regionOf a == .wb0 || regionOf a == .wb1))
/-- The first offending byte of lanes of a width, lowest lane first; a misaligned element offends with its first byte. -/
def mBadLane (x : UnitSt) (wb : Bool) (w : Nat) (ls : List (Nat × Nat)) : Option Nat :=
  ls.findSome? fun l =>
    if l.2 % w != 0 then some l.2 else ((List.range w).map (l.2 + ·)).find? fun a => !mByteOk x wb a
/-- The range test of VLD, VST, FESET, FECLR and FEPROB: x a multiple of 16, its 512 bytes in one region. -/
def mBadRow (x : UnitSt) (wb : Bool) (m : Mask) (ad : Nat) : Option Nat :=
  match mLanes m fun i => (ad : Int) + 4 * i with
  | [] => none
  | l :: ls =>
    if ad % 16 != 0 then some l.2
    else
      match mBadLane x wb 4 (l :: ls) with
      | some a => some a
      | none => ((List.range 512).map fun i => (ad + i) % 2 ^ 32).find? fun a => regionOf a != regionOf ad
/-- A VM operation: class, vector ports, its address fault, and its effect with the post-modification after it. -/
def mOp (s : State) (i : Instr) (h : MHd) (cls : Fin 16) (srcs : List VSrc) (bad : Option (BitVec 8 × Word)) (eff : State → State) : Op :=
  { slot := 7, word := wordOf i, lvl := Boost.lvl h.bst, cls := some cls, vr := s.me.portV srcs,
    fault := if h.bst = .none then bad else none,
    eff := fun t => let t := eff t; if h.pm then t.modMe fun x => x.postMod 7 h.bst (r5 h.ar) else t }
/-- SCRATCH_RANGE with its address. -/
def rangeFault (a : Option Nat) : Option (BitVec 8 × Word) := a.map fun x => (cSCRATCH_RANGE, BitVec.ofNat 64 x)
/-- Some lane lies in the south face. -/
def anySouth (ls : List (Nat × Nat)) : Bool := ls.any fun l => southOf l.2 = 1
/-- A load: its result lands at `lat` or `lat + 2`; each lane is read in the clock of its region (R233). -/
def mLoad (s : State) (i : Instr) (h : MHd) (dst : BitVec 6) (lat : Nat) (srcs : List VSrc) (bad : Option Nat)
    (ls : List (Nat × Nat)) (w : Nat) (signed : Bool) (pre : State → State := id) : Op :=
  let f := rangeFault bad
  mOp s i h 5 srcs f fun t =>
    (pre t).modMe fun u =>
      let id := u.seq.nextId
      let u := u.emit { slot := 7, bst := h.bst, nw := h.nw, dst := vd s dst, lat := if anySouth ls then lat + 2 else lat,
                        mask := mPred s h, latch := some .lvm, held := if h.bst = .none then none else f }
      if bad.isSome then u
      else
        let p := splitLanes false ls
        let u := if p.1.isEmpty then u else u.later 2 (.load id p.1 w signed)
        if p.2.isEmpty then u else u.later 3 (.load id p.2 w signed)
/-- A store: the data is read at issue, each lane is written in the clock of its region. -/
def mStore (s : State) (i : Instr) (h : MHd) (srcs : List VSrc) (bad : Option Nat) (ls : List (Nat × Nat)) (w : Nat)
    (data : VecVal) (fe : Option Bool) : Op :=
  mOp s i h 5 srcs (rangeFault bad) fun t => t.modMe fun u =>
    let p := splitLanes false ls
    let go := fun (u : UnitSt) (n : Nat) (l : List (Nat × Nat)) =>
      if l.isEmpty then u
      else u.later n (.store (l.flatMap fun x => bytesAt x.2 (leBytes w (lane data x.1).toNat)) fe (gransOf (l.map Prod.snd)))
    go (go u 3 p.1) 4 p.2
/-- The granules that active lanes of a row touch. -/
def rowGrans (ls : List (Nat × Nat)) : List Nat := gransOf (ls.map Prod.snd)
/-- The lanes of a row access. -/
def rowLanes (s : State) (h : MHd) : List (Nat × Nat) := mLanes (mPred s h) fun i => (mBase s h : Int) + 4 * i
/-- VLD. -/
def opVld (a : MLoad) (s : State) : Op :=
  mLoad s (.vld a) a.h a.dst 9 [] (mBadRow s.me true (mPred s a.h) (mBase s a.h)) (rowLanes s a.h) 4 false
/-- VLD.FE: a full/empty wait while a granule is empty, one that a copy fills in the present clock among them (R43, R99); .C sets the granules empty at issue. An older store or FESET whose
write falls in that clock on the same granule is performed after it, at the end of the clock: the model's choice (log 60). -/
def mFe (s : State) (i : Instr) (a : MLoad) (clear : Bool) : Op :=
  let ls := rowLanes s a.h
  let gs := rowGrans ls
  let bad := mBadRow s.me false (mPred s a.h) (mBase s a.h)
  let o := mLoad s i a.h a.dst 9 [] bad ls 4 false fun t =>
    if clear then t.modMe fun u => ({ u with st := setFull u.st gs false } : UnitSt).alsoKept fun st => setFull st gs false else t
  let empty := gs.find? fun g => !(smGet ({} : Gran) s.me.st.face g).full || s.me.es.filled.contains g
  { o with wait := if bad.isSome then none else empty.map fun g => (0, g * 16) }
def opVldFeC (a : MLoad) (s : State) : Op := mFe s (.vldFeC a) a true
def opVldFeK (a : MLoad) (s : State) : Op := mFe s (.vldFeK a) a false
/-- VST, VST.F, VST.E. -/
def mSt (s : State) (i : Instr) (a : MStore) (fe : Option Bool) : Op :=
  mStore s i a.h [a.a] (mBadRow s.me false (mPred s a.h) (mBase s a.h)) (rowLanes s a.h) 4 (s.me.srcV a.h.bst a.a) fe
def opVst (a : MStore) (s : State) : Op := mSt s (.vst a) a none
def opVstF (a : MStore) (s : State) : Op := mSt s (.vstF a) a (some true)
def opVstE (a : MStore) (s : State) : Op := mSt s (.vstE a) a (some false)
/-- The lanes of a strided access: s is a[AS] as a signed stride. -/
def strideLanes (s : State) (h : MHd) (as : BitVec 5) : List (Nat × Nat) :=
  mLanes (mPred s h) fun i => (mBase s h : Int) + i * ((s.me.rdA h.bst (r5 as)).val).toInt
/-- The lanes of a gather or scatter. -/
def gatherLanes (s : State) (h : MHd) (b : VSrc) : List (Nat × Nat) :=
  mLanes (mPred s h) fun i => (mBase s h : Int) + (lane (s.me.srcV h.bst b) i).toNat
/-- VLDS. -/
def opVlds (a : MLoadS) (s : State) : Op :=
  let w := a.fmt.bits / 8
  let ls := strideLanes s a.h a.as
  mLoad s (.vlds a) a.h a.dst 9 [] (mBadLane s.me true w ls) ls w a.fmt.isSigned
/-- VSTS. -/
def opVsts (a : MStoreS) (s : State) : Op :=
  let w := a.fmt.bits / 8
  let ls := strideLanes s a.h a.as
  mStore s (.vsts a) a.h [a.a] (mBadLane s.me false w ls) ls w (s.me.srcV a.h.bst a.a) none
/-- VGTH. -/
def opVgth (a : MGather) (s : State) : Op :=
  let w := a.fmt.bits / 8
  let ls := gatherLanes s a.h a.b
  mLoad s (.vgth a) a.h a.dst 13 [a.b] (mBadLane s.me true w ls) ls w a.fmt.isSigned
/-- VSCT. -/
def opVsct (a : MScatter) (s : State) : Op :=
  let w := a.fmt.bits / 8
  let ls := gatherLanes s a.h a.b
  mStore s (.vsct a) a.h [a.b, a.a] (mBadLane s.me false w ls) ls w (s.me.srcV a.h.bst a.a) none
/-- ACC_RANGE (R236): x[31:12] non-zero, or a slot not below the declared count. -/
def accBad (s : State) (h : MHd) : Option (BitVec 8 × Word) :=
  let x := mBase s h
  if mPred s h != 0 && (4096 ≤ x || s.me.accn ≤ x / 128) then some (cACC_RANGE, BitVec.ofNat 64 x) else none
/-- The row as a read of the present schedule cycle sees it: an ACCWR whose write falls in that cycle or a later one is undone. That
an ACCRD which issues in the write cycle of an ACCWR reads the old row is the model's choice (log 60). -/
def UnitSt.rowSeen (x : UnitSt) (k : Nat) : VecVal :=
  x.seq.undo.foldr (fun u v => match u.row with
    | some (r, m, old) => if r = k && decide (x.ck.scyc ≤ u.sc) then mergeLanes m old v else v
    | none => v) (x.accSeen k)
/-- ACCRD: the row as it stands in the issue clock (R104), landing at latency 7. -/
def opAccrd (a : MLoad) (s : State) : Op :=
  let f := accBad s a.h
  let m := mPred s a.h
  let k := mBase s a.h
  mOp s (.accrd a) a.h 6 [] f fun t =>
    let t := t.emit { slot := 7, bst := a.h.bst, nw := a.h.nw, dst := vd s a.dst, lat := 7, mask := m,
                      val := if f.isSome then 0 else s.me.rowSeen k, latch := some .lac, held := if a.h.bst = .none then none else f }
    if f.isNone && (s.me.st.accPoison.any (fun w => w / 128 = k && m.getLsbD (w % 128)) || s.me.cube.fresh.any fun r => r.1 = k && r.2.2.1) then
      t.consumeAcc t.cur [crownEntry 0 0x40 t.me.seq.pc]
    else t
/-- ACCWR: the row is written in clock issue + 3. -/
def opAccwr (a : MStore) (s : State) : Op :=
  mOp s (.accwr a) a.h 6 [a.a] (accBad s a.h) fun t =>
    if mPred s a.h = 0 then t
    else t.modMe fun u => u.later 3 (.accWr (mBase s a.h) (mPred s a.h) (s.me.srcV a.h.bst a.a))
/-- FESET and FECLR: the bits of the granules in the write cycle. -/
def mFeSet (s : State) (i : Instr) (a : MFe) (b : Bool) : Op :=
  let ls := rowLanes s a.h
  mOp s i a.h 5 [] (rangeFault (mBadRow s.me false (mPred s a.h) (mBase s a.h))) fun t =>
    if ls.isEmpty then t
    else t.modMe fun u => u.later (if anySouth ls then 4 else 3) (.store [] (some b) (rowGrans ls))
def opFeset (a : MFe) (s : State) : Op := mFeSet s (.feset a) a true
def opFeclr (a : MFe) (s : State) : Op := mFeSet s (.feclr a) a false
/-- FEPROB. -/
def opFeprob (a : MProb) (s : State) : Op :=
  let ls := rowLanes s a.h
  mOp s (.feprob a) a.h 5 [] (rangeFault (mBadRow s.me false (mPred s a.h) (mBase s a.h))) fun t => t.modMe fun u =>
    let id := u.seq.nextId
    let so := if anySouth ls then 1 else 0
    let u := u.emit { slot := 7, nw := a.h.nw, dst := .p a.dst, lat := 9 + 2 * so, mask := mPred s a.h }
    if ls.isEmpty then u else u.later (2 + so) (.probe id ls)

/-! ### Meanings -/
def execVld (a : MLoad) (s : State) : Host.Outcome State Fault Refusal := runOp (opVld a s) s
def execVldFeC (a : MLoad) (s : State) : Host.Outcome State Fault Refusal := runOp (opVldFeC a s) s
def execVldFeK (a : MLoad) (s : State) : Host.Outcome State Fault Refusal := runOp (opVldFeK a s) s
def execVst (a : MStore) (s : State) : Host.Outcome State Fault Refusal := runOp (opVst a s) s
def execVstF (a : MStore) (s : State) : Host.Outcome State Fault Refusal := runOp (opVstF a s) s
def execVstE (a : MStore) (s : State) : Host.Outcome State Fault Refusal := runOp (opVstE a s) s
def execVlds (a : MLoadS) (s : State) : Host.Outcome State Fault Refusal := runOp (opVlds a s) s
def execVsts (a : MStoreS) (s : State) : Host.Outcome State Fault Refusal := runOp (opVsts a s) s
def execVgth (a : MGather) (s : State) : Host.Outcome State Fault Refusal := runOp (opVgth a s) s
def execVsct (a : MScatter) (s : State) : Host.Outcome State Fault Refusal := runOp (opVsct a s) s
def execAccrd (a : MLoad) (s : State) : Host.Outcome State Fault Refusal := runOp (opAccrd a s) s
def execAccwr (a : MStore) (s : State) : Host.Outcome State Fault Refusal := runOp (opAccwr a s) s
def execFeset (a : MFe) (s : State) : Host.Outcome State Fault Refusal := runOp (opFeset a s) s
def execFeclr (a : MFe) (s : State) : Host.Outcome State Fault Refusal := runOp (opFeclr a s) s
def execFeprob (a : MProb) (s : State) : Host.Outcome State Fault Refusal := runOp (opFeprob a s) s

end Sys2Proof.Machine
end

