-- ==== Sys2Proof/Machine/Package.lean ====
section
/-! DEFINITION. Queue entries (R271), the driven task (R363), and the decomposition of PACKAGE and GANG commands
(R262–R267, R364, R466). -/
namespace Sys2Proof.Machine

/-! ### Queue entries (R271) -/
/-- A command or marker that enters the queue of an engine at issue. -/
def UnitSt.enqueue (x : UnitSt) (e : EngId) (q : QEnt) : UnitSt :=
  let id := x.es.nextId
  let g := x.es.eng[e]
  let q := { q with id := id, sc := x.ck.scyc, lvl := x.trap.tl, keep := x.phase.qmask.getLsbD e.val,
                    ready := x.seq.accs.foldl (fun m a => max m (a.at_ + 1)) 0 }
  { x with
    es := { x.es with nextId := id + 1, eng := x.es.eng.set e { g with q := g.q ++ [q] } },
    phase := { x.phase with since := if x.phase.on && q.kind == .cmd then x.phase.since ++ [id] else x.phase.since } }
/-- A marker in each queue of a mask. -/
def UnitSt.mark (x : UnitSt) (m : BitVec 12) (k : QKind) : UnitSt :=
  (List.range 12).foldl (fun x e => if m.getLsbD e then x.enqueue (Fin.ofNat 12 e) { id := 0, kind := k } else x) x
/-- The engines of a mask. -/
def engsOf (m : BitVec 12) : List EngId := ((List.range 12).filter m.getLsbD).map (Fin.ofNat 12)
/-- All twelve engines. -/
def allEngs : List EngId := engsOf 0xFFF#12

/-! ### Package-level staging words (Table 10.13) -/
/-- KST; 0 means 768. -/
def Snap.kst (cb : Snap) : Nat := let v := Snap.f cb 6 32 16; if v = 0 then 768 else v
/-- Bits of an element. -/
def Snap.eb (cb : Snap) : Nat := (Snap.fmtA cb).bits
/-- The chunk size of a package command. -/
def Snap.pc (cb : Snap) : Nat := (pairChunk (Snap.fmtA cb) (Snap.fmtB cb)).getD 1
/-- P: the number of rounds. -/
def Snap.rounds (cb : Snap) : Nat := ceilDiv (Snap.k cb) (Snap.kst cb)
/-- RP. -/
def Snap.rp (cb : Snap) : Nat := 64 * Snap.kst cb / Snap.pc cb
/-- The rotation code c = log2(KST / C). -/
def Snap.rc (cb : Snap) : Nat := (Snap.kst cb / Snap.pc cb).log2
/-- K positions of round u. -/
def Snap.kp (cb : Snap) (u : Nat) : Nat := Nat.min (Snap.kst cb) (Snap.k cb - u * Snap.kst cb)
/-- A field of a staging word replaced. -/
def Snap.setF (cb : Snap) (i : Fin 16) (lo len v : Nat) : Snap := cb.set i (BitVec.ofNat 64 (setBits (cb[i]).toNat lo len v))
/-- The share of part i of `total` blocks split over `parts` (R263): its first block and its count. -/
def share (total parts i : Nat) : Nat × Nat :=
  let q := ceilDiv total parts
  (q * i, if total ≤ q * i then 0 else Nat.min q (total - q * i))
/-- The command that a member carries out: of a GANG header, its own n-blocks (R267). -/
def State.pkgEff (s : State) (h : Word) (cb : Snap) : Snap :=
  if hdrLvl h = 4 then
    let w := (s.unit brim).tw 7
    let p := share (Snap.nb cb) (bitsOf w 46 14 + 1) (bitsOf w 32 14)
    let cb := cb.setF 1 0 56 (Snap.f cb 1 0 56 + p.1 * 128 * Snap.f cb 3 32 32)
    let cb := cb.setF 2 0 56 (Snap.f cb 2 0 56 + 4 * p.1 * 128)
    cb.setF 4 16 16 p.2
  else cb

/-! ### Children (R263, R363) -/
/-- The task that the brim context drives: the crown task of its most recent TPOST. -/
def State.driven (s : State) : Option PoolEnt :=
  match (s.unit brim).ctx with
  | some c => s.dev.sched.ents.find? fun e => e.brimOf == some (c.pool, c.ent)
  | none => none
/-- The crown at place (x, y) of a task that holds its context. -/
def State.crownAt (s : State) (t : PoolEnt) (x y : Nat) : Option UnitId :=
  ((List.range 8).find? fun k =>
    match (s.unit (crownUnit k)).ctx with
    | some c => c.pool = t.pool && c.ent = t.ent && c.dx.toNat = x && c.dy.toNat = y
    | none => false).map crownUnit
/-- A unit holds a context whose state stands on it: not in its save record. -/
def State.holdsCtx (s : State) (k : UnitId) (p : Fin 16) (n : BitVec 8) : Bool :=
  (s.unit k).status != .stored && (s.unit k).status != .reloading && (match (s.unit k).ctx with | some c => c.pool == p && c.ent == n | none => false)
/-- The crown at a place of a task, while the state of its context stands there (R55). -/
def State.childPlace (s : State) (t : PoolEnt) (x y : Nat) : Option UnitId := (s.crownAt t x y).filter fun k => s.holdsCtx k t.pool t.ent
/-- A crown's part of the driven task, from its dispatch to its end, wherever it stands: it gives the reservation that space 1 names on
the brim core (R363). -/
def State.drivenUnit (s : State) : Option UnitSt :=
  match s.driven with
  | some t => ((s.crownAt t 0 0).map s.unit).or ((t.saved.map Prod.snd).find? fun x => x.ctx.any fun c => c.dx = 0 && c.dy = 0)
  | none => none
/-- A child with its blocks. -/
structure Child where
  x : Nat
  y : Nat
  m0 : Nat
  mc : Nat
  n0 : Nat
  nc : Nat
  deriving DecidableEq, Repr
/-- The places of the child rectangle, in raster order, as places of the driven task. -/
def Snap.places (cb : Snap) : List (Int × Int × Nat × Nat) :=
  (List.range (Snap.f cb 7 10 1 + 1)).flatMap fun (dy : Nat) => (List.range (Snap.f cb 7 8 2 + 1)).map fun (dx : Nat) =>
    (signedOf 4 (Snap.f cb 7 0 4) + (dx : Int), signedOf 2 (Snap.f cb 7 4 2) + (dy : Int), dx, dy)
/-- The child rectangle lies in the driven task, and every place holds its resident context. -/
def State.placesOk (s : State) (cb : Snap) : Bool :=
  match s.driven with
  | none => false
  | some t =>
    (Snap.places cb).all fun p => 0 ≤ p.1 && 0 ≤ p.2.1 && (s.crownAt t p.1.toNat p.2.1.toNat).isSome
/-- The children with blocks, in raster order. -/
def Snap.kids (cb : Snap) : List Child :=
  (Snap.places cb).filterMap fun p =>
    let m := share (Snap.mb cb) (Snap.f cb 7 10 1 + 1) p.2.2.2
    let n := share (Snap.nb cb) (Snap.f cb 7 8 2 + 1) p.2.2.1
    if m.2 = 0 || n.2 = 0 || p.1 < 0 || p.2.1 < 0 then none
    else some { x := p.1.toNat, y := p.2.1.toNat, m0 := m.1, mc := m.2, n0 := n.1, nc := n.2 }
/-- A child's number: its place. -/
def Child.id (c : Child) : Nat := c.y * 4 + c.x
/-- The crown of a child, while its context runs there. -/
def State.childAt (s : State) (c : Child) : Option UnitId :=
  match s.driven with
  | none => none
  | some t =>
    match s.crownAt t c.x c.y with
    | some u => if (s.unit u).status = .running || (s.unit u).status = .exiting then some u else none
    | none => none

/-! ### What is delivered and copied -/
/-- The header of a child's TMMA of round u. -/
def pkgTmma (h : Word) (cb : Snap) (u : Nat) : Word :=
  BitVec.ofNat 64 (2 ^ 56 + hdrLm h * 2 ^ 12 + 2 * 2 ^ 9 + (if u = 0 && hdrZ h then 256 else 0) + Snap.f cb 9 40 5)
/-- Its staging words: buffer u mod 2. -/
def pkgSnap (cb : Snap) (c : Child) (u : Nat) : Snap :=
  let off := u % 2 * Snap.f cb 9 0 32
  let d0 := fun (base : Nat) => BitVec.ofNat 64 ((base + off) % 2 ^ 32 + Snap.rp cb % 65536 * 2 ^ 32 + Snap.rc cb * 2 ^ 48)
  let z : Snap := Vector.replicate 16 0
  ((((((z.set 0 (d0 (Snap.f cb 8 0 32))).set 1 64).set 2 (d0 (Snap.f cb 8 32 32))).set 3 64).set 4
    (BitVec.ofNat 64 (c.mc + c.nc * 2 ^ 16 + Snap.kp cb u * 2 ^ 32))).set 5 (BitVec.ofNat 64 (Snap.f cb 5 0 10)))
/-- The header of a child's TDRAIN. -/
def pkgDrain (cb : Snap) (c : Child) : Word :=
  BitVec.ofNat 64 (9 * 2 ^ 56 + (c.mc * c.nc - 1) % 32 * 2 ^ 12 + 2 * 2 ^ 9 + Snap.f cb 9 40 5)
/-- Its staging words. -/
def pkgDrainSnap (cb : Snap) : Snap :=
  let z : Snap := Vector.replicate 16 0
  (z.set 0 (BitVec.ofNat 64 (Snap.f cb 10 0 32 + 512 * 2 ^ 32))).set 1 65536
/-- A CPY of the decomposition: its word and snapshot. Dimensions are (count, source stride, destination stride). -/
def pkgCpy (eng : Nat) (src dst : Word) (esz rot : Nat) (dims : List (Nat × Nat × Nat)) (bar : Option Nat) : QEnt :=
  let w := BitVec.ofNat 64 (2 ^ 56 + eng * 2 ^ 16 + (match bar with | some b => b * 16 + 8 | none => 0))
  let ctl := BitVec.ofNat 64 (rot * 2 ^ 12 + dims.length * 16 + esz.log2)
  let ds := dims.flatMap fun d =>
    [BitVec.ofNat 64 (d.1 % 65536 * 2 ^ 48 + d.2.1 % 2 ^ 48), BitVec.ofNat 64 (d.1 / 65536 * 2 ^ 48 + d.2.2 % 2 ^ 48)]
  let l := src :: dst :: ctl :: ds
  { id := 0, kind := .cmd, word := w, snap := Vector.ofFn fun i : Fin 32 => l.getD i.val 0 }
/-- A scratch address word at a child's place. -/
def childAw (c : Child) (a : Nat) : Word := BitVec.ofNat 64 (2 ^ 60 + c.y % 4 * 2 ^ 35 + c.x % 8 * 2 ^ 32 + a % 2 ^ 32)
/-- The copies of one operand of a child in round u: its whole chunks, and a partial last one. -/
def pkgFill (cb : Snap) (eng : Nat) (c : Child) (va ld base rows u : Nat) : List QEnt :=
  let b := Snap.eb cb
  let esz := max 1 (b / 8)
  let C := Snap.pc cb
  let kp := Snap.kp cb u
  let elts := fun (k : Nat) => if b = 4 then k / 2 else k
  let src := va + u * Snap.kst cb * b / 8
  let dst := base + u % 2 * Snap.f cb 9 0 32
  let bar := some (Snap.f cb 9 32 5 + u % 2)
  let r := (rows, ld, Snap.rp cb)
  let aw := fun (a : Nat) => BitVec.ofNat 64 (a % 2 ^ 56)
  let nf := kp / C
  let kr := kp % C
  (if nf = 0 then [] else
    [pkgCpy eng (aw src) (childAw c dst) esz (Snap.rc cb) [(elts C, esz, esz), r, (nf, C * b / 8, 64)] bar]) ++
  (if kr = 0 then [] else
    [pkgCpy eng (aw (src + nf * C * b / 8)) (childAw c (dst + nf * 64)) esz (Snap.rc cb) [(elts kr, esz, esz), r] bar])
/-- The copies of A and of B. -/
def pkgFills (cb : Snap) (c : Child) (u : Nat) : List QEnt × List QEnt :=
  (pkgFill cb 0 c (Snap.f cb 0 0 56 + c.m0 * 128 * Snap.f cb 3 0 32) (Snap.f cb 3 0 32) (Snap.f cb 8 0 32) (128 * c.mc) u,
   pkgFill cb 1 c (Snap.f cb 1 0 56 + c.n0 * 128 * Snap.f cb 3 32 32) (Snap.f cb 3 32 32) (Snap.f cb 8 32 32) (128 * c.nc) u)
/-- The output copies of a child, in ascending slot order (R364). -/
def pkgOuts (cb : Snap) (c : Child) : List QEnt :=
  (List.range (c.mc * c.nc)).map fun i =>
    let dst := Snap.f cb 2 0 56 + 128 * (c.m0 + i / c.nc) * Snap.f cb 6 0 32 + 512 * (c.n0 + i % c.nc)
    pkgCpy 2 (childAw c (Snap.f cb 10 0 32 + i * 65536)) (BitVec.ofNat 64 (dst % 2 ^ 56)) 4 0 [(128, 4, 4), (128, 512, Snap.f cb 6 0 32)] none

/-! ### Issue tests (R262, Table 10.15) -/
/-- A PACKAGE or GANG command is running. -/
def Dev.pkgBusy (d : Dev) : Bool := match d.pkg with | some p => !p.done && !p.stopped | none => false
/-- One is stopped. -/
def Dev.pkgStopped (d : Dev) : Bool := match d.pkg with | some p => p.stopped && !p.done | none => false
/-- ILLEGAL_OPERAND. -/
def pkgIllegal (cb : Snap) : Bool :=
  (match pairChunk (Snap.fmtA cb) (Snap.fmtB cb) with | none => true | some _ => Snap.fmtA cb == .f64) ||
    Snap.f cb 5 10 54 != 0 || Snap.f cb 6 48 16 != 0 || Snap.f cb 7 6 2 != 0 || Snap.f cb 7 11 53 != 0 ||
    Snap.f cb 9 37 3 != 0 || Snap.f cb 9 45 19 != 0 || Snap.f cb 10 49 15 != 0 || Snap.f cb 9 32 5 == 31
/-- TILE_SHAPE. -/
def pkgShape (cb : Snap) : Bool :=
  let r := Snap.kst cb / 96
  Snap.mb cb = 0 || 1024 < Snap.mb cb || Snap.nb cb = 0 || 1024 < Snap.nb cb || Snap.k cb = 0 || 65536 * Snap.pc cb < Snap.k cb ||
    (Snap.fmtA cb == .e2m1 && Snap.k cb % 2 != 0) || Snap.kst cb % 96 != 0 || r != 2 ^ r.log2 || 64 < Snap.kst cb / Snap.pc cb
/-- The commands that a child will receive, with their staging words: both buffers, and the drain. -/
def pkgGiven (h : Word) (cb : Snap) (c : Child) : List (Word × Snap) :=
  (List.range (Nat.min 2 (Snap.rounds cb))).map (fun u => (pkgTmma h cb u, pkgSnap cb c u)) ++ [(pkgDrain cb c, pkgDrainSnap cb)]
/-- A test over the children that are resident. -/
def State.overKids {α : Type} (s : State) (cb : Snap) (f : UnitSt → Child → Option α) : Option α :=
  (Snap.kids cb).findSome? fun c =>
    match s.driven with
    | some t => (s.crownAt t c.x c.y).bind fun u => f (s.unit u) c
    | none => none
/-- A chunk row of a delivered TMMA that lies in the weight buffer: the buffers of a child are faces (Table 10.13). -/
def bufRange (x : UnitSt) (h : Word) (cb : Snap) : Option Nat :=
  if tkind h == .mma then (opTests h cb).findSome? fun t => OpTest.badAt x { t with place := { t.place with wb := false } } (Snap.nch h cb) else none
/-- SCRATCH_RANGE: what a delivered command would meet on its child; the buffers lie in the faces, the drain in the south face
(Table 10.13). -/
def State.pkgRange (s : State) (h : Word) (cb : Snap) : Option Nat :=
  s.overKids cb fun x c =>
    ((pkgGiven h cb c).findSome? fun g => (snapRange x g.1 g.2).or (bufRange x g.1 g.2)).or
      (if regionOf (Snap.f cb 10 0 32) = .south then none else some (Snap.f cb 10 0 32))
/-- ACC_RANGE: the first slot out of range. -/
def State.pkgAcc (s : State) (cb : Snap) : Option Nat :=
  s.overKids cb fun x c =>
    let lim := Nat.min 32 x.accn
    if lim < Snap.f cb 9 40 5 + c.mc * c.nc then some (max (Snap.f cb 9 40 5) lim) else none
/-- BANK_CONFLICT. -/
def State.pkgBank (s : State) (h : Word) (cb : Snap) : Bool :=
  (s.overKids cb fun _ c => if (pkgGiven h cb c).any fun g => snapBanks g.1 g.2 then some () else none).isSome

/-! ### Actions (R466) -/
/-- Every access of a command has been performed, those in faces with the bytes standing there (R133), or the command was refused. -/
def QEnt.performed (q : QEnt) (g : Engine) : Bool :=
  q.sent.isEmpty && !(g.stage.any fun t => t.cmd = q.id) && !(g.log.any fun l => l.cmd = q.id) && (match g.walk with | some (_, c, _) => c != q.id | none => true) &&
    (q.ended || decide (cElems q.word q.snap ≤ q.next))
/-- The brim's engine e gets the entries. -/
def State.brimEnqueue (s : State) (e : EngId) (l : List QEnt) : State :=
  s.modUnit brim fun x => l.foldl (fun x q => x.enqueue e q) x
/-- Room in a brim queue. -/
def State.brimRoom (s : State) (e : EngId) (n : Nat) : Bool := decide (((s.unit brim).es.eng[e]).q.length + n ≤ 32)
/-- The command put back. -/
def State.setPkg (s : State) (p : PkgCmd) : State := s.modDev fun d => { d with pkg := some p }
/-- A command delivered to a child, with its record (source 12). -/
def State.deliver (s : State) (u : UnitId) (k : CubeCmd) : State :=
  (s.modUnit u fun x => { x with cube := { x.cube with deliv := x.cube.deliv ++ [k] } }).trace brim 12 false 0 k.hdr
    (BitVec.ofNat 64 (u.val % 8 + k.round % 65536 * 65536)) 1
/-- Every write to C that the output copies make has been performed (R364). -/
def State.outsDone (s : State) (p : PkgCmd) : Bool :=
  let g := (s.unit brim).es.eng[(2 : Fin 12)]
  g.q.all fun q => !p.outs.contains q.id || q.performed g
/-- The next action of the decomposition in the present brim clock; one that must wait holds itself and every later one. The barriers of
the children are initialised when the state of each stands on its crown (R55). Of a GANG member to which no block falls nothing else is
done: no counter is raised and PPROG.RND stays 0, which is the model's choice (log 24). -/
def State.pkgAct (s : State) (p : PkgCmd) : Option (State × PkgCmd) :=
  let cb := s.pkgEff p.hdr p.cb
  let kids := Snap.kids cb
  let P := Snap.rounds cb
  let now := (s.unit brim).ck.clk - 1
  match p.stage with
  | 0 =>
    let places := (Snap.places cb).map fun pl => s.driven.bind fun t => s.childPlace t pl.1.toNat pl.2.1.toNat
    if s.driven.isSome && places.any Option.isNone then none
    else
      let b := Snap.f cb 9 32 5
      let init := fun (x : UnitSt) =>
        { x with bars := (x.bars.set (Fin.ofNat 32 b) (Barrier.init 1)).set (Fin.ofNat 32 (b + 1)) (Barrier.init 1) }
      some ((places.filterMap id).foldl (fun s u => s.modUnit u init) s,
        if kids.isEmpty then { p with stage := 7 } else { p with stage := 1, idx := 0 })
  | 1 =>
    match kids[p.idx]? with
    | none => some (s, { p with stage := 2 })
    | some c =>
      match s.childAt c with
      | none => none
      | some u =>
        let fs := pkgFills cb c p.u
        let learned := p.u < 2 || p.completed.any fun e => e.1 == c.id && e.2.1 == p.u - 2 && decide (e.2.2 < now)
        if !learned || !s.brimRoom 0 fs.1.length || !s.brimRoom 1 fs.2.length then none
        else
          let s := (s.brimEnqueue 0 fs.1).brimEnqueue 1 fs.2
          let n : Fin 32 := Fin.ofNat 32 (Snap.f cb 9 32 5 + p.u % 2)
          let b := (s.unit u).bars[n]
          let cnt := (128 * c.mc + 128 * c.nc) * Snap.kp cb p.u * Snap.eb cb / 8
          let s := s.setBar u n (if b.badArrival cnt then { b with broken := true } else b.arrive cnt)
          some (s, if p.idx + 1 < kids.length then { p with idx := p.idx + 1 } else { p with stage := 2, idx := 0 })
  | 2 => some (s, { p with stage := 3, idx := 0 })
  | 3 =>
    match kids[p.idx]? with
    | none => some (s, { p with stage := 4, idx := 0 })
    | some c =>
      match s.childAt c with
      | none => none
      | some u =>
        let s := s.deliver u { hdr := pkgTmma p.hdr cb p.u, cb := pkgSnap cb c p.u, t := 0, delivered := true, round := p.u,
                               bar := Snap.f cb 9 32 5 + p.u % 2 }
        if p.idx + 1 < kids.length then some (s, { p with idx := p.idx + 1 })
        else some (s, { p with u := p.u + 1, idx := 0, stage := if p.u + 1 < P then 1 else 4,
                               stopped := p.stopping, stopping := false })
  | 4 =>
    match kids[p.idx]? with
    | none => some (s, { p with stage := 5, idx := 0 })
    | some c =>
      match s.childAt c with
      | none => none
      | some u =>
        let s := s.deliver u { hdr := pkgDrain cb c, cb := pkgDrainSnap cb, t := 0, delivered := true, round := P }
        some (s, if p.idx + 1 < kids.length then { p with idx := p.idx + 1 } else { p with stage := 5, idx := 0 })
  | 5 =>
    match p.completed.find? fun e => e.2.1 == P && !p.copied.contains e.1 && decide (e.2.2 + 1 < now) with
    | none => none
    | some e =>
      match kids.find? fun c => c.id == e.1 with
      | none => none
      | some c =>
        let os := pkgOuts cb c
        if !s.brimRoom 2 os.length then none
        else
          let id := (s.unit brim).es.nextId
          let s := s.brimEnqueue 2 os
          let p := { p with copied := p.copied ++ [c.id], outs := p.outs ++ (List.range os.length).map (id + ·) }
          some (s, if p.copied.length = kids.length then { p with stage := 6 } else p)
  | 6 =>
    if !s.outsDone p || Snap.f cb 10 48 1 = 0 then none
    else if !(allEngs.all fun e => s.brimRoom e 1) then none
    else
      let id := (s.unit brim).es.nextId
      some (s.modUnit brim fun x =>
        let x := { x with es := { x.es with nextId := id + 1, sy := x.es.sy ++ [SyOp.evinc id (BitVec.ofNat 12 (Snap.f cb 10 32 12)) 1] } }
        x.mark 0xFFF (.evinc id), { p with stage := 7, evid := some id })
  | _ => none
/-- DECOMPOSITION_ACTION: at most one action in a brim clock. -/
def State.decomposeRow (s : State) : State :=
  match s.dev.pkg with
  | none => s
  | some p =>
    let now := (s.unit brim).ck.clk
    if p.done || p.stopped || now ≤ p.clk then s
    else
      match s.pkgAct p with
      | none => s
      | some (t, q) => t.setPkg { q with clk := now }
/-- An EVINC of a unit still to be performed. -/
def EngineSide.evincPending (es : EngineSide) (id : Nat) : Bool :=
  es.sy.any fun o => match o with | .evinc i _ _ => i == id | _ => false
/-- PACKAGE_COMMAND_COMPLETE: in the clock after the EVINC is performed; with CEN = 0, after the last write to C (R364). -/
def State.pkgCompleteRow (s : State) : State :=
  match s.dev.pkg with
  | none => s
  | some p =>
    let wait := match p.evid with | some id => (s.unit brim).es.evincPending id | none => false
    let last := p.stage = 7 || (p.stage = 6 && Snap.f (s.pkgEff p.hdr p.cb) 10 48 1 = 0 && s.outsDone p)
    if p.done || !last || wait || (s.unit brim).ck.clk ≤ p.clk then s else s.setPkg { p with done := true }
/-- The delivered command that starts in the present run clock of its child (R265): the clock S of its condition for a
TMMA; for a TDRAIN the clock before S, in which it reads its first row group (R364). -/
def UnitSt.delivDue (x : UnitSt) : Option (CubeCmd × Nat) :=
  match x.cube.deliv with
  | [] => none
  | k :: _ =>
    let drain := tkind k.hdr == .drain
    let t := x.ck.run - (if drain then 3 else 4)
    let ok :=
      if drain then x.cube.cmds.all fun m => !m.delivered || (match x.cmdEnd m with | some e => decide (e ≤ x.ck.run) | none => false)
      else (x.bars[Fin.ofNat 32 k.bar]).phase != (k.round / 2 % 2 == 1)
    if ok && !x.busy { k with id := x.cube.nextId, t := t, ready := x.cube.ready } then some (k, t) else none
/-- DELIVERED_COMMAND_START. -/
def State.delivStartRow (s : State) (u : UnitId) : State :=
  match (s.unit u).delivDue with
  | none => s
  | some (k, t) =>
    s.modUnit u fun x =>
      let c : Cube := { x.cube with deliv := x.cube.deliv.drop 1 }
      { x with cube := c.start { k with id := x.cube.nextId, mode := x.cube.scsel, t := t, ready := x.cube.ready } }

end Sys2Proof.Machine
end

