-- ==== Sys2Proof/Machine/TileOps.lean ====
section
/-! DEFINITION. The CB slot (R238–R261) and the SC slot (R249–R251): issue tests of Table 10.15, what a header starts,
stops, resumes or reads, and the scale-latch writes. -/
namespace Sys2Proof.Machine

/-! ### CB -/
/-- A CB word: guard, causes and effect; while a delivered command is pending or running, CUBE_BUSY (R265). -/
def cbOp (s : State) (i : Instr) (g : Guard) (before after : List (Bool × BitVec 8 × Word)) (eff : State → State) : Op :=
  let x := s.me
  let h := wordOf i
  let held := !x.cube.deliv.isEmpty || x.cube.cmds.any (·.delivered)
  { slot := 8, word := h, nul := !x.guardOn .none g, fault := firstFault (before ++ [(held, cCUBE_BUSY, h)] ++ after), eff := eff }
/-- A CB issue record (source 2): the header and the progress word after the issue. -/
def State.traceCb (s : State) (h : Word) (crown : Bool) : State :=
  s.trace s.cur 2 true s.me.seq.pc.toNat h (if crown then s.me.cprog else s.pprog)
/-- A command that starts on the crown's cube (R245). -/
def cubeOp (s : State) (i : Instr) (g : Guard) : Op :=
  let x := s.me
  let h := wordOf i
  let cb := x.regs.cb
  let lim := Nat.min 32 x.accn
  let rng := snapRange x h cb
  cbOp s i g
    [(isBrim s.cur || snapIllegal h cb || (x.phase.on && tkind h == .mmap && !hdrZ h), cILLEGAL_OPERAND, h),
     (snapShape h cb, cTILE_SHAPE, h),
     (rng.isSome, cSCRATCH_RANGE, BitVec.ofNat 64 (rng.getD 0)),
     (0 < slotsOf h cb && lim < hdrAcc h + slotsOf h cb, cACC_RANGE, BitVec.ofNat 64 (max (hdrAcc h) lim)),
     (snapBanks h cb, cBANK_CONFLICT, h)]
    [(x.busy (x.cube.cmd h cb x.cube.scsel x.ck.run x.trap.tl), cCUBE_BUSY, h), (x.cube.stopped.isSome, cCUBE_STATE, h)]
    fun t => (t.modMe fun y => { y with cube := y.cube.start (y.cube.cmd h cb x.cube.scsel y.ck.run x.trap.tl) }).traceCb h true
/-- TMMA at CROWN level (R242). -/
def opTmma (a : CbMma) (s : State) : Op := cubeOp s (.tmma a) a.g
/-- TMMAS (R252). -/
def opTmmas (a : CbMma) (s : State) : Op := cubeOp s (.tmmas a) a.g
/-- TMMA.P (R253). -/
def opTmmaP (a : CbMmaP) (s : State) : Op := cubeOp s (.tmmaP a) a.g
/-- TZERO (R255). -/
def opTzero (a : CbSlots) (s : State) : Op := cubeOp s (.tzero a) a.g
/-- TDRAIN (R256). -/
def opTdrain (a : CbDrain) (s : State) : Op := cubeOp s (.tdrain a) a.g
/-- TLOAD (R256). -/
def opTload (a : CbSlots) (s : State) : Op := cubeOp s (.tload a) a.g
/-- TTRN (R257). -/
def opTtrn (a : CbTrn) (s : State) : Op := cubeOp s (.ttrn a) a.g
/-- TJOIN (R254). -/
def opTjoin (a : CbJoin) (s : State) : Op := cubeOp s (.tjoin a) a.g
/-- TJOIN.SUM (R254). -/
def opTjoinSum (a : CbJoin) (s : State) : Op := cubeOp s (.tjoinSum a) a.g

/-- The level of a CB word is not one that its slot accepts (R239). -/
def State.lvlBad (s : State) (l : TileLvl) : Bool :=
  match l with
  | .crown => isBrim s.cur
  | .package => !isBrim s.cur
  | .gang => !isBrim s.cur || !s.me.flag2 21
/-- TMMA at PACKAGE and GANG level (R262–R267, R363). -/
def pkgOp (s : State) (i : Instr) (g : Guard) (l : TileLvl) : Op :=
  let x := s.me
  let h := wordOf i
  let cb := x.regs.cb
  let e := s.pkgEff h cb
  let rng := s.pkgRange h e
  let acc := s.pkgAcc e
  let cntr := Snap.f cb 10 32 16
  cbOp s i g
    [(s.lvlBad l || pkgIllegal cb, cILLEGAL_OPERAND, h),
     (pkgShape cb, cTILE_SHAPE, h),
     (rng.isSome, cSCRATCH_RANGE, BitVec.ofNat 64 (rng.getD 0)),
     (acc.isSome, cACC_RANGE, BitVec.ofNat 64 (acc.getD 0)),
     (s.pkgBank h e, cBANK_CONFLICT, h)]
    [(s.dev.pkgBusy, cCUBE_BUSY, h), (s.dev.pkgStopped, cCUBE_STATE, h), (!s.placesOk cb, cTILE_PLACE, h),
     (Snap.f cb 10 48 1 = 1 && !(s.desc s.cur).inRange cntr, cCOUNTER_RANGE, BitVec.ofNat 64 cntr)]
    fun t => (t.setPkg { hdr := h, cb := cb, clk := x.ck.clk }).traceCb h false
/-- TMMA.PKG. -/
def opTmmaPkg (a : CbMmaP) (s : State) : Op := pkgOp s (.tmmaPkg a) a.g .package
/-- TMMA.GANG. -/
def opTmmaGang (a : CbMmaP) (s : State) : Op := pkgOp s (.tmmaGang a) a.g .gang

/-- TSTOP (R260, R261). -/
def opTstop (a : CbCtl) (s : State) : Op :=
  let h := wordOf (.tstop a)
  cbOp s (.tstop a) a.g [(s.lvlBad a.lvl, cILLEGAL_OPERAND, h)] [] fun t =>
    if a.lvl = .crown then (t.modMe fun y => { y with cube := y.cube.tstop y.ck.run }).traceCb h true
    else
      (match t.dev.pkg with
        | some p =>
          if p.done then t
          else if p.stopped then t.modDev fun d => { d with pkg := none }
          else if p.stage ≤ 3 then t.setPkg { p with stopping := true }
          else t
        | none => t).traceCb h false
/-- TRES (R261): the resumed command meets R248 like an issue. -/
def opTres (a : CbCtl) (s : State) : Op :=
  let x := s.me
  let h := wordOf (.tres a)
  let busy := match x.cube.stopped with | some k => x.busy (k.resumeAt x.ck.run) | none => false
  let none' := if a.lvl = .crown then x.cube.stopped.isNone else !s.dev.pkgStopped
  cbOp s (.tres a) a.g [(s.lvlBad a.lvl, cILLEGAL_OPERAND, h)]
    [(a.lvl == .crown && busy, cCUBE_BUSY, h), (none', cCUBE_STATE, h)] fun t =>
    if a.lvl = .crown then (t.modMe fun y => { y with cube := y.cube.tres y.ck.run }).traceCb h true
    else
      (match t.dev.pkg with
        | some p => t.setPkg { p with stopped := false, clk := t.me.ck.clk }
        | none => t).traceCb h false
/-- TPROG (R259): CPROG or PPROG at issue + 2, no latch. -/
def opTprog (a : CbProg) (s : State) : Op :=
  let h := wordOf (.tprog a)
  let v := if a.lvl = .crown then s.me.cprog else s.pprog
  cbOp s (.tprog a) a.g [(s.lvlBad a.lvl, cILLEGAL_OPERAND, h)] [] fun t =>
    (t.emit { slot := 8, dst := .s (r6 a.dst), lat := 2, val := v.setWidth 4096 }).traceCb h (a.lvl == .crown)

/-! ### SC: an access that lands for the reads of clock u + 4 is the last of clock u + 3 -/
/-- An SC word. -/
def scOp (s : State) (i : Instr) (g : Guard) (vr : List (Fin 64)) (faults : List (Bool × BitVec 8 × Word)) (eff : State → State) : Op :=
  { slot := 9, word := wordOf i, vr := vr, nul := !s.me.guardOn .none g, fault := firstFault faults, eff := eff }
/-- A scale-latch write with its record (source 13): the word and the landing clock. -/
def State.scLatch (s : State) (w : Word) (l : List (Bool × Bool × BitVec 512)) : State :=
  (s.modMe fun x => l.foldl (fun x e => x.later 3 (.scale e.1 e.2.1 e.2.2)) x).trace s.cur 13 true s.me.seq.pc.toNat w
    (BitVec.ofNat 64 (s.me.ck.clk + 4))
/-- SCW (R250): `south` is the second 64 bytes. -/
def opScw (a : ScW) (s : State) : Op :=
  let x := s.me
  let w := wordOf (.scw a)
  let off := ((x.rdA .none (r5 a.ar)).ea).toNat % 512
  let v := x.srcV .none a.a
  scOp s (.scw a) a.g (x.portV [a.a]) [(off % 128 != 0, cILLEGAL_OPERAND, w)] fun t =>
    let t := t.scLatch w [(false, a.bk, v.extractLsb' (8 * off) 512), (true, a.bk, v.extractLsb' (8 * off + 512) 512)]
    if a.pm then t.modMe fun y => y.postMod 9 .none (r5 a.ar) else t
/-- SCS. -/
def opScs (a : ScS) (s : State) : Op :=
  let w := wordOf (.scs a)
  scOp s (.scs a) a.g [] [] fun t => t.scLatch w [(false, a.bk, bytes64 a.e), (true, a.bk, bytes64 a.e)]
/-- SCZ. -/
def opScz (a : GuardOnly) (s : State) : Op :=
  let w := wordOf (.scz a)
  scOp s (.scz a) a.g [] [] fun t =>
    t.scLatch w [(false, false, bytes64 127), (false, true, bytes64 127), (true, false, bytes64 127), (true, true, bytes64 127)]
/-- SCSEL (R251): later cube commands take the mode. -/
def opScsel (a : ScSel) (s : State) : Op :=
  scOp s (.scsel a) a.g [] [] fun t => t.modMe fun y => { y with cube := { y.cube with scsel := a.mode } }

/-! ### Meanings -/
def execTmma (a : CbMma) (s : State) : Host.Outcome State Fault Refusal := runOp (opTmma a s) s
def execTmmaPkg (a : CbMmaP) (s : State) : Host.Outcome State Fault Refusal := runOp (opTmmaPkg a s) s
def execTmmaGang (a : CbMmaP) (s : State) : Host.Outcome State Fault Refusal := runOp (opTmmaGang a s) s
def execTmmas (a : CbMma) (s : State) : Host.Outcome State Fault Refusal := runOp (opTmmas a s) s
def execTmmaP (a : CbMmaP) (s : State) : Host.Outcome State Fault Refusal := runOp (opTmmaP a s) s
def execTzero (a : CbSlots) (s : State) : Host.Outcome State Fault Refusal := runOp (opTzero a s) s
def execTdrain (a : CbDrain) (s : State) : Host.Outcome State Fault Refusal := runOp (opTdrain a s) s
def execTload (a : CbSlots) (s : State) : Host.Outcome State Fault Refusal := runOp (opTload a s) s
def execTtrn (a : CbTrn) (s : State) : Host.Outcome State Fault Refusal := runOp (opTtrn a s) s
def execTjoin (a : CbJoin) (s : State) : Host.Outcome State Fault Refusal := runOp (opTjoin a s) s
def execTjoinSum (a : CbJoin) (s : State) : Host.Outcome State Fault Refusal := runOp (opTjoinSum a s) s
def execTstop (a : CbCtl) (s : State) : Host.Outcome State Fault Refusal := runOp (opTstop a s) s
def execTres (a : CbCtl) (s : State) : Host.Outcome State Fault Refusal := runOp (opTres a s) s
def execTprog (a : CbProg) (s : State) : Host.Outcome State Fault Refusal := runOp (opTprog a s) s
def execScw (a : ScW) (s : State) : Host.Outcome State Fault Refusal := runOp (opScw a s) s
def execScs (a : ScS) (s : State) : Host.Outcome State Fault Refusal := runOp (opScs a s) s
def execScz (a : GuardOnly) (s : State) : Host.Outcome State Fault Refusal := runOp (opScz a s) s
def execScsel (a : ScSel) (s : State) : Host.Outcome State Fault Refusal := runOp (opScsel a s) s

end Sys2Proof.Machine
end

