-- ==== Sys2Proof/Machine/Access.lean ====
section
/-! DEFINITION. Accesses performed at their ordering points (R118): HBM rows and their activation counters (R423, R443),
pages in motion (R153–R160, R441), exact cells (R114–R116, R428), atomics (R280), hotness and promotion (R149, R150). -/
namespace Sys2Proof.Machine

/-! ### Rows and pseudo-channels -/
/-- The key of a bank. -/
def bankKey (k pc bank : Nat) : Nat := (k * 128 + pc) * 16 + bank
/-- A bank. -/
def Health.bank (h : Health) (key : Nat) : Bank := (h.banks.find? fun b => b.key = key).getD { key := key }
/-- A bank replaced; banks stand in ascending order of their keys. -/
def setBank : List Bank → Bank → List Bank
  | [], b => [b]
  | x :: t, b => if x.key = b.key then b :: t else if b.key < x.key then b :: x :: t else x :: setBank t b
/-- The index of the lowest count among the sixteen entries, the lowest index among equals; an entry past the list has
count 0. -/
def minIdx (l : List (Nat × Nat)) : Nat :=
  let n := if l.length < 16 then 0 else l.foldl (fun m x => min m x.2) (l.headD (0, 0)).2
  l.findIdx fun x => x.2 = n
/-- The activation of a row in the counter cache, with the row's count (R443). -/
def bump (l : List (Nat × Nat)) (row : Nat) : List (Nat × Nat) × Nat :=
  let i := l.findIdx fun x => x.1 = row
  if i < l.length then
    let c := (l.getD i (0, 0)).2 + 1
    (l.set i (row, c), c)
  else
    let j := minIdx l
    let c := (l.getD j (0, 0)).2 + 1
    (if j < l.length then l.set j (row, c) else l ++ [(row, c)], c)
/-- The counts of a bank cleared: its entries keep their rows (R443). -/
def Bank.clear (b : Bank) : Bank := { b with cnts := b.cnts.map fun c => (c.1, 0) }
/-- The controller of a pseudo-channel of a crown. -/
def hbmCtl (k pc : Nat) : Fin 16 := Fin.ofNat 16 (2 * k + pc / 64)
/-- A 16-bit count that saturates, one higher. -/
def sat16 (x : BitVec 16) : BitVec 16 := if x = 0xFFFF then x else x + 1
/-- The status register of a controller (R425): HBM 0–15, LP6 16–23, CXL 24–27. -/
def Health.modCtl (h : Health) (c : Nat) (f : MemCtl → MemCtl) : Health :=
  if c < 16 then let i : Fin 16 := Fin.ofNat 16 c; { h with hbm := h.hbm.set i (f h.hbm[i]) }
  else if c < 24 then let i : Fin 8 := Fin.ofNat 8 (c - 16); { h with lp := h.lp.set i (f h.lp[i]) }
  else let i : Fin 4 := Fin.ofNat 4 (c - 24); { h with cxl := h.cxl.set i (f h.cxl[i]) }
/-- RFM: the neighbours of the oldest aggressor that a bank owes one for are refreshed, and its count becomes 0 (R444). -/
def Dev.serveRfm (d : Dev) (key : Nat) : Dev :=
  let b := d.hl.bank key
  match b.rfm with
  | [] => d
  | row :: t =>
    let pc := key / 16 % 128
    let b := { b with row := none, rfm := t, cnts := b.cnts.map fun c => if c.1 = row then (row, 0) else c,
                      refreshed := d.neighbours (key / 2048) pc (key % 16) row }
    { d with hl := ({ d.hl with banks := setBank d.hl.banks b } : Health).modCtl (hbmCtl (key / 2048) pc).val fun m =>
        { m with alert := true, nrfm := sat16 m.nrfm, last := BitVec.ofNat 64 (row * 2 ^ 16 + key % 16 * 2 ^ 12 + pc) } }
/-- Every RFM that a bank owes: a request that is queued for the bank waits until they have ended (R444). -/
def Dev.serveRfms (d : Dev) (key : Nat) : Dev := (d.hl.bank key).rfm.foldl (fun d _ => d.serveRfm key) d
/-- A request at an HBM address: its pseudo-channel is out of self-refresh, the RFMs that its bank owes have ended, and a row that is not
open is activated. -/
def Dev.act (d : Dev) (pa : Nat) : Dev :=
  match d.hbmRow pa with
  | none => d
  | some (k, pc, bank, row) =>
    let d := d.serveRfms (bankKey k pc bank)
    let b := d.hl.bank (bankKey k pc bank)
    let hl := { d.hl with selfRef := setDel d.hl.selfRef (128 * k + pc) }
    if b.row = some row then { d with hl := hl }
    else
      let r := bump b.cnts row
      let b := { b with row := some row, cnts := r.1,
                        rfm := if r.2 = (hl.hbm[hbmCtl k pc]).mth.toNat then b.rfm ++ [row] else b.rfm }
      { d with hl := { hl with banks := setBank hl.banks b } }
/-- A request for a byte range: each 256-byte block reaches one pseudo-channel (R111). -/
def Dev.actRange (d : Dev) (pa n : Nat) : Dev :=
  if n = 0 then d
  else (List.range ((pa + n - 1) / 256 - pa / 256 + 1)).foldl (fun d i => d.act (max pa ((pa / 256 + i) * 256))) d
/-- The pseudo-channel of an address is in self-refresh, or its bank owes an RFM: a request waits for the end (R437, R444). -/
def Dev.asleep (d : Dev) (pa : Nat) : Bool :=
  match d.hbmRow pa with
  | some (k, pc, bank, _) => d.hl.selfRef.contains (128 * k + pc) || !(d.hl.bank (bankKey k pc bank)).rfm.isEmpty
  | none => false

/-! ### Pages in motion -/
/-- The move whose source frame holds an address, before the switch of its chunk. -/
def Dev.movingAt (d : Dev) (pa : Nat) : Option Move :=
  d.card.moves.find? fun m => (m.st == .moving || m.st == .cutting) && !m.away (chunkOfPa pa) && frameOf m.src = frameOf pa
/-- The address in the destination to which the source forwards a write: the carder has read the chunk (Table 6.11). -/
def Dev.forwardTo (d : Dev) (pa : Nat) : Option (Move × Nat) :=
  (d.movingAt pa).bind fun m =>
    if m.chunks[chunkOfPa pa] = .notCopied then none else some (m, frameOf m.dst * 65536 + pa % 65536)
/-- The move replaced; a page is named by its leaf entry. -/
def Dev.setMove (d : Dev) (m : Move) : Dev :=
  { d with card := { d.card with moves := d.card.moves.map fun x => if x.leaf = m.leaf then m else x } }
/-- A byte range of n bytes split at 4 KiB boundaries, as addresses and lengths. -/
def spans (pa n : Nat) : List (Nat × Nat) :=
  (List.range (n / 4096 + 2)).filterMap fun i =>
    let lo := max pa ((pa / 4096 + i) * 4096)
    let hi := min (pa + n) ((pa / 4096 + i + 1) * 4096)
    if lo < hi then some (lo, hi - lo) else none
/-- The bytes of a range split at 4 KiB boundaries. -/
def pieces (pa : Nat) (bs : List Byte) : List (Nat × List Byte) :=
  (spans pa bs.length).map fun x => (x.1, (bs.drop (x.1 - pa)).take x.2)
/-- A byte as a read performed at its ordering point returns it. -/
def Dev.rdByte (d : Dev) (pa : Nat) : Byte := d.byte (d.home pa)
/-- Bytes read at their ordering points. -/
def Dev.load (d : Dev) (pa n : Nat) : List Byte := (spans pa n).flatMap fun x => d.bytes (d.home x.1) x.2
/-- A byte of the range is poisoned at its ordering point. -/
def Dev.loadPoison (d : Dev) (pa n : Nat) : Bool := (List.range n).any fun i => d.poisoned (d.home (pa + i)) 1
/-- A response of an expander that carries a poison indication counts in CXSTAT.UE (R419, R425). -/
def Dev.countCxl (d : Dev) (block : Nat) : Dev :=
  match d.tier (64 * block) with
  | .cxl p =>
    let i : Fin 4 := Fin.ofNat 4 p
    if d.mem.poison.contains block then { d with hl := { d.hl with cxl := d.hl.cxl.set i { d.hl.cxl[i] with ue := sat16 (d.hl.cxl[i]).ue } } } else d
  | _ => d
/-- The responses of a read of a range within one page. -/
def Dev.noteCxl (d : Dev) (pa n : Nat) : Dev :=
  match d.tier pa with
  | .cxl _ => (List.range ((pa + n - 1) / 64 - pa / 64 + 1)).foldl (fun d i => d.countCxl (pa / 64 + i)) d
  | _ => d
/-- The requests of a read of a range. -/
def Dev.loadAct (d : Dev) (pa n : Nat) : Dev :=
  (spans pa n).foldl (fun d x => let h := d.home x.1; (d.actRange h x.2).noteCxl h x.2) d
/-- A write within one chunk, forwarded to the destination when the carder has read the chunk (Table 6.11); a retired row of
the destination spoils the move (R438). -/
def Dev.store1 (d : Dev) (pa : Nat) (bs : List Byte) : Dev :=
  let h := d.home pa
  let d' := (d.actRange h bs.length).write h bs
  match d.forwardTo pa with
  | none => d'
  | some (m, q) =>
    let d' := if d.retiredAt q then d'.setMove { m with bad := true } else d'
    (d'.actRange q bs.length).write q bs
/-- A write performed at its ordering points. -/
def Dev.store (d : Dev) (pa : Nat) (bs : List Byte) : Dev := (pieces pa bs).foldl (fun d x => d.store1 x.1 x.2) d
/-- The blocks of a range poisoned at their ordering points; a write forwarded carries its poison (R155, R420). -/
def Dev.storePoison (d : Dev) (pa n : Nat) : Dev :=
  (spans pa n).foldl (fun d x =>
    let d := d.taint (d.home x.1) x.2
    match d.forwardTo x.1 with
    | some (_, q) => d.taint q x.2
    | none => d) d
/-- An atomic or FLUSHX at an address: a COPIED chunk becomes DIRTY (Table 6.11). -/
def Dev.dirty (d : Dev) (pa : Nat) : Dev :=
  match d.movingAt pa with
  | none => d
  | some m => if m.chunks[chunkOfPa pa] = .copied then d.setMove { m with chunks := m.chunks.set (chunkOfPa pa) .dirty } else d

/-! ### Exact reduction cells -/
/-- The physical address of a DRAM offset of a crown, when one names it (R106, R110). -/
def Dev.offsetPa (d : Dev) (k off : Nat) : Option Nat :=
  let base := (128 - d.ixsize) * 2 ^ 30
  if off < base then some (2 ^ 40 + k * 2 ^ 37 + off)
  else
    let n := max 1 d.ncrown
    let q := ceilDiv 4096 n
    let g := (off - base) / 4096
    let h := g % q * n + d.survivors.findIdx (· = k)
    if 4096 ≤ h || d.ixgroups ≤ g / q then none
    else some (g / q * 2 ^ 24 + (h ^^^ (g / q % 4096) ^^^ (g / q / 4096)) * 4096 + off % 4096)
/-- The physical address of an offset in a controller's own memory (R110, R111): the inverse of the interleaves; `none` for DRAM that no
address names. -/
def Dev.ctlPa (d : Dev) (c o : Nat) : Option Nat :=
  if c < 16 then d.offsetPa (c / 2) (o / 2 ^ 14 * 2 ^ 15 + c % 2 * 2 ^ 14 + o % 2 ^ 14)
  else some (2 ^ 41 + (o / 4096 * 8 + (c - 16)) * 4096 + o % 4096)
/-- The code of a cell's state. -/
def cellCode : CellSt → Nat
  | .finite => 0 | .posInf => 1 | .negInf => 2 | .nan => 3 | .satPos => 4 | .satNeg => 5
/-- The 64 bytes of a cell's spill entry (R116, log 34). -/
def RedCell.image (c : RedCell) : List Byte := (List.range 64).map (Config.spillByte c.pa (encFmt c.fmt).toNat (cellCode c.st) c.val)
/-- The lowest entry of the spill area of a controller that no cell takes. -/
def freeSpill (l : List RedCell) (c : Nat) : Nat :=
  ((List.range (l.length + 1)).find? fun i => !(l.any fun x => x.ctl = c && x.entry == some i)).getD 0
/-- The address of a spill entry of a controller, when one names it. -/
def Dev.spillPa (d : Dev) (c i : Nat) : Option Nat := d.ctlPa c (bitsOf (d.redspill c).toNat 16 48 * 65536 + 64 * i)
/-- A controller holds at most 256 cells: the least recently used one past them, if any, is spilled (R116). -/
def Dev.spill (d : Dev) (c : Nat) : Dev :=
  let l := d.mem.red
  match (l.filter fun x => x.ctl = c && x.entry.isNone)[256]? with
  | none => d
  | some x =>
    let i := freeSpill l c
    let d := { d with mem := { d.mem with red := l.map fun (y : RedCell) => if y.pa = x.pa then ({ y with entry := some i } : RedCell) else y } }
    match d.spillPa c i with
    | some p => d.putBytes p x.image
    | none => d
/-- A cell becomes the most recently used of its controller; from its spill entry it is reloaded (R116). -/
def Dev.useCell (d : Dev) (c : RedCell) : Dev :=
  ({ d with mem := { d.mem with red := { c with entry := none } :: d.mem.red.filter fun x => x.pa != c.pa } } : Dev).spill c.ctl
/-- The cells of a byte range are accessed. -/
def Dev.touch (d : Dev) (pa n : Nat) : Dev := (d.mem.red.filter fun c => c.hit pa n).foldl Dev.useCell d
/-- A free cell, or a free entry of the spill area, is left at a controller (R116, R428). -/
def Dev.cellRoom (d : Dev) (c : Nat) : Bool :=
  (d.mem.red.filter fun x => x.ctl = c).length < 256 + 1024 * bitsOf (d.redspill c).toNat 1 15
/-- FLUSHX: the rounded value goes to DRAM and the cell is freed (R114, R281). -/
def Dev.flush (d : Dev) (pa : Nat) : Dev :=
  let h := d.home pa
  let d := d.dirty pa
  match d.mem.cellOf h with
  | none => d
  | some c =>
    let d := { d with mem := { d.mem with red := d.mem.red.filter fun x => x.pa != c.pa } }
    (d.actRange c.pa c.bytes).putBytes c.pa (leBytes c.bytes c.read)

/-! ### Atomics (R121, R280) -/
/-- The value that an atomic writes; `none` for a failed CAS. -/
def amoNew (op : AmoOp) (fmt : Fmt) (wide : Bool) (ops : List Word) (old : Nat) : Option Nat :=
  let w := fmt.bits
  let o := fun i => (ops.getD i 0).toNat
  let a := o 0 % 2 ^ w
  match op with
  | .add => some ((old + a) % 2 ^ w)
  | .and => some (old &&& a)
  | .or => some (old ||| a)
  | .xor => some (old ^^^ a)
  | .swp => some a
  | .min => some (if readInt w fmt.isUnsigned a < readInt w fmt.isUnsigned old then a else old)
  | .max => some (if readInt w fmt.isUnsigned old < readInt w fmt.isUnsigned a then a else old)
  | .cas =>
    let e := if wide then o 1 * 2 ^ 64 + o 0 else a
    let n := if wide then o 3 * 2 ^ 64 + o 2 else o 1 % 2 ^ w
    if old = e then some n else none
  | .faddx => some (roundF fmt .rne false false 0 (addV .rne (decF fmt old) (decF fmt a)).1).1
/-- The bytes of an atomic's target. -/
def amoBytes (op : AmoOp) (fmt : Fmt) (wide : Bool) : Nat := if op == .cas && wide then 16 else fmt.bits / 8
/-- The refusal of a FADDX on a RED page (R428), in the order of R417. -/
def Dev.redBad (d : Dev) (pa : Nat) (fmt : Fmt) : Nat :=
  match d.ctl pa, d.tier pa with
  | _, .cxl _ => 0x45
  | none, _ => 0x45
  | some c, _ =>
    match d.mem.cellOf pa with
    | some x => if x.fmt = fmt then 0 else 0x44
    | none => if d.cellRoom c then 0 else 0x46
/-- An atomic performed: the device, the value returned, and the status. A poisoned target is not performed (R420). -/
def Dev.amo (d : Dev) (pa : Nat) (op : AmoOp) (fmt : Fmt) (wide red : Bool) (ops : List Word) : Dev × Nat × Nat :=
  let h := d.home pa
  let n := amoBytes op fmt wide
  let bad := if op == .faddx && red then d.redBad h fmt else 0
  if bad != 0 then (d, 0, bad)
  else if d.poisoned h n then ((d.actRange h n).noteCxl h n, 0, 0x40)
  else
    let old := d.rdNat h n
    let d := ((d.dirty pa).actRange h n).touch h n
    if op == .faddx && red then
      let c := match d.mem.cellOf h with
        | some c => c
        | none => ({ ctl := (d.ctl h).getD 0, pa := h, fmt := fmt, st := .finite, val := 0, z0 := false } : RedCell).load old
      (d.useCell (c.add ((ops.headD 0).toNat % 2 ^ fmt.bits)), old, 0)
    else
      match amoNew op fmt wide ops old with
      | some v => (d.write h (leBytes n v), old, 0)
      | none => (d, old, 0)

/-! ### The carder's queues (R151, R152) -/
/-- Brim scratch address of CARDFQ's queue. -/
def Carder.fqBase (c : Carder) : Nat := bitsOf c.fq.toNat 15 9 * 2 ^ 15
/-- HEAD of CARDFQ. -/
def Carder.fqHead (c : Carder) : Nat := bitsOf c.fq.toNat 32 12
/-- The free-frame queue is empty. -/
def Carder.fqEmpty (c : Carder) : Bool := c.fqHead == bitsOf c.fq.toNat 48 12
/-- Free records of the completion queue, those reserved by moves in progress taken off. -/
def Carder.cqRoom (c : Carder) : Nat :=
  1023 - (bitsOf c.cq.toNat 32 10 + 1024 - bitsOf c.cq.toNat 48 10) % 1024 - c.moves.length
/-- A frame taken from the free-frame queue. Of an entry with non-zero bits [15:0] or [63:52] the rest is the frame: the
model's choice, where R152 gives no response (log 58). -/
def Dev.takeFrame (d : Dev) : Nat × Dev :=
  let c := d.card
  let f := (d.rd64 (brimPa (c.fqBase + 8 * c.fqHead))).toNat % 2 ^ 52 / 65536 * 65536
  (f, { d with card := { c with fq := BitVec.ofNat 64 (setBits c.fq.toNat 32 12 (c.fqHead + 1)) } })
/-- MAXACT. -/
def Carder.maxAct (c : Carder) : Nat := bitsOf c.ctl.toNat 8 5
/-- EN. -/
def Carder.en (c : Carder) : Bool := c.ctl.getLsbD 0
/-- PAUSE. -/
def Carder.pause (c : Carder) : Bool := c.ctl.getLsbD 1

/-! ### Hotness -/
/-- The place of a frame in the hotness table (R149). -/
def Dev.hotIdx (d : Dev) (pa : Nat) : Option Nat :=
  match d.tier pa with
  | .lp6 => some ((pa - 2 ^ 41) / 65536)
  | .cxl _ => some (25165824 + (pa - 2 ^ 42) / 65536)
  | _ => none
/-- The address of a frame's counter, when the table lies in the LP6 tier. -/
def Dev.hotAddr (d : Dev) (pa : Nat) : Option Nat :=
  let b := bitsOf d.card.hot.toNat 16 36 * 65536
  match d.tier b with
  | .lp6 => (d.hotIdx pa).map (b + ·)
  | _ => none
/-- A frame's hotness counter. -/
def Dev.hotOf (d : Dev) (pa : Nat) : Nat :=
  match d.hotAddr pa with
  | some a => (d.byte a).toNat
  | none => 0
/-- A hotness counter set. -/
def Dev.setHot (d : Dev) (pa v : Nat) : Dev :=
  match d.hotAddr pa with
  | some a => d.write a [BitVec.ofNat 8 v]
  | none => d
/-- An access to a frame raises its counter, and may start an automatic promotion (R149, R150). -/
def Dev.heat (d : Dev) (part : Nat) (x : Xlat) (n : Nat) : Dev :=
  if !attrMig x.attr || x.large || n = 0 || (d.hotAddr x.pa).isNone then d
  else
    let v := Nat.min 255 (d.hotOf x.pa + ((x.pa + n - 1) / 64 - x.pa / 64 + 1))
    let d := d.setHot x.pa v
    let pth := bitsOf d.card.ctl.toNat 16 8
    if pth != 0 && pth ≤ v && attrScope x.attr == 1 && !attrPin x.attr && d.card.en && !d.card.pause &&
        d.card.moves.length < d.card.maxAct && !(d.card.moves.any fun m => m.leaf = x.leaf) && !d.card.fqEmpty && 0 < d.card.cqRoom then
      let t := d.takeFrame
      let d := t.2
      { d with card := { d.card with moves := d.card.moves ++
          [({ src := frameOf x.pa * 65536, dst := t.1, leaf := x.leaf, leafVal := d.rd64 (d.home x.leaf), part := BitVec.ofNat 3 part,
              hot := BitVec.ofNat 8 v, byMigr := false, cnt := none, accepted := d.card.mck } : Move)] } }
    else d

end Sys2Proof.Machine
end

