-- ==== Sys2Proof/Machine/Egress.lean ====
section
/-! DEFINITION. What leaves an engine: translation through the TLBs and the victim TLB (R142–R145), where an access goes and its
checks (R107, R147), requests that leave the device (R323, R326–R331, R448), and the writes of the trace channel (R338). -/
namespace Sys2Proof.Machine

/-! ### The device in the fabric, fields of records -/
/-- MYID. -/
def Dev.myid (d : Dev) : BitVec 14 := fld d.fab.cfg 0 14
/-- A message that leaves the device. -/
def State.send (s : State) (m : OutMsg) : State := s.modDev fun d => { d with fab := { d.fab with sent := d.fab.sent ++ [m] } }
/-- GTAG of a record. -/
def recGtag (tr : Vector Word 8) : BitVec 10 := fld (tr[3]) 54 10
/-- LEADER. -/
def recLeader (tr : Vector Word 8) : BitVec 14 := fld (tr[3]) 40 14
/-- GM. -/
def recGm (tr : Vector Word 8) : BitVec 14 := fld (tr[7]) 32 14
/-- GN1. -/
def recGn1 (tr : Vector Word 8) : BitVec 14 := fld (tr[7]) 46 14
/-- OWNER. -/
def recOwner (tr : Vector Word 8) : BitVec 12 := fld (tr[7]) 0 12
/-- GANG. -/
def recGang (tr : Vector Word 8) : Bool := (tr[2]).getLsbD 21
/-- BRIM. -/
def recBrim (tr : Vector Word 8) : Bool := (tr[2]).getLsbD 3
/-- GWPORTS. -/
def Dev.gwports (d : Dev) : BitVec 24 := fld d.fab.cfg 24 24
/-- The lowest-numbered port that is up in a destination's route set (R326). -/
def Dev.route (d : Dev) (dest : BitVec 14) : Option (Fin 24) :=
  let far := fld dest 10 4 != fld d.myid 10 4
  ((List.range 24).find? fun j => (d.fab.ports[Fin.ofNat 24 j]).up && d.gwports.getLsbD j == far).map (Fin.ofNat 24)

/-! ### TLBs (R142) -/
/-- The translation that the TLBs give an engine under an address space. -/
def UnitSt.xlatAs (x : UnitSt) (e : EngId) (asid : BitVec 12) (va : Nat) : Option Xlat :=
  (((x.es.eng[e]).tlb ++ x.es.victim.map VEnt.t).find? fun t => t.hits asid va).map fun t => t.xlat va
/-- The same under the context's own address space. -/
def UnitSt.xlat (x : UnitSt) (e : EngId) (va : Nat) : Option Xlat := x.xlatAs e (asidOf x.ck.xlbase) va
/-- A unit of 16 bytes lies in a scratch reservation of a record that stands on a unit. -/
def resHolds (brimU : Bool) (tr : Vector Word 8) (g : Nat) : Bool :=
  let w := (tr[3]).toNat
  let hit := fun (lo n : Nat) => decide (lo * 4096 ≤ g) && decide (g < (lo + n) * 4096)
  if brimU then hit (bitsOf w 0 10) (bitsOf w 10 10)
  else if g < 0x200000 then hit (bitsOf w 0 10) (bitsOf w 10 10)
  else decide (g < 0x400000) && hit (512 + bitsOf w 20 10) (bitsOf w 30 10)
/-- The records whose reservations stand on a unit: that of the resident context, and those kept there (R48, R143). -/
def State.recordsOn (s : State) (u : UnitId) : List (Vector Word 8) :=
  ((s.unit u).ctx.map Ctx.tr).toList ++
    (s.dev.sched.ents.filter fun f => !(f.tr[2]).getLsbD 20 && (f.st == .stopped || f.st == .stopping) && f.keep.contains u.val).map PoolEnt.tr
/-- A field of word 0 of an all-reduce group. -/
def ArGrp.f (g : ArGrp) (lo len : Nat) : Nat := bitsOf g.w0.toNat lo len
/-- LEN in bytes. -/
def ArGrp.len (g : ArGrp) : Nat := 8 * (g.f 3 5 + 1)
/-- CBUF and RBUF. -/
def ArGrp.bufs (g : ArGrp) : Nat × Nat := (bitsOf g.w1.toNat 0 24, bitsOf g.w1.toNat 24 24)
/-- Brim scratch that system software has configured: pools, the carder's queues, the buffers of all-reduce groups (Table 13.5), as first
byte and length. -/
def Dev.brimUsed (d : Dev) : List (Nat × Nat) :=
  ((List.range 16).map fun p => let x := d.sched.desc[Fin.ofNat 16 p]; (bitsOf x.w1.toNat 0 24, if x.en then 64 * x.nent else 0)) ++
    [(bitsOf d.card.fq.toNat 15 9 * 2 ^ 15, 2 ^ 15), (bitsOf d.card.cq.toNat 15 9 * 2 ^ 15, 2 ^ 15)] ++
    (d.fab.grps.filter fun g => g.2.w0.getLsbD 0).flatMap fun g => [(g.2.bufs.1, g.2.len), (g.2.bufs.2, g.2.len)]
/-- The 16-byte places of line n of a crown's I-cache, numbered behind those of the faces. -/
def icPlaces (n : Nat) : List Nat := (List.range 4).map (0x400000 + 4 * n + ·)
/-- The 16-byte places that a victim TLB may borrow: the ends of the two faces or of the brim scratch, outside every reservation
and every configured range, and on a crown the I-cache lines that no fill has used (R143). Which lines are borrowed first is the model's
choice (log 39). -/
def State.borrowable (s : State) (u : UnitId) : List Nat :=
  let unused := ((List.range Config.icacheLines).drop (s.unit u).es.icache.length).flatMap icPlaces
  let l := if isBrim u then (List.range 1024).map (0x100000 - 1 - ·)
    else ((List.range 1024).map (0x200000 - 1 - ·)) ++ (List.range 1024).map (0x400000 - 1 - ·)
  (l.filter fun g => !((s.recordsOn u).any fun r => resHolds (isBrim u) r g) &&
    !(isBrim u && s.dev.brimUsed.any fun r => decide (r.1 < 16 * g + 16) && decide (16 * g < r.1 + r.2))) ++
  if isBrim u then [] else unused
/-- An entry enters the victim TLB, of at most 256 lines of four entries: in a free place, else in that of the least recently used
(R143). -/
def State.victimIn (s : State) (u : UnitId) (t : Tlb) : State :=
  let v := (s.unit u).es.victim.filter fun y => y.t != t
  let lines := (v.map fun y => y.place / 4).foldl setIns []
  let free := (s.borrowable u).find? fun g => !(v.any fun y => y.place == g) && (lines.contains (g / 4) || decide (lines.length < 256))
  let v' := match free, v.getLast? with
    | some g, _ => { place := g, t := t } :: v
    | none, some z => { place := z.place, t := t } :: v.dropLast
    | none, none => []
  s.modUnit u fun x => { x with es := { x.es with victim := v' } }
/-- An entry enters a TLB. Of more than 256 entries the one taken in first, the last of the list, moves into the victim TLB: the model's
choice, since R142 gives a policy for the victim TLB alone (log 39). -/
def State.tlbIn (s : State) (u : UnitId) (e : EngId) (t : Tlb) : State :=
  let l := t :: ((s.unit u).es.eng[e]).tlb.filter fun y => y != t
  let s := s.modUnit u fun x => { x with es := { x.es with
    eng := x.es.eng.set e { x.es.eng[e] with tlb := l.take 256 }, victim := x.es.victim.filter fun y => y.t != t } }
  match l[256]? with
  | some o => s.victimIn u o
  | none => s
/-- An entry found in the victim TLB moves into the engine's TLB. -/
def State.tlbUse (s : State) (u : UnitId) (e : EngId) (asid : BitVec 12) (va : Nat) : State :=
  if ((s.unit u).es.eng[e]).tlb.any fun t => t.hits asid va then s
  else match (s.unit u).es.victim.find? fun y => y.t.hits asid va with
    | some y => s.tlbIn u e y.t
    | none => s
/-- The entries that a walk reads, in level order. -/
def walkReads (d : Dev) (va : Nat) : Nat → Nat → List Nat
  | 0, _ => []
  | n + 1, t =>
    let ea := t + bitsOf va (16 + 10 * n) 10 * 8
    if !d.tableFrame t then []
    else
      let h := d.home ea
      let e := (d.rd64 h).toNat
      h :: (if e.testBit 0 && !e.testBit 1 && !d.poisoned h 8 then walkReads d va n (bitsOf e 16 36 * 2 ^ 16) else [])
/-- The requests of a walk under a translation base, and event 12. -/
def State.walkNote (s : State) (u : UnitId) (xl : Word) (va : Nat) : State :=
  (s.modDev fun d => (walkReads d va 4 (bitsOf xl.toNat 16 36 * 2 ^ 16)).foldl (fun d ea => d.actRange ea 8) d).pmEvent u 12 1
/-- A translation enters an engine's TLB. -/
def State.tlbPut (s : State) (u : UnitId) (e : EngId) (asid : BitVec 12) (va : Nat) (x : Xlat) : State := s.tlbIn u e (x.entry asid va)
/-- A translation by an engine that does not wait for its walk: from the TLBs, else from a walk at once, whose leaf enters the
TLB; a miss and a walk are counted (R142, R343). -/
def State.engXlat (s : State) (u : UnitId) (e : EngId) (xl : Word) (va : Nat) : State × WalkRes :=
  let a := asidOf xl
  match (s.unit u).xlatAs e a va with
  | some x => (s.tlbUse u e a va, .ok x)
  | none =>
    let s := (s.pmEvent u 11 1).walkNote u xl va
    match s.dev.walk xl va with
    | .ok x => (s.tlbPut u e a va x, .ok x)
    | r => (s, r)
/-- An engine of a unit changed. -/
def State.modEng (s : State) (u : UnitId) (e : EngId) (f : Engine → Engine) : State :=
  s.modUnit u fun x => { x with es := { x.es with eng := x.es.eng.set e (f x.es.eng[e]) } }
/-- A command of an engine changed. -/
def State.modCmd (s : State) (u : UnitId) (e : EngId) (id : Nat) (f : QEnt → QEnt) : State :=
  s.modEng u e fun g => { g with q := g.q.map fun c => if c.id = id then f c else c }
/-- A command of an engine. -/
def State.cmdOf (s : State) (u : UnitId) (e : EngId) (id : Nat) : Option QEnt :=
  ((s.unit u).es.eng[e]).q.find? fun c => c.id = id

/-! ### Where an access goes -/
/-- A place: memory, the face of a crown, the brim scratch. -/
inductive Spot
  | mem (x : Xlat)
  | face (k : UnitId) (a : Nat)
  | brim (a : Nat)
  deriving DecidableEq, Repr
/-- What an address word leads to. -/
inductive Located
  | found (p : Spot)
  | miss (va : Nat)
  | wait
  deriving DecidableEq, Repr
/-- The crown that an address word of space 1 names (R273): one that holds the context, or for the brim core the task that it drives;
`none` while that is away (R48, R55). -/
def State.placeUnit (s : State) (u : UnitId) (aw : Word) : Option UnitId :=
  if isBrim u then
    match s.driven with
    | some t => s.childPlace t (awDx aw).toNat (awDy aw).toNat
    | none => none
  else
    let k := crownUnit ((u.val : Int) + awDx aw + 4 * awDy aw).toNat
    match (s.unit u).ctx with
    | some c => if s.holdsCtx k c.pool c.ent then some k else none
    | none => if k = u then some k else none
/-- Where an access of an engine goes. -/
def State.locate (s : State) (u : UnitId) (e : EngId) (aw : Word) (a : Nat) : Located :=
  match awSpace aw with
  | 0 =>
    match (s.unit u).xlat e (a % 2 ^ 56) with
    | some x => .found (.mem x)
    | none => .miss (a % 2 ^ 56)
  | 1 =>
    match s.placeUnit u aw with
    | some k => .found (.face k a)
    | none => .wait
  | _ => .found (.brim a)
/-- The kinds of accesses that R147 tells apart. -/
inductive AKind | read | stream | write | atomic
  deriving DecidableEq, Repr
/-- The refusal of an access by its translation, 0 for none: PA_RANGE, CMP_ACCESS, RO_WRITE (R107, R147, R417, R426). -/
def State.refusal (s : State) (u : UnitId) (k : AKind) (x : Xlat) (n : Nat) : Nat :=
  let t := s.dev.tier x.pa
  let view := match attrScope x.attr, t with
    | 1#2, .hbmDirect _ => true
    | 0#2, .hbmDirect c => c != u.val
    | 0#2, _ => true
    | _, _ => false
  if t == .none || s.dev.tier (x.pa + n - 1) == .none || view then 0x43
  else if attrCmp x.attr && k != .stream then 0x42
  else if attrRo x.attr && (k == .write || k == .atomic) then 0x41
  else 0
/-- The energy class of a copy by its tier (Table 12.7). -/
def tierClass : Tier → Fin 16
  | .hbmIx | .hbmDirect _ => 10
  | .lp6 => 11
  | .cxl _ | .host => 12
  | .fabric => 13
  | _ => 14

/-! ### Requests that leave the device -/
/-- WIN[i]. -/
def Fabric.win (f : Fabric) (i : Nat) : Win := smGet {} f.wins i
/-- Fields of word 0 of a window (Table 13.3). -/
def Win.f (w : Win) (lo len : Nat) : Nat := bitsOf w.w0.toNat lo len
/-- A partition's configuration: EN and OWNER of PART agree with the window (R328, R450). -/
def Dev.winSound (d : Dev) (w : Win) : Bool :=
  let p := (d.part[Fin.ofNat 8 (w.f 5 3)]).toNat
  p.testBit 20 && bitsOf p 8 12 == w.f 8 12
/-- Start of a window: an offset of the aperture, or a physical address. -/
def Win.base (w : Win) : Nat := bitsOf w.w2.toNat 16 36 * 65536
/-- Size of a window in bytes. -/
def Win.size (w : Win) : Nat := bitsOf w.w3.toNat 0 32 * 65536
/-- The one valid import window that holds an aperture offset (R329, R450). -/
def Dev.importOf (d : Dev) (off : Nat) : Option Win :=
  match (d.fab.wins.map Prod.snd).filter fun w =>
      w.f 0 1 = 1 && w.f 1 1 = 1 && d.winSound w && w.base ≤ off && off < w.base + w.size with
  | [w] => some w
  | _ => none
/-- The bit of PERM that an operation needs: 0 read, 1 write, 2 atomic. -/
def remPerm : RemoteOp → Nat
  | .read _ => 0
  | .write _ _ | .flush => 1
  | .amo _ _ _ _ _ => 2
/-- Bytes of a request. -/
def remLen : RemoteOp → Nat
  | .read n => n
  | .write bs _ => bs.length
  | .amo op fmt wide _ _ => amoBytes op fmt wide
  | .flush => 1
/-- Poisoned data goes with a request. -/
def remPoison : RemoteOp → Bool
  | .write _ p => p
  | _ => false
/-- A request leaves for the fabric, or its egress refusal (R329, R448, R453). -/
def State.fabSend (s : State) (u : UnitId) (e : EngId) (cmd elt : Nat) (x : Xlat) (op : RemoteOp) (wr : Bool) (side : Bool := false) : State × Nat :=
  let off := x.pa - 2 ^ 50
  match s.dev.importOf off with
  | none => (s, 0x51)
  | some w =>
    let p := s.desc u
    if w.f 8 12 != p.owner.toNat || w.f 5 3 != p.part || !(w.f 2 3).testBit (remPerm op) || w.base + w.size < off + remLen op then (s, 0x51)
    else
      let dest : BitVec 14 := BitVec.ofNat 14 (w.f 20 14)
      let self := dest == s.dev.myid
      match if self then some 0 else s.dev.route dest with
      | none => (s, 0x55)
      | some j =>
        let id := s.dev.fab.nextReq
        let r : FabReq := { port := j, id := id, dest := dest, src := s.dev.myid, owner := p.owner, key := w.key,
                            rwin := BitVec.ofNat 12 (w.f 34 12), off := off - w.base, op := op }
        let s := s.modDev fun d => { d with fab := { d.fab with nextReq := id + 1, out := d.fab.out ++
          [({ id := id, u := u, e := e, cmd := cmd, elt := elt, host := false, port := if self then none else some j,
              win := BitVec.ofNat 12 (w.f 34 12), wr := wr, poison := remPoison op,
              pa := x.pa, va := x.va, asid := x.asid, large := x.large, side := side } : OutReq)] } }
        (if self then { s with agenda := s.agenda ++ [.fabricIngress r] } else s.send (.req r), 0)
/-- A request goes to the host; behind a write a zero-length read whose completion marks it performed (R323). -/
def State.hostSend (s : State) (u : UnitId) (e : EngId) (cmd elt : Nat) (x : Xlat) (n : Nat) (data : Option (List Byte)) (poison side : Bool := false) : State :=
  let id := s.dev.fab.nextReq
  let addr := x.pa % 2 ^ 51
  let s := s.modDev fun d => { d with fab := { d.fab with nextReq := id + 1, out := d.fab.out ++
    [({ id := id, u := u, e := e, cmd := cmd, elt := elt, host := true, port := none, wr := data.isSome, poison := poison,
        pa := x.pa, va := x.va, asid := x.asid, large := x.large, side := side } : OutReq)] } }
  match data with
  | some bs => (s.send (.host id true addr bs.length bs)).send (.host id false addr 0 [])
  | none => s.send (.host id false addr n [])

/-- An atomic on host memory goes out as one request, which the host performs indivisibly; its completion returns the old value
(R121, log 35). -/
def State.hostAmo (s : State) (u : UnitId) (e : EngId) (cmd : Nat) (x : Xlat) (op : RemoteOp) (side : Bool := false) : State :=
  let id := s.dev.fab.nextReq
  (s.modDev fun d => { d with fab := { d.fab with nextReq := id + 1, out := d.fab.out ++
    [({ id := id, u := u, e := e, cmd := cmd, elt := 0, host := true, port := none, wr := true, pa := x.pa, va := x.va, asid := x.asid, large := x.large,
        side := side } : OutReq)] } }).send
    (.hostAmo id (x.pa % 2 ^ 51) op)

/-- The request that was sent last changed. -/
def State.tagReq (s : State) (f : OutReq → OutReq) : State :=
  s.modDev fun d => { d with fab := { d.fab with out := d.fab.out.map fun r => if r.id + 1 = d.fab.nextReq then f r else r } }

/-! ### Writes of an engine that belong to no command -/
/-- The partition of the context on a unit. -/
def State.partOf (s : State) (u : UnitId) : Nat := (s.desc u).part
/-- An engine or pipeline of a unit has read poison: the unit's recorder freezes (R422). -/
def State.sees (s : State) (u : UnitId) (p : Bool) : State := if p then s.modUnit u UnitSt.freeze else s
/-- An atomic of a unit's engine performed in the device's memory: the value that it returns, and its status. A poisoned target is an
access too (R149, R420, R422). -/
def State.amoLocal (s : State) (u : UnitId) (x : Xlat) (op : AmoOp) (fmt : Fmt) (wide red : Bool) (ops : List Word) : State × Nat × Nat :=
  let r := s.dev.amo x.pa op fmt wide red ops
  if r.2.2 = 0 || r.2.2 = 0x40 then
    (({ s with dev := r.1.heat (s.partOf u) x (amoBytes op fmt wide) } : State).sees u (r.2.2 = 0x40), r.2)
  else (s, r.2)
/-- A write performed at the ordering point of memory inside the device. -/
def State.memPut (s : State) (u : UnitId) (x : Xlat) (bs : List Byte) (poison : Bool) : State :=
  s.modDev fun d =>
    let d := ((d.store x.pa bs).touch (d.home x.pa) bs.length).heat (s.partOf u) x bs.length
    if poison then d.storePoison x.pa bs.length else d
/-- The longest naturally aligned request of at most 256 bytes at an address (R331). -/
def reqLen (pa n : Nat) : Nat := ([256, 128, 64, 32, 16, 8, 4, 2].find? fun k => k ≤ n && pa % k = 0).getD 1
/-- Bytes split into such requests, with their offsets. -/
def splitReqs (pa : Nat) : Nat → Nat → List Byte → List (Nat × List Byte)
  | 0, _, _ => []
  | f + 1, o, bs =>
    if bs.isEmpty then []
    else
      let k := reqLen (pa + o) bs.length
      (o, bs.take k) :: splitReqs pa f (o + k) (bs.drop k)
/-- The translation of an address a few bytes on, within its page. -/
def Xlat.plus (x : Xlat) (o : Nat) : Xlat := { x with pa := x.pa + o, va := x.va + o }
/-- Bytes within one 4 KiB block written by an engine under a translation base, for no command: the trace channel, a record of a
stopped context. The cause of a write that faults or is refused, 0 for none (R147, R312, R331, R338). -/
def State.engWrite1 (s : State) (u : UnitId) (e : EngId) (xl : Word) (va : Nat) (bs : List Byte) : State × Nat :=
  let r := s.engXlat u e xl (va % 2 ^ 56)
  match r.2 with
  | .miss => (r.1, 0x30)
  | .table _ => (r.1, 0x31)
  | .ok x =>
    let s := r.1
    let st := s.refusal u .write x bs.length
    if st != 0 then (s, st)
    else
      match s.dev.tier x.pa with
      | .fabric => (splitReqs x.pa bs.length 0 bs).foldl (fun t p =>
          if t.2 != 0 then t else t.1.fabSend u e 0 0 (x.plus p.1) (.write p.2 false) true true) (s, 0)
      | .host => (s.hostSend u e 0 0 x bs.length (some bs) false true, 0)
      | _ => (s.memPut u x bs false, 0)
/-- The same of any bytes. -/
def State.engWrite (s : State) (u : UnitId) (e : EngId) (xl : Word) (va : Nat) (bs : List Byte) : State × Nat :=
  (pieces va bs).foldl (fun t p => if t.2 != 0 then t else t.1.engWrite1 u e xl p.1 p.2) (s, 0)
/-- A write of such a kind by the engines of a unit is outstanding. -/
def State.sideOut (s : State) (u : UnitId) : Bool := s.dev.fab.out.any fun r => r.u = u && r.side

/-! ### Records written (R340, R442) -/
/-- A record write of the trace channel that does not translate: the RANGE entry that names its page (R442). -/
def State.traceFault (s : State) (u : UnitId) (va : Nat) : State :=
  let own : BitVec 12 := fld (s.unit u).obs.rctl 32 12
  match (List.range 16).find? fun p => (s.dev.sched.desc[Fin.ofNat 16 p]).owner == own with
  | none => s
  | some p =>
    let ent := match (s.unit u).ctx with | some c => c.ent.toNat | none => 0
    s.modDev fun d => d.mothPut (d.sched.desc[Fin.ofNat 16 p]).part
      (0x4A * 2 ^ 48 + own.toNat * 2 ^ 36 + p * 2 ^ 32 + ent * 2 ^ 24 + unitCode u * 2 ^ 20)
      (BitVec.ofNat 64 (va % 2 ^ 56 / 65536 * 65536)) 65536 (BitVec.ofNat 64 ((s.unit u).ck.scyc % 2 ^ 48))
/-- Records written to TBUF by the trace channel of ce10 under RXL, or dropped (R338, Tables 14.2–14.4); a write that does not translate freezes the recorder and loses
the rest (R442). -/
def State.putRecs (s : State) (u : UnitId) (scyc : Nat) : List TraceRec → State
  | [] => s
  | r :: rs =>
    let o := (s.unit u).obs
    let cap := 128 * (bitsOf o.tbuf.toNat 0 12 + 1)
    let va := bitsOf o.tbuf.toNat 12 44 * 4096 + o.thead.toNat % cap * 32
    let lose := fun (s : State) (n : Nat) => s.modUnit u fun x => { x with obs := { x.obs with tlost := x.obs.tlost + BitVec.ofNat 64 n } }
    if !o.rctl.getLsbD 17 && cap ≤ o.thead.toNat then (lose s 1).putRecs u scyc rs
    else
      let w := s.engWrite u 10 o.rxl va (r.bytes u scyc)
      if w.2 = 0 then
        State.putRecs (w.1.modUnit u fun x => { x with obs := { x.obs with thead := x.obs.thead + 1 } }) u scyc rs
      else ((lose w.1 (rs.length + 1)).modUnit u UnitSt.freeze).traceFault u va

end Sys2Proof.Machine
end

