-- ==== Sys2Proof/Machine/Ending.lean ====
section
/-! DEFINITION. Records posted and entries freed (R300–R305, R388), the energy account (R309), and the end of a context, with the
entries of a kill (R377, R403, R463). -/
namespace Sys2Proof.Machine

/-! ### Records (R300, R301, R388) -/
/-- The signed place offsets of a record (R301). -/
def recPx (tr : Vector Word 8) : Int := signedOf 3 (bitsOf (tr[2]).toNat 5 3)
/-- PY. -/
def recPy (tr : Vector Word 8) : Int := signedOf 2 (bitsOf (tr[2]).toNat 8 2)
/-- FIX. -/
def recFix (tr : Vector Word 8) : Bool := (tr[2]).getLsbD 4
/-- The waits of a record: counter and threshold (R306). -/
def recWaits (tr : Vector Word 8) : List (Nat × BitVec 32) :=
  (List.range 4).filterMap fun i =>
    if (tr[6]).getLsbD (48 + i) then
      some (bitsOf (tr[6]).toNat (12 * i) 12, fld (if i < 2 then tr[4] else tr[5]) (32 * (i % 2)) 32)
    else none
/-- DV: DCNTR rises at completion. -/
def recDv (tr : Vector Word 8) : Bool := (tr[2]).getLsbD 22
/-- DCNTR. -/
def recDcntr (tr : Vector Word 8) : Nat := bitsOf (tr[6]).toNat 52 12
/-- The check of R300, R301 and R388 of a record posted into a pool. -/
def recordBad (p : PoolDesc) (tr : Vector Word 8) : Bool :=
  let w := fun (i : Fin 8) => (tr[i]).toNat
  !p.en || bitsOf (w 0) 56 8 != 0 || bitsOf (w 0) 0 3 != 0 || bitsOf (w 1) 0 4 != 0 || bitsOf (w 2) 24 8 != 0 ||
    bitsOf (w 7) 60 4 != 0 || bitsOf (w 7) 12 4 != 0 || recOwner tr != p.owner || 32 < bitsOf (w 2) 10 6 ||
    (recGang tr && decide ((recGn1 tr).toNat < (recGm tr).toNat)) ||
    (if recBrim tr then
      bitsOf (w 2) 0 3 != 0 || bitsOf (w 2) 4 12 != 0 || (w 2).testBit 23 || bitsOf (w 3) 30 10 != 0 ||
        256 < bitsOf (w 3) 0 10 + bitsOf (w 3) 10 10
    else
      512 < bitsOf (w 3) 0 10 + bitsOf (w 3) 10 10 || 512 < bitsOf (w 3) 20 10 + bitsOf (w 3) 30 10 ||
        (if recFix tr then bitsOf (w 2) 5 3 == 4 || bitsOf (w 2) 8 2 == 2 else bitsOf (w 2) 5 5 != 0)) ||
    (recWaits tr).any (fun x => !p.inRange x.1) || (recDv tr && !p.inRange (recDcntr tr))
/-- An entry of a pool in the brim scratch (Table 12.2): the record stands in the entry array. -/
def Dev.putRecord (d : Dev) (p : Fin 16) (ent : Nat) (tr : Vector Word 8) : Dev :=
  d.write (brimPa (bitsOf (d.sched.desc[p]).w1.toNat 0 24 + 64 * ent)) (tr.toList.flatMap fun w => leBytes 8 w.toNat)
/-- A record posted: it belongs to its poster's gang (R316), and its place in the post order is fixed (R304). -/
def Dev.post (d : Dev) (p : Fin 16) (ent : BitVec 8) (tr : Vector Word 8) : Dev :=
  let n := d.sched.posts
  let d := d.putRecord p ent.toNat tr
  { d with sched := { d.sched with posts := n + 1, ents := d.sched.ents.map fun x =>
      if x.pool = p && x.ent == ent && x.st == .taken then { x with st := .posted, tr := tr, order := n, aged := 0 } else x } }
/-- The crown task that a brim context's most recent TPOST posted is the one that it drives (R363). -/
def Dev.drive (d : Dev) (b : Fin 16 × BitVec 8) (p : Fin 16) (ent : BitVec 8) : Dev :=
  { d with sched := { d.sched with ents := d.sched.ents.map fun x =>
      if x.pool = p && x.ent == ent then { x with brimOf := some b } else if x.brimOf == some b then { x with brimOf := none } else x } }
/-- An entry frees: no task is driven from it any more (R363), and no rectangle is held for it (R310). -/
def Dev.freeEntry (d : Dev) (p : Fin 16) (ent : BitVec 8) : Dev :=
  let l := d.sched.ents.filter fun x => !(x.pool == p && x.ent == ent)
  { d with sched := { d.sched with
      ents := l.map fun x => if x.brimOf == some (p, ent) then { x with brimOf := none } else x,
      heldRect := d.sched.heldRect.filter fun h => !(h.2.1 == p && h.2.2 == ent) } }
/-- A record as the poster's gang membership makes it: every task that a gang's contexts post carries the gang's GANG, GTAG,
LEADER, GM and GN1, and no other crown task carries GANG (R300, R316). -/
def gangRecord (me : Option Ctx) (tr : Vector Word 8) : Vector Word 8 :=
  match me with
  | some c =>
    if recGang c.tr then
      let w3 := setBits (setBits (tr[3]).toNat 40 14 (recLeader c.tr).toNat) 54 10 (recGtag c.tr).toNat
      let w7 := setBits (setBits (tr[7]).toNat 32 14 (recGm c.tr).toNat) 46 14 (recGn1 c.tr).toNat
      ((tr.set 2 (tr[2] ||| (1#64 <<< 21))).set 3 (BitVec.ofNat 64 w3)).set 7 (BitVec.ofNat 64 w7)
    else if recBrim tr then tr else tr.set 2 (tr[2] &&& ~~~(1#64 <<< 21))
  | none => if recBrim tr then tr else tr.set 2 (tr[2] &&& ~~~(1#64 <<< 21))
/-- The entries of a pool that are occupied. -/
def Sched.taken (c : Sched) (p : Fin 16) : List Nat := (c.ents.filter fun e => e.pool = p).map fun e => e.ent.toNat
/-- The lowest free entry of a pool. -/
def Sched.freeEnt (c : Sched) (p : Fin 16) : Option Nat :=
  (List.range (c.desc[p]).nent).find? fun e => !(c.taken p).contains e
/-- The pending record of a slot is posted, refused, or waits for an entry. -/
def State.launch (s : State) (p : Fin 16) : State :=
  let sl := s.dev.sched.slots[p]
  let d := s.dev.sched.desc[p]
  let put := fun (s : State) (x : LaunchSlot) => s.modDev fun d => { d with sched := { d.sched with slots := d.sched.slots.set p x } }
  if !d.en || (s.dev.sched.freeEnt p).isSome && recordBad d sl.w then put s { sl with pending := false, refused := true }
  else
    match s.dev.sched.freeEnt p with
    | none => put s { sl with pending := true, refused := false }
    | some n =>
      let s := put s { sl with pending := false, refused := false }
      let e : PoolEnt := { pool := p, ent := BitVec.ofNat 8 n, st := .taken, base := 8 }
      s.modDev fun d => ({ d with sched := { d.sched with ents := d.sched.ents ++ [e] } } : Dev).post p (BitVec.ofNat 8 n) (gangRecord none sl.w)
/-- The launches that wait for an entry go on where one is free (R305), at the end of a brim clock: the launch window posts last (R304). -/
def State.relaunch (s : State) : State :=
  (List.range 16).foldl (fun s i => let p : Fin 16 := Fin.ofNat 16 i; if (s.dev.sched.slots[p]).pending then s.launch p else s) s
/-- An entry frees. -/
def State.endEntry (s : State) (p : Fin 16) (n : BitVec 8) : State := s.modDev fun d => d.freeEntry p n

/-! ### Entries and units -/
/-- An entry of the pools changed. -/
def State.modEnt (s : State) (p : Fin 16) (n : BitVec 8) (f : PoolEnt → PoolEnt) : State :=
  s.modDev fun d => { d with sched := { d.sched with ents := d.sched.ents.map fun x => if x.pool = p && x.ent == n then f x else x } }
/-- An entry of the pools. -/
def State.entOf (s : State) (p : Fin 16) (n : BitVec 8) : Option PoolEnt := s.dev.sched.ents.find? fun x => x.pool = p && x.ent == n
/-- The unit of a place: crowns 0 to 7, 8 for the brim core. -/
def placeU (k : Nat) : UnitId := Fin.ofNat 9 k
/-- The engines at dispatch: empty queues; the TLBs stay (R145). -/
def Engine.fresh (g : Engine) : Engine := { tlb := g.tlb }
/-- A request of a command or fill of a unit's engines is outstanding. -/
def State.inFlight (s : State) (u : UnitId) : Bool := s.dev.fab.out.any fun r => r.u = u && r.gang.isNone && !r.side
/-- A unit without a context. -/
def UnitSt.release (x : UnitSt) : UnitSt :=
  { x with status := .idle, ctx := none, ck := { x.ck with preq := false, rprio := 0, reqClks := 0 },
           cube := { scales := x.cube.scales }, es := { x.es with eng := x.es.eng.map Engine.fresh, sy := [], fetchMiss := none } }

/-! ### The end of a context (R51, R309) -/
/-- The place of an entry's unit: crowns 0 to 7, 8 for the brim core. -/
def PoolEnt.spots (e : PoolEnt) : List Nat := if e.units.isEmpty then e.keep else e.units
/-- The units of a context in the order of its rectangle, with what each holds: what is kept with the entry, else the unit itself. -/
def State.holders (s : State) (e : PoolEnt) : List (UnitId × Bool × UnitSt) :=
  e.spots.zipIdx.map fun k =>
    match e.saved.find? fun p => p.1 = k.2 with
    | some p => (placeU k.1, true, p.2)
    | none =>
      let x := s.unit (placeU k.1)
      match e.coming.find? fun p => p.1 = k.2 with
      | some p => (placeU k.1, false, { p.2 with killScyc := x.killScyc })
      | none => (placeU k.1, false, x)
/-- The energy account's word of a context. -/
def acctVa (p : PoolDesc) (tr : Vector Word 8) : Nat := bitsOf p.w2.toNat 24 40 * 65536 + bitsOf (tr[7]).toNat 16 16 * 8
/-- A value added to a word of memory as n64, through a unit's engine 0 under a translation base (R309); an add that does not
translate or is refused is dropped. -/
def State.addVa (s : State) (u : UnitId) (xl : Word) (va : Nat) (v : Word) : State :=
  let r := s.engXlat u 0 xl (va % 2 ^ 56)
  match r.2 with
  | .ok x =>
    let s := r.1
    if s.refusal u .atomic x 8 != 0 then s
    else
      match s.dev.tier x.pa with
      | .fabric => (s.fabSend u 0 0 0 x (.amo .add .n64 false false [v]) true true).1
      | .host => s.hostAmo u 0 0 x (.amo .add .n64 false false [v]) true
      | _ => (s.amoLocal u x .add .n64 false false [v]).1
  | _ => r.1
/-- The gang of a gang's member ends with its brim context, but for one that has died and has yet to learn of the abort (R459). -/
def Dev.endBrim (d : Dev) (tr : Vector Word 8) : Dev :=
  let l := d.fab.gangs.filter fun g => !(recGang tr && g.gtag == recGtag tr && g.owner == recOwner tr) || (g.died && !g.aborted)
  { d with fab := { d.fab with gangs := l } }
/-- The context ends: its energy is accounted, its units and its entry free. -/
def State.endContext (s : State) (p : Fin 16) (n : BitVec 8) (done : Bool) : State :=
  match s.entOf p n with
  | none => s
  | some e =>
    let d := s.dev.sched.desc[p]
    let s := if done && recDv e.tr then s.modDev fun v => v.raise (recDcntr e.tr) 1 else s
    let s := (s.holders e).foldl (fun s h =>
      let t := (s.modUnit h.1 fun x => { x with ctx := h.2.2.ctx }).addVa h.1 h.2.2.ck.xlbase (acctVa d e.tr) h.2.2.ck.ectr
      t.modUnit h.1 fun x => if h.2.1 then { x with ctx := (s.unit h.1).ctx } else x.release) s
    (if recBrim e.tr then s.modDev fun v => v.endBrim e.tr else s).endEntry p n

/-! ### Kills (R377, R403, R463) -/
/-- The TILE entry of a discarded cube command: its next step's path, its slots, and the K that is left. -/
def State.discardTile (s : State) (u : UnitId) (k : CubeCmd) (cause : Nat) : MothArg :=
  let i := stepIdx k.hdr k.cb k.next
  let c := Snap.c k.hdr k.cb
  s.tileEntry u none i (i.2.2 * c) (Snap.k k.cb - 1) (hdrAcc k.hdr) (Snap.mb k.cb * Snap.nb k.cb * Snap.wq k.cb) 2 cause
/-- The width of the word that FLUSHX rounds, as an engine translates it: that of the cell bound there, 4 when none is (R403). -/
def State.flushWidth (s : State) (u : UnitId) (e : EngId) (va : Nat) : State × Nat :=
  let r := s.engXlat u e (s.unit u).ck.xlbase (va % 2 ^ 56)
  match r.2 with
  | .ok x => (r.1, ((r.1.dev.mem.cellOf (r.1.dev.home x.pa)).map RedCell.bytes).getD 4)
  | _ => (r.1, 4)
/-- A RANGE entry of bytes [lo, hi) of a place. -/
def rangeEntry (act cause : Nat) (r : Word × Nat × Nat) : MothArg :=
  { type := 0, act := act, cause := cause, w1 := awAt r.1 r.2.1, w2 := BitVec.ofNat 64 (r.2.2 - r.2.1) }
/-- The ranges of bytes that a command writes in memory or scratch, as an engine knows them (R403); a FLUSHX's word. -/
def State.cmdRanges (s : State) (u : UnitId) (e : EngId) (q : QEnt) : State × List (Word × Nat × Nat) :=
  match ckind q.word with
  | .pfh | .migr => (s, [])
  | .flushx =>
    let a := qv q.word q.snap 0
    let n := s.flushWidth u e (awAddr a)
    (n.1, [(a, awAddr a, awAddr a + n.2)])
  | _ => (s, destRanges q.word q.snap)
/-- The RANGE entries of a discarded command: one for each place that it writes (R403, R404, log 72). -/
def State.discardRange (s : State) (u : UnitId) (e : EngId) (q : QEnt) (scyc cause : Nat) : State :=
  let r := s.cmdRanges u e q
  r.2.foldl (fun s x => s.mothAt u scyc (rangeEntry 2 cause x)) r.1
/-- Commands of all queues with their engines, in the order of their issue, which no two share (R463). -/
def UnitSt.commands (x : UnitSt) : List (EngId × QEnt) :=
  let all := (List.range 12).flatMap fun k =>
    let e : EngId := Fin.ofNat 12 k
    ((x.es.eng[e]).q.filter fun c => c.kind == .cmd).map fun c => (e, c)
  ((all.map fun c => c.2.id).foldl setIns []).flatMap fun n => all.filter fun c => c.2.id = n
/-- What is written as from a unit that holds the state `x`. -/
def State.asUnit (s : State) (u : UnitId) (x : UnitSt) (f : State → State) : State := (f (s.setUnit u x)).setUnit u (s.unit u)
/-- The schedule cycle that the entries of a kill carry: SCYC of the crown in the clock of the kill, of a context that is away that of
the crown whose part it held (R463). -/
def State.killSc (s : State) (h : UnitId × Bool × UnitSt) : Nat := if h.2.1 then (s.unit h.1).ck.scyc else h.2.2.killScyc
/-- The entries of a kill: the CROWN entries, then TILE, then RANGE (R463). -/
def State.killEntries (s : State) (e : PoolEnt) (cause : BitVec 8) : State :=
  let c := cause.toNat
  let hs := (s.holders e).map fun h => (h, s.killSc h)
  let s := hs.foldl (fun s h => s.asUnit h.1.1 h.1.2.2 fun s => s.mothAt h.1.1 h.2 (crownEntry 2 c h.1.2.2.seq.pc)) s
  let s := hs.foldl (fun s h => s.asUnit h.1.1 h.1.2.2 fun s =>
    let q := h.1.2.2.cube
    (inOrder (q.cmds ++ q.stopped.toList ++ q.waiting)).foldl (fun s k => s.mothAt h.1.1 h.2 (s.discardTile h.1.1 k c)) s) s
  hs.foldl (fun s h => s.asUnit h.1.1 h.1.2.2 fun s =>
    h.1.2.2.commands.foldl (fun s q => s.discardRange h.1.1 q.1 q.2 h.2 c) s) s
/-- The pool entries that a unit's TPOST has taken and will not post are freed. -/
def State.dropPosts (s : State) (x : UnitSt) : State :=
  x.es.sy.foldl (fun s o => match o with | .tpost _ p (some n) _ _ _ _ => s.endEntry (Fin.ofNat 16 p.toNat) n | _ => s) s
/-- A killed context whose engines are idle: its entries are written, and it ends. -/
def State.killedEnd (s : State) (e : PoolEnt) (cause : BitVec 8) : State :=
  let hs := s.holders e
  (hs.foldl (fun s h => s.dropPosts h.2.2) (s.killEntries e cause)).endContext e.pool e.ent false
/-- The crown tasks that a killed brim context drives die with its cause; one that no unit holds ends at once. -/
def State.killKids (s : State) (e : PoolEnt) (cause : BitVec 8) : State :=
  (s.dev.sched.ents.filter fun x => x.brimOf == some (e.pool, e.ent)).foldl (fun s x =>
    if x.st == .taken || x.st == .posted then s.endEntry x.pool x.ent
    else if x.units.isEmpty then s.killedEnd x cause else s.killEnt x.pool x.ent cause) s
/-- A stopped context killed. -/
def State.killKept (s : State) (e : PoolEnt) (cause : BitVec 8) : State := (s.killKids e cause).killedEnd e cause

end Sys2Proof.Machine
end

