-- ==== Sys2Proof/Machine/Gang.lean ====
section
/-! DEFINITION. Gangs (R316, R317, R457–R459): acknowledgements, votes, the leader's one decision, release of held
accesses, and abort. Message kinds: 0 start acknowledgement, 1 vote, 2 commit, 3 abort, 4 kill report, 5 GANG_REFUSED. -/
namespace Sys2Proof.Machine

/-- The gang of a record at this device. -/
def Dev.gangOf (d : Dev) (tr : Vector Word 8) : Option Gang :=
  if recGang tr then d.fab.gangs.find? fun g => g.gtag == recGtag tr && g.owner == recOwner tr else none
/-- The gang of the context resident on a unit. -/
def State.unitGang (s : State) (u : UnitId) : Option Gang := (s.unit u).ctx.bind fun c => s.dev.gangOf c.tr
/-- A gang replaced. -/
def State.setGang (s : State) (g : Gang) : State :=
  s.modDev fun d => { d with fab := { d.fab with gangs := d.fab.gangs.map fun h => if h.gtag = g.gtag ∧ h.owner = g.owner then g else h } }
/-- A context belongs to a gang. -/
def Ctx.inGang (c : Ctx) (g : Gang) : Bool := recGang c.tr && recGtag c.tr == g.gtag && recOwner c.tr == g.owner
/-- The message of this device in a gang. -/
def Gang.msg (g : Gang) (d : Dev) : GangMsg := { gtag := g.gtag, owner := g.owner, src := d.myid, gm := g.gm, gn1 := g.gn1 }
/-- The row that receives a gang message of a kind. -/
def gangRow (kind : Nat) (m : GangMsg) : Instr :=
  match kind with
  | 0 => .gangStartAck m
  | 1 => .gangVote m
  | 2 => .gangCommit m
  | 3 => .gangAbort m
  | 4 => .killReport m
  | _ => .gangRefused m
/-- A gang message sent; one to this device itself passes inside the bridge (R326). -/
def State.gangSend (s : State) (kind : Nat) (dest : BitVec 14) (m : GangMsg) : State :=
  if dest = s.dev.myid then { s with agenda := s.agenda ++ [gangRow kind m] } else s.send (.gang kind dest m)
/-- The side logs of a unit with the held accesses released. -/
def UnitSt.unhold (x : UnitSt) : UnitSt :=
  { x with es := { x.es with eng := x.es.eng.map fun e => { e with replay := true, log := e.log.map fun l => { l with gang := false } } } }
/-- A record of the gang. -/
def PoolEnt.inGang (e : PoolEnt) (g : Gang) : Bool := recGang e.tr && recGtag e.tr == g.gtag && recOwner e.tr == g.owner
/-- A gang whose brim context has died goes with the decision (R458, R459). -/
def State.dropDead (s : State) (g : Gang) : State :=
  s.modDev fun d => { d with fab := { d.fab with gangs := d.fab.gangs.filter fun h => !(h.gtag == g.gtag && h.owner == g.owner && h.died) } }
/-- COMMIT at this device: held accesses, those of stopped contexts among them, wait for replay in queue order from now on
(R129, R317). -/
def State.gangRelease (s : State) (g : Gang) : State :=
  let s := s.setGang { g with committed := true }
  let s : State := { s with units := s.units.map fun (x : UnitSt) =>
      match x.ctx with
      | some c => if c.inGang g then x.unhold else x
      | none => x }
  let free := fun (e : PoolEnt) => if e.inGang g then { e with saved := e.saved.map fun p => (p.1, p.2.unhold) } else e
  (s.modDev fun d => { d with sched := { d.sched with ents := d.sched.ents.map free } }).dropDead g
/-- The leader holds every vote: commit to every member (R317). -/
def State.gangDecide (s : State) (g : Gang) : State :=
  let s := s.setGang g
  if g.committed || g.aborted || !((List.range (g.gn1.toNat + 1)).all fun i => g.votes.any fun v => v.toNat = i) then s
  else (g.acks.foldl (fun s a => s.gangSend 2 a.2 (g.msg s.dev)) s).gangRelease g
/-- A message of a member to its leader; `none` when no port leads there (R326, R453). -/
def State.tellLeader (s : State) (kind : Nat) (g : Gang) : Option State :=
  let m := g.msg s.dev
  if g.leader = s.dev.myid then some (s.gangSend kind g.leader m)
  else (s.dev.route g.leader).map fun j =>
    let s := s.modDev fun d => { d with fab := { d.fab with nextReq := d.fab.nextReq + 1, out := d.fab.out ++
      [{ id := d.fab.nextReq, u := brim, e := 0, cmd := 0, elt := 0, host := false, port := some j, wr := true, gang := some g.gtag,
         gmsg := some (kind, g.leader, m) }] } }
    s.gangSend kind g.leader m
/-- The abort carried out at this device (R459): undispatched records go, every dispatched context dies with
GANG_ABORT; a stopped one, which no unit holds, ends at once with its entries, and a stopped brim context of a member is reported like
one that is killed on its core (R458). -/
def State.gangAbort (s : State) (g : Gang) : State :=
  let s := s.setGang { g with aborted := true }
  let away := s.dev.sched.ents.any fun e => e.inGang g && recBrim e.tr && e.st == .stopped
  let s := if away && g.gm != 0 then (s.tellLeader 4 g).getD s else s
  let s := (s.dev.sched.ents.filter fun e => e.inGang g).foldl (fun s e =>
    match e.st with
    | .resident | .stopping | .ended => s.killEnt e.pool e.ent 0x62
    | .stopped => s.killKept e 0x62
    | .taken | .posted => s.endEntry e.pool e.ent) s
  (s.modDev fun d => { d with pkg := if (s.unit brim).status = .killed then none else d.pkg }).dropDead g
/-- A member has been told of an abort. -/
def Gang.tell (g : Gang) (m : BitVec 14) : Gang := { g with told := if g.told.contains m || g.gn1.toNat < m.toNat then g.told else g.told ++ [m] }
/-- A member has yet to be told of an abort. -/
def Gang.untold (g : Gang) : Bool := g.told.length ≤ g.gn1.toNat
/-- The leader decides abort (R457, R458): to every member that has acknowledged; the decision is kept while a member has not been told. -/
def State.gangDecideAbort (s : State) (g : Gang) : State :=
  if g.committed || g.aborted then s
  else
    let k := (g.gm :: g.acks.map Prod.fst).foldl Gang.tell { g with aborted := true, told := [] }
    let s := g.acks.foldl (fun s a => s.gangSend 3 a.2 (g.msg s.dev)) s
    let s := if k.untold then s.modDev fun d => { d with fab := { d.fab with decisions := d.fab.decisions ++ [k] } } else s
    s.gangAbort g
/-- An acknowledgement that comes after the leader has decided abort is answered with it; the decision goes when every member has been
told (R458). -/
def State.answerLate (s : State) (m : GangMsg) (g : Gang) : State :=
  let s := s.gangSend 3 m.src (g.msg s.dev)
  s.modDev fun d => { d with fab := { d.fab with decisions :=
    (d.fab.decisions.map fun h => if h.gtag = m.gtag then h.tell m.gm else h).filter Gang.untold } }
/-- A start acknowledgement at the leader's gang context. -/
def State.gangAck (s : State) (g : Gang) (m : GangMsg) : State :=
  if g.aborted then s.answerLate m g
  else if m.gn1 != g.gn1 || g.gn1.toNat < m.gm.toNat || g.acks.any (fun a => a.1 == m.gm) || m.gm == 0 then
    s.gangDecideAbort { g with acks := g.acks ++ [(m.gm, m.src)] }
  else s.setGang { g with acks := g.acks ++ [(m.gm, m.src)] }
/-- A message of a member to its leader; without a port it is UNREACHABLE, and the member aborts itself (R458). -/
def State.toLeader (s : State) (kind : Nat) (g : Gang) : State :=
  let s := s.setGang g
  match s.tellLeader kind g with
  | some t => t
  | none => if g.committed || g.aborted then s else s.gangAbort g
/-- The members whose votes have come before the dispatch of their leader (R317). -/
def Dev.earlyFor (d : Dev) (tr : Vector Word 8) : List (BitVec 14) :=
  ((d.fab.earlyVotes.filter fun m => m.gtag == recGtag tr && m.owner == recOwner tr).map GangMsg.gm).eraseDups
/-- The dispatch of a brim gang context (R316): its acknowledgement to the leader; the leader takes what is held for it. -/
def State.gangStart (s : State) (tr : Vector Word 8) : State :=
  let g : Gang := { gtag := recGtag tr, owner := recOwner tr, leader := recLeader tr, gm := recGm tr, gn1 := recGn1 tr,
                    votes := if recGm tr = 0 then s.dev.earlyFor tr else [] }
  let s := s.modDev fun d => { d with fab := { d.fab with gangs := d.fab.gangs ++ [g] } }
  if g.gm = 0 then
    let held := s.dev.fab.heldAcks.filter fun m => m.gtag == g.gtag && m.owner == g.owner
    let s := s.modDev fun d => { d with fab := { d.fab with
      heldAcks := d.fab.heldAcks.filter fun m => !(m.gtag == g.gtag && m.owner == g.owner),
      earlyVotes := d.fab.earlyVotes.filter fun m => !(m.gtag == g.gtag && m.owner == g.owner) } }
    held.foldl (fun s m => match s.dev.gangOf tr with | some g => s.gangAck g m | none => s) s
  else s.toLeader 0 g
/-- The vote of this member: GANGC of its brim context, or its EXIT (R317). -/
def State.castVote (s : State) (u : UnitId) : State :=
  match s.unitGang u with
  | some g =>
    if !isBrim u || g.voted || g.aborted then s
    else
      let g := { g with voted := true }
      if g.gm = 0 then s.gangDecide { g with votes := g.votes ++ [g.gm] }
      else s.toLeader 1 g
  | none => s
/-- The brim gang context of this device died before commit, of whatever cause: a kill report, or the leader's own decision; the member
keeps its gang until it learns of the abort (R457–R459). -/
def State.gangKilled (s : State) (u : UnitId) : State :=
  match s.unitGang u with
  | some g =>
    if !isBrim u || g.committed then s
    else if g.gm = 0 then s.gangDecideAbort g
    else s.toLeader 4 { g with died := true }
  | none => s

/-! ### Arrivals -/
/-- The gang of a message, or the refusal of a wrong OWNER (R459). -/
def State.gangFor (s : State) (m : GangMsg) (f : Gang → State) (other : State) : State :=
  match s.dev.fab.gangs.find? fun g => g.gtag == m.gtag with
  | some g => if g.owner = m.owner then f g else s.gangSend 5 m.src { m with src := s.dev.myid }
  | none => other
/-- GANG_START_ACK. -/
def execGangStartAck (m : GangMsg) (s : State) : Host.Outcome State Fault Refusal :=
  let hold := s.modDev fun d => { d with fab := { d.fab with heldAcks := d.fab.heldAcks ++ [m] } }
  .next (s.gangFor m (fun g => if g.gm = 0 then s.gangAck g m else hold)
    (match s.dev.fab.decisions.find? fun g => g.gtag == m.gtag with
      | some g => s.answerLate m g
      | none => hold))
/-- GANG_VOTE at the leader; one that comes before the leader's dispatch is kept for it. -/
def execGangVote (m : GangMsg) (s : State) : Host.Outcome State Fault Refusal :=
  .next (s.gangFor m (fun g => if g.gm = 0 && !g.votes.contains m.gm then s.gangDecide { g with votes := g.votes ++ [m.gm] } else s)
    (if s.dev.fab.decisions.any fun g => g.gtag == m.gtag then s
      else s.modDev fun d => { d with fab := { d.fab with earlyVotes := d.fab.earlyVotes ++ [m] } }))
/-- GANG_COMMIT at a member. -/
def execGangCommit (m : GangMsg) (s : State) : Host.Outcome State Fault Refusal :=
  .next (s.gangFor m (fun g => if g.aborted then s else s.gangRelease g) s)
/-- GANG_TIMEOUT: the leader's timer expires. -/
def execGangTimeout (t : BitVec 10) (s : State) : Host.Outcome State Fault Refusal :=
  .next (match s.dev.fab.gangs.find? fun g => g.gtag == t && g.gm == 0 with
    | some g => if g.acks.length < g.gn1.toNat then s.gangDecideAbort g else s.setGang { g with expired := true }
    | none => s)
/-- GANG_ABORT at a member: one that has committed keeps its work. -/
def execGangAbort (m : GangMsg) (s : State) : Host.Outcome State Fault Refusal :=
  .next (s.gangFor m (fun g => if g.committed || g.aborted then s else s.gangAbort g) s)
/-- KILL_REPORT at the leader. -/
def execKillReport (m : GangMsg) (s : State) : Host.Outcome State Fault Refusal :=
  .next (s.gangFor m (fun g => if g.gm = 0 then s.gangDecideAbort g else s) s)
/-- GANG_REFUSED: the member aborts itself (R459). -/
def execGangRefused (m : GangMsg) (s : State) : Host.Outcome State Fault Refusal :=
  .next (match s.dev.fab.gangs.find? fun g => g.gtag == m.gtag && g.owner == m.owner with
    | some g => if g.committed || g.aborted then s else s.gangAbort g
    | none => s)
/-- HELD_ACK_TIMEOUT. -/
def execHeldAckTimeout (m : GangMsg) (s : State) : Host.Outcome State Fault Refusal :=
  if s.dev.fab.heldAcks.contains m then
    .next ((s.modDev fun d => { d with fab := { d.fab with heldAcks := d.fab.heldAcks.erase m } }).gangSend 3 m.src { m with src := s.dev.myid })
  else .next s
/-- ABORT_DECISION_EXPIRY. -/
def execAbortDecisionExpiry (t : BitVec 10) (s : State) : Host.Outcome State Fault Refusal :=
  .next (s.modDev fun d => { d with fab := { d.fab with decisions := d.fab.decisions.filter fun g => g.gtag != t } })

end Sys2Proof.Machine
end

