-- ==== Sys2Proof/Machine/CopyOps.lean ====
section
/-! DEFINITION. The CP slot (R270–R284): the issue tests of Table 11.15, R387 and R394, entry into the queue, and the
engine control forms. -/
namespace Sys2Proof.Machine

/-- A CP word. -/
def cpOp (s : State) (i : Instr) (g : Guard) (faults : List (Bool × BitVec 8 × Word)) (eff : State → State) : Op :=
  { slot := 10, word := wordOf i, nul := !s.me.guardOn .none g, fault := firstFault faults, eff := eff }
/-- COUNTER_RANGE: a counter outside the owner's range (R289). -/
def State.cntrBad (s : State) (c : Option (BitVec 12)) : Option (BitVec 8 × Word) :=
  match c with
  | some n => if (s.desc s.cur).inRange n.toNat then none else some (cCOUNTER_RANGE, n.setWidth 64)
  | none => none
/-- A command-issuing form (R270, R271): its snapshot is taken and it enters the queue of its engine. -/
def cmdOp (s : State) (i : Instr) (g : Guard) (e : EngId) : Op :=
  let x := s.me
  let b := isBrim s.cur
  let w := wordOf i
  let q := x.regs.cq
  let rng := cpRange x b (if b then s.drivenUnit else some x) w q
  { cpOp s i g
      [(cpIllegal b w q || (x.phase.on && cpPhaseBad w q), cILLEGAL_OPERAND, w),
       (cpShape w q, cCOPY_SHAPE, w),
       (rng.isSome, cSCRATCH_RANGE, BitVec.ofNat 64 (rng.getD 0)),
       (cpAlign w q, cATOMIC_ALIGN, qv w q 0)]
      (fun t =>
        let t := t.modMe fun y => y.enqueue e { id := 0, kind := .cmd, word := w, snap := q }
        t.trace t.cur 4 true x.seq.pc.toNat w (t.me.es.eng[e]).prog) with
    enq := [e], late := s.cntrBad (cpCntr w q) }
/-- CPY (R274, R275). -/
def opCpy (a : CpCopy) (s : State) : Op := cmdOp s (.cpy a) a.g a.eng
/-- CPYW (R278). -/
def opCpyw (a : CpWeight) (s : State) : Op := cmdOp s (.cpyw a) a.g a.eng
/-- CPYX (R277). -/
def opCpyx (a : CpCopy) (s : State) : Op := cmdOp s (.cpyx a) a.g a.eng
/-- CPYF (R276). -/
def opCpyf (a : CpCopy) (s : State) : Op := cmdOp s (.cpyf a) a.g a.eng
/-- AMO.ADD (R280). -/
def opAmoAdd (a : CpAmo) (s : State) : Op := cmdOp s (.amoAdd a) a.g a.eng
/-- AMO.MIN. -/
def opAmoMin (a : CpAmo) (s : State) : Op := cmdOp s (.amoMin a) a.g a.eng
/-- AMO.MAX. -/
def opAmoMax (a : CpAmo) (s : State) : Op := cmdOp s (.amoMax a) a.g a.eng
/-- AMO.AND. -/
def opAmoAnd (a : CpAmo) (s : State) : Op := cmdOp s (.amoAnd a) a.g a.eng
/-- AMO.OR. -/
def opAmoOr (a : CpAmo) (s : State) : Op := cmdOp s (.amoOr a) a.g a.eng
/-- AMO.XOR. -/
def opAmoXor (a : CpAmo) (s : State) : Op := cmdOp s (.amoXor a) a.g a.eng
/-- AMO.SWP. -/
def opAmoSwp (a : CpAmo) (s : State) : Op := cmdOp s (.amoSwp a) a.g a.eng
/-- AMO.CAS. -/
def opAmoCas (a : CpCas) (s : State) : Op := cmdOp s (.amoCas a) a.g a.eng
/-- AMO.FADDX. -/
def opAmoFaddx (a : CpAmo) (s : State) : Op := cmdOp s (.amoFaddx a) a.g a.eng
/-- FLUSHX (R281). -/
def opFlushx (a : CpFlush) (s : State) : Op := cmdOp s (.flushx a) a.g a.eng
/-- PFH (R282). -/
def opPfh (a : CpPlain) (s : State) : Op := cmdOp s (.pfh a) a.g a.eng
/-- MIGR (R283). -/
def opMigr (a : CpPlain) (s : State) : Op := cmdOp s (.migr a) a.g a.eng
/-- CPQ (R284): CEPROG at issue + 2, no latch. -/
def opCpq (a : CpQ) (s : State) : Op :=
  cpOp s (.cpq a) a.g [] fun t =>
    t.emit { slot := 10, dst := .s (r6 a.dst), lat := 2, val := ((s.me.es.eng[a.eng]).prog).setWidth 4096 }
/-- The engines of a mask changed. -/
def UnitSt.modEngs (x : UnitSt) (m : BitVec 12) (f : Engine → Engine) : UnitSt :=
  { x with es := { x.es with eng := Vector.ofFn fun e : Fin 12 => if m.getLsbD e.val then f x.es.eng[e] else x.es.eng[e] } }
/-- CPSTOP (R284). -/
def opCpstop (a : CpMask) (s : State) : Op :=
  cpOp s (.cpstop a) a.g [] fun t => t.modMe fun y =>
    let y := y.modEngs a.qmask fun e => { e with stopped := true }
    { y with trap := y.trap.unbind a.qmask }
/-- A stopped engine starts again; after a hold at its lowest element not performed. -/
def Engine.restart (e : Engine) : Engine :=
  let q := if e.held then e.q.map fun c => { c with done := [] } else e.q
  if e.stopped then { e with q := q, stopped := false, held := false, walk := none, replay := true } else { e with replay := true }
/-- CPRES (R284, R430): a stopped engine starts again at its lowest element not performed. -/
def opCpres (a : CpMask) (s : State) : Op :=
  cpOp s (.cpres a) a.g [] fun t => t.modMe fun y =>
    let y := y.modEngs a.qmask Engine.restart
    { y with trap := y.trap.unbind a.qmask }

/-! ### Meanings -/
def execCpy (a : CpCopy) (s : State) : Host.Outcome State Fault Refusal := runOp (opCpy a s) s
def execCpyw (a : CpWeight) (s : State) : Host.Outcome State Fault Refusal := runOp (opCpyw a s) s
def execCpyx (a : CpCopy) (s : State) : Host.Outcome State Fault Refusal := runOp (opCpyx a s) s
def execCpyf (a : CpCopy) (s : State) : Host.Outcome State Fault Refusal := runOp (opCpyf a s) s
def execAmoAdd (a : CpAmo) (s : State) : Host.Outcome State Fault Refusal := runOp (opAmoAdd a s) s
def execAmoMin (a : CpAmo) (s : State) : Host.Outcome State Fault Refusal := runOp (opAmoMin a s) s
def execAmoMax (a : CpAmo) (s : State) : Host.Outcome State Fault Refusal := runOp (opAmoMax a s) s
def execAmoAnd (a : CpAmo) (s : State) : Host.Outcome State Fault Refusal := runOp (opAmoAnd a s) s
def execAmoOr (a : CpAmo) (s : State) : Host.Outcome State Fault Refusal := runOp (opAmoOr a s) s
def execAmoXor (a : CpAmo) (s : State) : Host.Outcome State Fault Refusal := runOp (opAmoXor a s) s
def execAmoSwp (a : CpAmo) (s : State) : Host.Outcome State Fault Refusal := runOp (opAmoSwp a s) s
def execAmoCas (a : CpCas) (s : State) : Host.Outcome State Fault Refusal := runOp (opAmoCas a s) s
def execAmoFaddx (a : CpAmo) (s : State) : Host.Outcome State Fault Refusal := runOp (opAmoFaddx a s) s
def execFlushx (a : CpFlush) (s : State) : Host.Outcome State Fault Refusal := runOp (opFlushx a s) s
def execPfh (a : CpPlain) (s : State) : Host.Outcome State Fault Refusal := runOp (opPfh a s) s
def execMigr (a : CpPlain) (s : State) : Host.Outcome State Fault Refusal := runOp (opMigr a s) s
def execCpq (a : CpQ) (s : State) : Host.Outcome State Fault Refusal := runOp (opCpq a s) s
def execCpstop (a : CpMask) (s : State) : Host.Outcome State Fault Refusal := runOp (opCpstop a s) s
def execCpres (a : CpMask) (s : State) : Host.Outcome State Fault Refusal := runOp (opCpres a s) s

end Sys2Proof.Machine
end

