-- ==== Sys2Proof/Machine/Sync.lean ====
section
/-! DEFINITION. The SY slot (R204, R285–R295): barriers, phases, waits, fences, counters, task posting, translation and
side-log waits, the recorder, counter and energy reads, the gang vote, YIELD. -/
namespace Sys2Proof.Machine

/-- An SY word. -/
def syOp (s : State) (i : Instr) (g : Guard) (sr : List (Fin 64)) (faults : List (Bool × BitVec 8 × Word)) (eff : State → State) : Op :=
  { slot := 11, word := wordOf i, sr := sr, nul := !s.me.guardOn .none g, fault := firstFault faults, eff := eff }

/-! ### Barriers (R285, R134, R386) -/
/-- A barrier number. -/
def b5 (n : BitVec 5) : Fin 32 := Fin.ofNat 32 n.toNat
/-- BARI: step 1. -/
def opBari (a : SyBari) (s : State) : Op :=
  syOp s (.bari a) a.g [] [] fun t => t.modMe fun x =>
    { x with bars := x.bars.set (b5 a.n) (Barrier.init a.expect),
             phase := { x.phase with touched := x.phase.touched ||| (1#32 <<< a.n.toNat) } }
/-- An arrival with a count: BARRIER_STATE breaks the barrier (R386). -/
def arriveOp (s : State) (i : Instr) (g : Guard) (sr : List (Fin 64)) (n : Fin 32) (shape : Bool) (count : Nat) : Op :=
  let b := s.me.bars[n]
  let bad := b.badArrival count
  { syOp s i g sr [(shape, cCOPY_SHAPE, wordOf i), (bad, cBARRIER_STATE, BitVec.ofNat 64 n.val)]
      (fun t => t.setBar t.cur n ((t.me.bars[n]).arrive count)) with
    onFault := fun t => if shape then t else t.modMe fun x => { x with
      bars := x.bars.set n { x.bars[n] with broken := true },
      phase := { x.phase with touched := x.phase.touched ||| (1#32 <<< n.val) } } }
/-- BARA. -/
def opBara (a : SyBara) (s : State) : Op := arriveOp s (.bara a) a.g [] (b5 a.n) false 0
/-- BARX: COUNT = (s[SA][31:0] + IMM) mod 2^32, not negative. -/
def opBarx (a : SyBarx) (s : State) : Op :=
  let c := ((s.me.rdS .none (r6 a.sa)).toNat % 2 ^ 32 + a.imm.toNat) % 2 ^ 32
  arriveOp s (.barx a) a.g [r6 a.sa] (b5 a.n) (decide (2 ^ 31 ≤ c)) c
/-- BARW (R135). -/
def opBarw (a : SyBarw) (s : State) : Op :=
  { syOp s (.barw a) a.g [] [] id with
    wait := if (s.me.bars[b5 a.n]).broken || (s.me.bars[b5 a.n]).seen = a.q then some (1, a.n.toNat) else none }

/-! ### Phases and cube waits (R286, R287) -/
/-- The header of the bundle at PC. -/
def State.header (s : State) : Header :=
  match s.me.icBytes s.me.seq.pc.toNat 8 with
  | some bs => ⟨BitVec.ofNat 64 (leNat bs)⟩
  | none => ⟨0⟩
/-- Cube commands of earlier cycles are in flight; the awaited object is the oldest one's opcode. -/
def UnitSt.cubeWait (x : UnitSt) : Option (Nat × Nat) :=
  match x.cube.cmds with
  | k :: _ => some (2, hdrOpc k.hdr)
  | [] => none
/-- PHASE: restart PC and queue mask of its bundle (R184). -/
def phaseOp (s : State) (i : Instr) (g : Guard) (mode : Nat) : Op :=
  let rs := s.seqAddr
  let h := s.header
  { syOp s i g [] [(isBrim s.cur, cILLEGAL_OPERAND, wordOf i)]
      (fun t => (t.modMe fun x => x.doPhase mode rs (fld h.payload 0 12)).trace t.cur 14 true t.me.seq.pc.toNat
        (rs.setWidth 64) (BitVec.ofNat 64 mode)) with
    wait := if isBrim s.cur then none else s.me.cubeWait }
/-- PHASE COMMIT. -/
def opPhaseCommit (a : GuardOnly) (s : State) : Op := phaseOp s (.phaseCommit a) a.g 0
/-- PHASE ON. -/
def opPhaseOn (a : GuardOnly) (s : State) : Op := phaseOp s (.phaseOn a) a.g 1
/-- PHASE OFF. -/
def opPhaseOff (a : GuardOnly) (s : State) : Op := phaseOp s (.phaseOff a) a.g 2
/-- CBWAIT. -/
def opCbwait (a : GuardOnly) (s : State) : Op :=
  { syOp s (.cbwait a) a.g [] [] id with
    wait :=
      if isBrim s.cur then (if s.dev.pkgBusy then some (2, 1) else none)
      else match s.me.cubeWait with
        | some w => some w
        | none => match s.me.cube.deliv with
          | k :: _ => some (2, hdrOpc k.hdr)
          | [] => none }

/-! ### Fences (R288) -/
/-- A fence: one marker in each queue of a mask. -/
def fenceOp (s : State) (i : Instr) (g : Guard) (acq rel : Bool) (m : BitVec 12) : Op :=
  { syOp s i g [] [] (fun t => t.modMe fun x =>
      let id := x.es.nextId
      x.mark m (.fence acq rel m id)) with
    enq := engsOf m }
/-- FENCE.ACQ. -/
def opFenceAcq (a : GuardOnly) (s : State) : Op := fenceOp s (.fenceAcq a) a.g true false 0xFFF
/-- FENCE.REL. -/
def opFenceRel (a : GuardOnly) (s : State) : Op := fenceOp s (.fenceRel a) a.g false true 0xFFF
/-- FENCE.FULL. -/
def opFenceFull (a : GuardOnly) (s : State) : Op := fenceOp s (.fenceFull a) a.g true true 0xFFF
/-- FENCEQ. -/
def opFenceq (a : CpMask) (s : State) : Op := fenceOp s (.fenceq a) a.g true true a.qmask

/-! ### Counters and task posting (R289–R291) -/
/-- EVINC. -/
def opEvinc (a : SyEvinc) (s : State) : Op :=
  { syOp s (.evinc a) a.g [] [(s.me.phase.on, cILLEGAL_OPERAND, wordOf (.evinc a))] (fun t => t.modMe fun x =>
      let id := x.es.nextId
      let x := { x with es := { x.es with nextId := id + 1, sy := x.es.sy ++ [SyOp.evinc id a.c a.inc] } }
      x.mark 0xFFF (.evinc id)) with
    enq := allEngs, late := s.cntrBad (some a.c) }
/-- EVWAIT. -/
def opEvwait (a : SyEvwait) (s : State) : Op :=
  let d := (s.dev.counter a.c.toNat).toNat + 2 ^ 32 - (s.me.rdS .none (r6 a.sa)).toNat % 2 ^ 32
  { syOp s (.evwait a) a.g [r6 a.sa] [] id with
    late := s.cntrBad (some a.c),
    wait := if signedOf 32 d < 0 then some (3, a.c.toNat) else none }
/-- TPOST (R291): the pool entry is taken at issue, the record read in the cycle that VLD would use. -/
def opTpost (a : SyPost) (s : State) : Op :=
  let x := s.me
  let b := isBrim s.cur
  let p : Fin 16 := Fin.ofNat 16 a.pool.toNat
  let ad := (x.rdS .none (r6 a.sa)).toNat % 2 ^ 32
  let en := (s.dev.sched.desc[p]).en
  let bad := if ad % 16 != 0 then some ad else x.firstOut b ad (ad + 64)
  { syOp s (.tpost a) a.g [r6 a.sa]
      [(x.phase.on, cILLEGAL_OPERAND, wordOf (.tpost a)), (bad.isSome, cSCRATCH_RANGE, BitVec.ofNat 64 (bad.getD 0))]
      (fun t =>
        let e := if en then t.dev.sched.freeEnt p else none
        let t := match e with
          | some n => t.modDev fun d => { d with sched := { d.sched with ents := d.sched.ents ++
              [({ pool := p, ent := BitVec.ofNat 8 n, st := EntSt.taken,
                  base := (match x.ctx with | some c => (if b then 8 else c.org.val) | none => 8) } : PoolEnt)] } }
          | none => t
        t.modMe fun y =>
          let id := y.es.nextId
          let o := SyOp.tpost id a.pool (e.map (BitVec.ofNat 8)) ad (Vector.replicate 8 0) y.ck.scyc y.trap.tl
          let y := { y with es := { y.es with nextId := id + 1, sy := y.es.sy ++ [o] } }
          (y.mark 0xFFF (.tpost id)).later (if b then 2 else 2 + southOf ad) (.post a.pool id ad)) with
    enq := allEngs,
    wait := if en && (s.dev.sched.freeEnt p).isNone then some (3, a.pool.toNat) else none }

/-! ### Translation and side logs (R292, R293) -/
/-- TLBI: the first clock of its stall starts the removal; its issue marks completion. -/
def opTlbi (a : SyTlbi) (s : State) : Op :=
  let x := s.me
  let priv := (s.desc s.cur).priv
  let asid : BitVec 12 := (x.rdS .none (r6 a.sa)).setWidth 12
  let vpn := bitsOf (x.rdS .none (r6 a.sb)).toNat 16 40
  { syOp s (.tlbi a) a.g (if a.sel = .all then [] else [r6 a.sa, r6 a.sb]) [(!priv, cPRIVILEGE, wordOf (.tlbi a))]
      (fun t => t.modMe fun y => { y with es := { y.es with tlbiDone := false } }) with
    wait := if priv && !x.es.tlbiDone then some (3, 0) else none,
    onWait := fun t => t.modMe fun y =>
      if y.es.sy.any fun o => match o with | .tlbi _ _ _ _ => true | _ => false then y
      else { y with es := { y.es with sy := y.es.sy ++ [SyOp.tlbi a.sel asid vpn] } } }
/-- SLDRAIN: its issue, from the first clock of its stall, attempts a replay (R433). -/
def opSldrain (a : CpMask) (s : State) : Op :=
  let left := (engsOf a.qmask).any fun e => (s.me.es.eng[e]).log.any fun l => !l.gang
  let go := fun (t : State) => t.modMe fun y => y.modEngs a.qmask fun e => { e with replay := true }
  { syOp s (.sldrain a) a.g [] [] go with
    wait := if left then some (3, 0) else none,
    onWait := fun t => if t.me.seq.held.isNone then go t else t }

/-! ### Observability reads, gang commit, YIELD (R294, R295, R204) -/
/-- TRCON. -/
def opTrcon (a : SyTrc) (s : State) : Op :=
  syOp s (.trcon a) a.g [] [] fun t => t.emit { slot := 11, dst := .trc true, lat := 1, val := a.src.setWidth 4096 }
/-- TRCOFF. -/
def opTrcoff (a : SyTrc) (s : State) : Op :=
  syOp s (.trcoff a) a.g [] [] fun t => t.emit { slot := 11, dst := .trc false, lat := 1, val := a.src.setWidth 4096 }
/-- What PMRD N reads (R343): zero for a context whose OWNER is not counted. -/
def State.pmRead (s : State) (u : UnitId) (n : BitVec 6) : Word :=
  let p := (s.unit u).pm
  let c : Fin 16 := Fin.ofNat 16 (n.toNat % 16)
  if !(p.ctl.getLsbD 1 || s.ownerOf u == some (fld p.ctl 20 12)) then 0
  else
    match n.toNat / 16 with
    | 0 => (p.cnt[c]).count
    | 1 => (p.cnt[c]).ten
    | 2 => (p.cnt[c]).trun
    | _ => BitVec.ofNat 64 (p.selOf c)
/-- PMRD. -/
def opPmrd (a : SyPmrd) (s : State) : Op :=
  syOp s (.pmrd a) a.g [] [] fun t => t.emit { slot := 11, dst := .s (r6 a.dst), lat := 2, val := (s.pmRead s.cur a.n).setWidth 4096 }
/-- ENRD: COUNT in [47:0], ESAT in bit 63. -/
def opEnrd (a : SyEnrd) (s : State) : Op :=
  syOp s (.enrd a) a.g [] [] fun t =>
    t.emit { slot := 11, dst := .s (r6 a.dst), lat := 2, val := (s.me.ck.ectr &&& 0x8000FFFFFFFFFFFF#64).setWidth 4096 }
/-- GANGC: the vote is cast in the first clock of the stall. -/
def opGangc (a : GuardOnly) (s : State) : Op :=
  { syOp s (.gangc a) a.g [] [(s.me.phase.on, cILLEGAL_OPERAND, wordOf (.gangc a))] id with
    wait := match s.unitGang s.cur with
      | some g => if g.committed || s.me.phase.on then none else some (3, 0)
      | none => none,
    onWait := fun t => t.castVote t.cur }
/-- YIELD: the point after its bundle is a landing point (R45, R204). -/
def opYield (a : GuardOnly) (s : State) : Op :=
  syOp s (.yield a) a.g [] [] fun t => t.modMe fun x => { x with seq := { x.seq with yielded := true } }

/-! ### Meanings -/
def execBari (a : SyBari) (s : State) : Host.Outcome State Fault Refusal := runOp (opBari a s) s
def execBara (a : SyBara) (s : State) : Host.Outcome State Fault Refusal := runOp (opBara a s) s
def execBarx (a : SyBarx) (s : State) : Host.Outcome State Fault Refusal := runOp (opBarx a s) s
def execBarw (a : SyBarw) (s : State) : Host.Outcome State Fault Refusal := runOp (opBarw a s) s
def execPhaseCommit (a : GuardOnly) (s : State) : Host.Outcome State Fault Refusal := runOp (opPhaseCommit a s) s
def execPhaseOn (a : GuardOnly) (s : State) : Host.Outcome State Fault Refusal := runOp (opPhaseOn a s) s
def execPhaseOff (a : GuardOnly) (s : State) : Host.Outcome State Fault Refusal := runOp (opPhaseOff a s) s
def execCbwait (a : GuardOnly) (s : State) : Host.Outcome State Fault Refusal := runOp (opCbwait a s) s
def execFenceAcq (a : GuardOnly) (s : State) : Host.Outcome State Fault Refusal := runOp (opFenceAcq a s) s
def execFenceRel (a : GuardOnly) (s : State) : Host.Outcome State Fault Refusal := runOp (opFenceRel a s) s
def execFenceFull (a : GuardOnly) (s : State) : Host.Outcome State Fault Refusal := runOp (opFenceFull a s) s
def execFenceq (a : CpMask) (s : State) : Host.Outcome State Fault Refusal := runOp (opFenceq a s) s
def execTpost (a : SyPost) (s : State) : Host.Outcome State Fault Refusal := runOp (opTpost a s) s
def execEvinc (a : SyEvinc) (s : State) : Host.Outcome State Fault Refusal := runOp (opEvinc a s) s
def execEvwait (a : SyEvwait) (s : State) : Host.Outcome State Fault Refusal := runOp (opEvwait a s) s
def execTlbi (a : SyTlbi) (s : State) : Host.Outcome State Fault Refusal := runOp (opTlbi a s) s
def execSldrain (a : CpMask) (s : State) : Host.Outcome State Fault Refusal := runOp (opSldrain a s) s
def execTrcon (a : SyTrc) (s : State) : Host.Outcome State Fault Refusal := runOp (opTrcon a s) s
def execTrcoff (a : SyTrc) (s : State) : Host.Outcome State Fault Refusal := runOp (opTrcoff a s) s
def execPmrd (a : SyPmrd) (s : State) : Host.Outcome State Fault Refusal := runOp (opPmrd a s) s
def execEnrd (a : SyEnrd) (s : State) : Host.Outcome State Fault Refusal := runOp (opEnrd a s) s
def execGangc (a : GuardOnly) (s : State) : Host.Outcome State Fault Refusal := runOp (opGangc a s) s
def execYield (a : GuardOnly) (s : State) : Host.Outcome State Fault Refusal := runOp (opYield a s) s

end Sys2Proof.Machine
end

