-- ==== Sys2Proof/Machine/OpOf.lean ====
section
/-! DEFINITION. The slot operation that a decoded word stands for, with the prefix of its bundle (R176, R177), and the
operand step of a sticky re-issue (R170). -/
namespace Sys2Proof.Machine

/-! ### Stepped operands (R170): register codes modulo 64; latches, predicates, address registers keep their codes -/
/-- A vector register code stepped by n. -/
def stepR (n : Nat) (r : BitVec 6) : BitVec 6 := r + BitVec.ofNat 6 n
/-- A source stepped by n. -/
def stepS (n : Nat) : VSrc → VSrc
  | .reg r => .reg (stepR n r)
  | .latch l => .latch l
/-- A destination predicate stepped by n: its code must stay a predicate (R219). -/
def stepP (n : Nat) (p : PReg) : Option PReg :=
  let c := (p.val + n) % 64
  if h : c < 12 then some ⟨c, h⟩ else none

/-- A stepped VInt2S. -/
def stepVInt2S (n : Nat) (a : VInt2S) : VInt2S := { a with dst := stepR n a.dst, a := stepS n a.a, b := stepS n a.b }
/-- A stepped VInt2. -/
def stepVInt2 (n : Nat) (a : VInt2) : VInt2 := { a with dst := stepR n a.dst, a := stepS n a.a, b := stepS n a.b }
/-- A stepped VInt3S. -/
def stepVInt3S (n : Nat) (a : VInt3S) : VInt3S := { a with dst := stepR n a.dst, a := stepS n a.a, b := stepS n a.b, c := stepS n a.c }
/-- A stepped VInt1S. -/
def stepVInt1S (n : Nat) (a : VInt1S) : VInt1S := { a with dst := stepR n a.dst, a := stepS n a.a }
/-- A stepped VLane2. -/
def stepVLane2 (n : Nat) (a : VLane2) : VLane2 := { a with dst := stepR n a.dst, a := stepS n a.a, b := stepS n a.b }
/-- A stepped VLane1. -/
def stepVLane1 (n : Nat) (a : VLane1) : VLane1 := { a with dst := stepR n a.dst, a := stepS n a.a }
/-- A stepped VInt3. -/
def stepVInt3 (n : Nat) (a : VInt3) : VInt3 := { a with dst := stepR n a.dst, a := stepS n a.a, b := stepS n a.b, c := stepS n a.c }
/-- A stepped VFp2. -/
def stepVFp2 (n : Nat) (a : VFp2) : VFp2 := { a with dst := stepR n a.dst, a := stepS n a.a, b := stepS n a.b }
/-- A stepped VFp3. -/
def stepVFp3 (n : Nat) (a : VFp3) : VFp3 := { a with dst := stepR n a.dst, a := stepS n a.a, b := stepS n a.b, c := stepS n a.c }
/-- A stepped VFmm. -/
def stepVFmm (n : Nat) (a : VFmm) : VFmm := { a with dst := stepR n a.dst, a := stepS n a.a, b := stepS n a.b }
/-- A stepped VFsg. -/
def stepVFsg (n : Nat) (a : VFsg) : VFsg := { a with dst := stepR n a.dst, a := stepS n a.a }
/-- A stepped VCmp. -/
def stepVCmp (n : Nat) (a : VCmp) : Option VCmp := (stepP n a.dst).map fun p => { a with dst := p, a := stepS n a.a, b := stepS n a.b }
/-- A stepped VFcmp. -/
def stepVFcmp (n : Nat) (a : VFcmp) : Option VFcmp := (stepP n a.dst).map fun p => { a with dst := p, a := stepS n a.a, b := stepS n a.b }
/-- A stepped VSel. -/
def stepVSel (n : Nat) (a : VSel) : VSel := { a with dst := stepR n a.dst, a := stepS n a.a, b := stepS n a.b }
/-- A stepped VBcast. -/
def stepVBcast (n : Nat) (a : VBcast) : VBcast := { a with dst := stepR n a.dst, a := stepS n a.a }
/-- A stepped VExt. -/
def stepVExt (n : Nat) (a : VExt) : VExt := { a with dst := stepR n a.dst, a := stepS n a.a, b := stepS n a.b }
/-- A stepped VIota. -/
def stepVIota (n : Nat) (a : VIota) : VIota := { a with dst := stepR n a.dst }
/-- A stepped VRot. -/
def stepVRot (n : Nat) (a : VRot) : VRot := { a with dst := stepR n a.dst, a := stepS n a.a }
/-- A stepped VShuf. -/
def stepVShuf (n : Nat) (a : VShuf) : VShuf := { a with dst := stepR n a.dst, a := stepS n a.a }
/-- A stepped VRedF. -/
def stepVRedF (n : Nat) (a : VRedF) : VRedF := { a with dst := stepR n a.dst, a := stepS n a.a }
/-- A stepped VCvt. -/
def stepVCvt (n : Nat) (a : VCvt) : VCvt := { a with dst := stepR n a.dst, a := stepS n a.a }
/-- A stepped VPackF. -/
def stepVPackF (n : Nat) (a : VPackF) : VPackF := { a with dst := stepR n a.dst, a := stepS n a.a }
/-- A stepped VUnpkF. -/
def stepVUnpkF (n : Nat) (a : VUnpkF) : VUnpkF := { a with dst := stepR n a.dst, a := stepS n a.a }
/-- A stepped VSpec. -/
def stepVSpec (n : Nat) (a : VSpec) : VSpec := { a with dst := stepR n a.dst, a := stepS n a.a }
/-- A stepped MLoad. -/
def stepMLoad (n : Nat) (a : MLoad) : MLoad := { a with dst := stepR n a.dst }
/-- A stepped MStore. -/
def stepMStore (n : Nat) (a : MStore) : MStore := { a with a := stepS n a.a }
/-- A stepped MLoadS. -/
def stepMLoadS (n : Nat) (a : MLoadS) : MLoadS := { a with dst := stepR n a.dst }
/-- A stepped MStoreS. -/
def stepMStoreS (n : Nat) (a : MStoreS) : MStoreS := { a with a := stepS n a.a }
/-- A stepped MGather. -/
def stepMGather (n : Nat) (a : MGather) : MGather := { a with dst := stepR n a.dst, b := stepS n a.b }
/-- A stepped MScatter. -/
def stepMScatter (n : Nat) (a : MScatter) : MScatter := { a with a := stepS n a.a, b := stepS n a.b }
/-- A stepped MFe. -/
def stepMFe (_ : Nat) (a : MFe) : MFe := a
/-- A stepped MProb. -/
def stepMProb (n : Nat) (a : MProb) : Option MProb := (stepP n a.dst).map fun p => { a with dst := p }
/-- A stepped ScW. -/
def stepScW (n : Nat) (a : ScW) : ScW := { a with a := stepS n a.a }
/-- The STEP code of a sticky word. -/
def stepCode : Instr → BitVec 2
  | .vadd a => a.h.step
  | .vsub a => a.h.step
  | .vmul a => a.h.step
  | .vmulh a => a.h.step
  | .vmad a => a.h.step
  | .vmin a => a.h.step
  | .vmax a => a.h.step
  | .vabs a => a.h.step
  | .vneg a => a.h.step
  | .vand a => a.h.step
  | .vor a => a.h.step
  | .vxor a => a.h.step
  | .vnot a => a.h.step
  | .vshl a => a.h.step
  | .vshr a => a.h.step
  | .vsar a => a.h.step
  | .vclmp a => a.h.step
  | .vfadd a => a.h.step
  | .vfsub a => a.h.step
  | .vfmul a => a.h.step
  | .vfma a => a.h.step
  | .vfmin a => a.h.step
  | .vfmax a => a.h.step
  | .vfabs a => a.h.step
  | .vfneg a => a.h.step
  | .vcmp a => a.h.step
  | .vfcmp a => a.h.step
  | .vsel a => a.h.step
  | .vmov a => a.h.step
  | .vbcast a => a.h.step
  | .vext a => a.h.step
  | .viota a => a.h.step
  | .vperm a => a.h.step
  | .vrot a => a.h.step
  | .vshuf a => a.h.step
  | .vred a => a.h.step
  | .vscan a => a.h.step
  | .vcvt a => a.h.step
  | .vpack a => a.h.step
  | .vunpk a => a.h.step
  | .vrns a => a.h.step
  | .vcrt a => a.h.step
  | .vexp2 a => a.step
  | .vlog2 a => a.step
  | .vrcp a => a.step
  | .vrsq a => a.step
  | .vtanh a => a.step
  | .vld a => a.h.step
  | .vldFeC a => a.h.step
  | .vldFeK a => a.h.step
  | .vst a => a.h.step
  | .vstF a => a.h.step
  | .vstE a => a.h.step
  | .vlds a => a.h.step
  | .vsts a => a.h.step
  | .vgth a => a.h.step
  | .vsct a => a.h.step
  | .accrd a => a.h.step
  | .accwr a => a.h.step
  | .feset a => a.h.step
  | .feclr a => a.h.step
  | .feprob a => a.h.step
  | .scw a => a.step
  | _ => 0
/-- The word with its operand codes stepped by n; `none` where a predicate code leaves p0–p11. -/
def stepInstr (n : Nat) : Instr → Option Instr
  | .vadd a => some (.vadd (stepVInt2S n a))
  | .vsub a => some (.vsub (stepVInt2S n a))
  | .vmul a => some (.vmul (stepVInt2S n a))
  | .vmulh a => some (.vmulh (stepVInt2 n a))
  | .vmad a => some (.vmad (stepVInt3S n a))
  | .vmin a => some (.vmin (stepVInt2 n a))
  | .vmax a => some (.vmax (stepVInt2 n a))
  | .vabs a => some (.vabs (stepVInt1S n a))
  | .vneg a => some (.vneg (stepVInt1S n a))
  | .vand a => some (.vand (stepVLane2 n a))
  | .vor a => some (.vor (stepVLane2 n a))
  | .vxor a => some (.vxor (stepVLane2 n a))
  | .vnot a => some (.vnot (stepVLane1 n a))
  | .vshl a => some (.vshl (stepVInt2 n a))
  | .vshr a => some (.vshr (stepVInt2 n a))
  | .vsar a => some (.vsar (stepVInt2 n a))
  | .vclmp a => some (.vclmp (stepVInt3 n a))
  | .vfadd a => some (.vfadd (stepVFp2 n a))
  | .vfsub a => some (.vfsub (stepVFp2 n a))
  | .vfmul a => some (.vfmul (stepVFp2 n a))
  | .vfma a => some (.vfma (stepVFp3 n a))
  | .vfmin a => some (.vfmin (stepVFmm n a))
  | .vfmax a => some (.vfmax (stepVFmm n a))
  | .vfabs a => some (.vfabs (stepVFsg n a))
  | .vfneg a => some (.vfneg (stepVFsg n a))
  | .vcmp a => (stepVCmp n a).map .vcmp
  | .vfcmp a => (stepVFcmp n a).map .vfcmp
  | .vsel a => some (.vsel (stepVSel n a))
  | .vmov a => some (.vmov (stepVLane1 n a))
  | .vbcast a => some (.vbcast (stepVBcast n a))
  | .vext a => some (.vext (stepVExt n a))
  | .viota a => some (.viota (stepVIota n a))
  | .vperm a => some (.vperm (stepVLane2 n a))
  | .vrot a => some (.vrot (stepVRot n a))
  | .vshuf a => some (.vshuf (stepVShuf n a))
  | .vred a => some (.vred (stepVRedF n a))
  | .vscan a => some (.vscan (stepVRedF n a))
  | .vcvt a => some (.vcvt (stepVCvt n a))
  | .vpack a => some (.vpack (stepVPackF n a))
  | .vunpk a => some (.vunpk (stepVUnpkF n a))
  | .vrns a => some (.vrns (stepVLane1 n a))
  | .vcrt a => some (.vcrt (stepVLane1 n a))
  | .vexp2 a => some (.vexp2 (stepVSpec n a))
  | .vlog2 a => some (.vlog2 (stepVSpec n a))
  | .vrcp a => some (.vrcp (stepVSpec n a))
  | .vrsq a => some (.vrsq (stepVSpec n a))
  | .vtanh a => some (.vtanh (stepVSpec n a))
  | .vld a => some (.vld (stepMLoad n a))
  | .vldFeC a => some (.vldFeC (stepMLoad n a))
  | .vldFeK a => some (.vldFeK (stepMLoad n a))
  | .vst a => some (.vst (stepMStore n a))
  | .vstF a => some (.vstF (stepMStore n a))
  | .vstE a => some (.vstE (stepMStore n a))
  | .vlds a => some (.vlds (stepMLoadS n a))
  | .vsts a => some (.vsts (stepMStoreS n a))
  | .vgth a => some (.vgth (stepMGather n a))
  | .vsct a => some (.vsct (stepMScatter n a))
  | .accrd a => some (.accrd (stepMLoad n a))
  | .accwr a => some (.accwr (stepMStore n a))
  | .feset a => some (.feset (stepMFe n a))
  | .feclr a => some (.feclr (stepMFe n a))
  | .feprob a => (stepMProb n a).map .feprob
  | .scw a => some (.scw (stepScW n a))
  | i => some i
/-- The re-issue j of a sticky word (R170). -/
def reissue (j : Nat) (i : Instr) : Option Instr :=
  stepInstr (j * #[0, 1, 2, 4].getD (stepCode i).toNat 0) i

/-- The slot operation of an instruction, with the payloads of XIMM and XADR of its bundle; `none` for NOP, a prefix and
every event. -/
def opOf (i : Instr) (xi : Option (BitVec 44)) (xa : Option (BitVec 16)) (s : State) : Option Op :=
  match i with
  | .bT a => some (opBT a s)
  | .bF a => some (opBF a s)
  | .j a => some (opJ a s)
  | .jx a => some (opJx a s)
  | .call a => some (opCall a s)
  | .ret a => some (opRet a s)
  | .loop a => some (opLoop a s)
  | .loopp a => some (opLoopp a s)
  | .lexit a => some (opLexit a s)
  | .commit a => some (opCommit a s)
  | .squash a => some (opSquash a s)
  | .exit a => some (opExit a s)
  | .trapi a => some (opTrapi a s)
  | .tret a => some (opTret a s)
  | .waitn a => some (opWaitn a s)
  | .add a => some (opAdd a s)
  | .sub a => some (opSub a s)
  | .mul a => some (opMul a s)
  | .mulh a => some (opMulh a s)
  | .mulhn a => some (opMulhn a s)
  | .div a => some (opDiv a s)
  | .divn a => some (opDivn a s)
  | .rem a => some (opRem a s)
  | .remn a => some (opRemn a s)
  | .and a => some (opAnd a s)
  | .andi a => some (opAndi a xi s)
  | .or a => some (opOr a s)
  | .ori a => some (opOri a xi s)
  | .xor a => some (opXor a s)
  | .xori a => some (opXori a xi s)
  | .andn a => some (opAndn a s)
  | .addi a => some (opAddi a xi s)
  | .shl a => some (opShl a s)
  | .shli a => some (opShli a s)
  | .shr a => some (opShr a s)
  | .shri a => some (opShri a s)
  | .sar a => some (opSar a s)
  | .sari a => some (opSari a s)
  | .rotl a => some (opRotl a s)
  | .min a => some (opMin a s)
  | .minn a => some (opMinn a s)
  | .max a => some (opMax a s)
  | .maxn a => some (opMaxn a s)
  | .clz a => some (opClz a s)
  | .ctz a => some (opCtz a s)
  | .popc a => some (opPopc a s)
  | .brev a => some (opBrev a s)
  | .bext a => some (opBext a s)
  | .bins a => some (opBins a s)
  | .sext a => some (opSext a s)
  | .zext a => some (opZext a s)
  | .movi a => some (opMovi a xi s)
  | .sel a => some (opSel a s)
  | .cmp a => some (opCmp a s)
  | .pset a => some (opPset a s)
  | .plog a => some (opPlog a s)
  | .fadd a => some (opFadd a s)
  | .fsub a => some (opFsub a s)
  | .fmul a => some (opFmul a s)
  | .ffma a => some (opFfma a s)
  | .fdiv a => some (opFdiv a s)
  | .fsqrt a => some (opFsqrt a s)
  | .fmin a => some (opFmin a s)
  | .fmax a => some (opFmax a s)
  | .fcmp a => some (opFcmp a s)
  | .fcvt a => some (opFcvt a s)
  | .fclass a => some (opFclass a s)
  | .movcb a => some (opMovcb a s)
  | .movq a => some (opMovq a s)
  | .csrr a => some (opCsrr a s)
  | .csrw a => some (opCsrw a s)
  | .aadd a => some (opAadd a s)
  | .aaddi a => some (opAaddi a xa s)
  | .amov a => some (opAmov a s)
  | .aget a => some (opAget a s)
  | .amode a => some (opAmode a s)
  | .lds a => some (opLds a xa s)
  | .sts a => some (opSts a xa s)
  | .vadd a => some (opVadd a s)
  | .vsub a => some (opVsub a s)
  | .vmul a => some (opVmul a s)
  | .vmulh a => some (opVmulh a s)
  | .vmad a => some (opVmad a s)
  | .vmin a => some (opVmin a s)
  | .vmax a => some (opVmax a s)
  | .vabs a => some (opVabs a s)
  | .vneg a => some (opVneg a s)
  | .vand a => some (opVand a s)
  | .vor a => some (opVor a s)
  | .vxor a => some (opVxor a s)
  | .vnot a => some (opVnot a s)
  | .vshl a => some (opVshl a s)
  | .vshr a => some (opVshr a s)
  | .vsar a => some (opVsar a s)
  | .vclmp a => some (opVclmp a s)
  | .vfadd a => some (opVfadd a s)
  | .vfsub a => some (opVfsub a s)
  | .vfmul a => some (opVfmul a s)
  | .vfma a => some (opVfma a s)
  | .vfmin a => some (opVfmin a s)
  | .vfmax a => some (opVfmax a s)
  | .vfabs a => some (opVfabs a s)
  | .vfneg a => some (opVfneg a s)
  | .vcmp a => some (opVcmp a s)
  | .vfcmp a => some (opVfcmp a s)
  | .vsel a => some (opVsel a s)
  | .vmov a => some (opVmov a s)
  | .vbcast a => some (opVbcast a s)
  | .vext a => some (opVext a s)
  | .viota a => some (opViota a s)
  | .vperm a => some (opVperm a s)
  | .vrot a => some (opVrot a s)
  | .vshuf a => some (opVshuf a s)
  | .vred a => some (opVred a s)
  | .vscan a => some (opVscan a s)
  | .vcvt a => some (opVcvt a s)
  | .vpack a => some (opVpack a s)
  | .vunpk a => some (opVunpk a s)
  | .vrns a => some (opVrns a s)
  | .vcrt a => some (opVcrt a s)
  | .vexp2 a => some (opVexp2 a s)
  | .vlog2 a => some (opVlog2 a s)
  | .vrcp a => some (opVrcp a s)
  | .vrsq a => some (opVrsq a s)
  | .vtanh a => some (opVtanh a s)
  | .vld a => some (opVld a s)
  | .vldFeC a => some (opVldFeC a s)
  | .vldFeK a => some (opVldFeK a s)
  | .vst a => some (opVst a s)
  | .vstF a => some (opVstF a s)
  | .vstE a => some (opVstE a s)
  | .vlds a => some (opVlds a s)
  | .vsts a => some (opVsts a s)
  | .vgth a => some (opVgth a s)
  | .vsct a => some (opVsct a s)
  | .accrd a => some (opAccrd a s)
  | .accwr a => some (opAccwr a s)
  | .feset a => some (opFeset a s)
  | .feclr a => some (opFeclr a s)
  | .feprob a => some (opFeprob a s)
  | .tmma a => some (opTmma a s)
  | .tmmaPkg a => some (opTmmaPkg a s)
  | .tmmaGang a => some (opTmmaGang a s)
  | .tmmas a => some (opTmmas a s)
  | .tmmaP a => some (opTmmaP a s)
  | .tzero a => some (opTzero a s)
  | .tdrain a => some (opTdrain a s)
  | .tload a => some (opTload a s)
  | .ttrn a => some (opTtrn a s)
  | .tjoin a => some (opTjoin a s)
  | .tjoinSum a => some (opTjoinSum a s)
  | .tstop a => some (opTstop a s)
  | .tres a => some (opTres a s)
  | .tprog a => some (opTprog a s)
  | .scw a => some (opScw a s)
  | .scs a => some (opScs a s)
  | .scz a => some (opScz a s)
  | .scsel a => some (opScsel a s)
  | .cpy a => some (opCpy a s)
  | .cpyw a => some (opCpyw a s)
  | .cpyx a => some (opCpyx a s)
  | .cpyf a => some (opCpyf a s)
  | .amoAdd a => some (opAmoAdd a s)
  | .amoMin a => some (opAmoMin a s)
  | .amoMax a => some (opAmoMax a s)
  | .amoAnd a => some (opAmoAnd a s)
  | .amoOr a => some (opAmoOr a s)
  | .amoXor a => some (opAmoXor a s)
  | .amoSwp a => some (opAmoSwp a s)
  | .amoCas a => some (opAmoCas a s)
  | .amoFaddx a => some (opAmoFaddx a s)
  | .flushx a => some (opFlushx a s)
  | .pfh a => some (opPfh a s)
  | .migr a => some (opMigr a s)
  | .cpq a => some (opCpq a s)
  | .cpstop a => some (opCpstop a s)
  | .cpres a => some (opCpres a s)
  | .bari a => some (opBari a s)
  | .bara a => some (opBara a s)
  | .barx a => some (opBarx a s)
  | .barw a => some (opBarw a s)
  | .phaseCommit a => some (opPhaseCommit a s)
  | .phaseOn a => some (opPhaseOn a s)
  | .phaseOff a => some (opPhaseOff a s)
  | .cbwait a => some (opCbwait a s)
  | .fenceAcq a => some (opFenceAcq a s)
  | .fenceRel a => some (opFenceRel a s)
  | .fenceFull a => some (opFenceFull a s)
  | .fenceq a => some (opFenceq a s)
  | .tpost a => some (opTpost a s)
  | .evinc a => some (opEvinc a s)
  | .evwait a => some (opEvwait a s)
  | .tlbi a => some (opTlbi a s)
  | .sldrain a => some (opSldrain a s)
  | .trcon a => some (opTrcon a s)
  | .trcoff a => some (opTrcoff a s)
  | .pmrd a => some (opPmrd a s)
  | .enrd a => some (opEnrd a s)
  | .gangc a => some (opGangc a s)
  | .yield a => some (opYield a s)
  | _ => none

end Sys2Proof.Machine
end

