-- ==== Sys2Proof/Machine/Bundle.lean ====
section
/-! DEFINITION. One clock of a unit (R40–R46, R161–R184): fetch, stalls, the issue of one bundle instance, what follows
the last instance of a bundle (Table 18.6), segments, markers, the recorder and the precise stop. -/
namespace Sys2Proof.Machine

/-! ### Fetch (R137, R161) -/
/-- What the I-cache gives for the bundle at an address. -/
inductive Fetch
  | miss (line : Nat)
  | ok (h : Header) (ws : List (Fin 12 × Word)) (trailer : Word)
/-- The bundle at an address, or the first line that is missing. -/
def UnitSt.fetch (x : UnitSt) (pc : Nat) : Fetch :=
  match x.icBytes pc 8 with
  | none => .miss ((x.icMiss pc 8).getD (pc / 64 * 64))
  | some b =>
    let h : Header := ⟨BitVec.ofNat 64 (leNat b)⟩
    match x.icBytes (pc + 8) (h.len - 8) with
    | none => .miss ((x.icMiss pc h.len).getD (pc / 64 * 64))
    | some bs =>
      let ws := wordsOf (h.len / 8 - 1) bs
      .ok h (h.words ws) (if h.kind = 2#4 then ws.getLastD 0 else 0)
/-- A skip resolved: once the header at PC is present, PC moves past its bundle (R376). -/
def UnitSt.resolveSkip (x : UnitSt) : UnitSt :=
  if x.seq.skip then
    match x.icBytes x.seq.pc.toNat 8 with
    | some b => { x with seq := { x.seq with pc := x.seq.pc + BitVec.ofNat 56 (Header.len ⟨BitVec.ofNat 64 (leNat b)⟩), skip := false } }
    | none => x
  else x

/-! ### What the slots issue in an instance (R169–R171) -/
/-- The sticky state of a slot. -/
def stickyIdx (slot : Fin 12) : Option (Fin 4) :=
  match slot.val with
  | 5 => some 0
  | 6 => some 1
  | 7 => some 2
  | 9 => some 3
  | _ => none
/-- What one slot issues: its word, the re-issue count, its operation; `none` for NOP and a prefix. -/
structure Issued where
  slot : Fin 12
  word : Word
  j : Nat
  op : Option Op
/-- The words that issue in the present instance with their re-issue counts, in slot order. -/
def issueWords (x : UnitSt) (h : Header) (ws : List (Fin 12 × Word)) : List (Fin 12 × Word × Nat) :=
  (List.range 12).filterMap fun i =>
    let sl : Fin 12 := Fin.ofNat 12 i
    let here := (ws.find? fun w => w.1 = sl).map Prod.snd
    match stickyIdx sl with
    | none => if x.seq.rix = 0 then here.map fun w => (sl, w, 0) else none
    | some q =>
      let st := x.seq.sticky[q]
      match here with
      | some w => if x.seq.rix = 0 then some (sl, w, 0) else if st.released then none else some (sl, st.w, st.j.toNat + 1)
      | none => if st.released || h.rel.getLsbD q.val then none else some (sl, st.w, st.j.toNat + 1)
/-- The level of a word whose fault is held with a boost entry: the word of a boostable operation in S0, S1, A0, A1, or of a load or
ACCRD in VM (R199, R237, log 63). -/
def heldLevel (slot : Fin 12) (r : RawWord) (c : BitVec 8) : Option Boost :=
  if c = cILLEGAL_OPERAND && r.opc != 0#8 && (slot = 1 || slot = 2 || slot = 3 || slot = 4 || slot = 7) then
    (match decBst r.bst with | some .none | none => none | b => b)
  else none
/-- The slot fields of a word that no instruction has, or that stand in a wrong place: only a fault, unless its guard
nullifies it (R372). The fault of a boosted word is held for COMMIT (R199). -/
def badOp (x : UnitSt) (slot : Fin 12) (w : Word) (c : BitVec 8) : Op :=
  let r := RawWord.ofBits w
  let lv := heldLevel slot r c
  let guarded := !(slot = 5 || slot = 6 || slot = 7) && r.opc != 0xf0#8 && r.opc != 0#8
  { slot := slot, word := w, lvl := lv.bind Boost.lvl, fault := if lv.isSome then none else some (c, w),
    eff := fun t => match lv with
      | some b => t.emit { slot := slot, bst := b, dst := .none, lat := 1, mask := 0, held := some (c, w) }
      | none => t,
    nul := guarded && (match decP r.gp with
      | some p => !x.guardOn ((decBst r.bst).getD .none) { gp := p, neg := asBool r.gn }
      | none => false) }
/-- The cause of a decoding error (R372). -/
def errCode : DecErr → BitVec 8
  | .illegalOpcode => cILLEGAL_OPCODE
  | .illegalPrefix => cILLEGAL_PREFIX
  | .boostIllegal => cBOOST_ILLEGAL
  | .illegalOperand => cILLEGAL_OPERAND
/-- A form whose immediate XIMM extends (R383). -/
def takesXimm : Instr → Bool
  | .addi _ | .andi _ | .ori _ | .xori _ | .movi _ => true
  | _ => false
/-- A form whose displacement XADR extends (R383). -/
def takesXadr : Instr → Bool
  | .aaddi _ | .lds _ | .sts _ => true
  | _ => false
/-- The instruction of a word at re-issue j. -/
def wordInstr (slot : Fin 12) (w : Word) (j : Nat) : Except DecErr Instr :=
  match decodeSlot slot w with
  | .error e => .error e
  | .ok i =>
    if j = 0 then .ok i
    else
      match reissue j i with
      | some k => if k.wf then .ok k else .error .illegalOperand
      | none => .error .illegalOperand
/-- The payload of an XIMM or XADR word of an instance. -/
def ximmOf (ws : List (Fin 12 × Word × Nat)) : Option (BitVec 44) :=
  (ws.find? fun w => w.1 = 2).bind fun w => match decodeSlot 2 w.2.1 with | .ok (.ximm a) => some a.payload | _ => none
/-- HI of an XADR word. -/
def xadrOf (ws : List (Fin 12 × Word × Nat)) : Option (BitVec 16) :=
  (ws.find? fun w => w.1 = 4).bind fun w => match decodeSlot 4 w.2.1 with | .ok (.xadr a) => some a.hi | _ => none
/-- The operation of one word of an instance. -/
def State.opOfWord (s : State) (ws : List (Fin 12 × Word × Nat)) (w : Fin 12 × Word × Nat) : Option Op :=
  match wordInstr w.1 w.2.1 w.2.2 with
  | .error e => some (badOp s.me w.1 w.2.1 (errCode e))
  | .ok i => opOf i (ximmOf ws) (xadrOf ws) s
/-- The opcodes of the forms that take a prefix, in S0 and in A0 (Tables 7.12, 7.13). -/
def prefixOpcs (slot : Fin 12) : List (BitVec 8) := if slot = 1 then [0x02, 0x11, 0x13, 0x15, 0x30] else [0x02, 0x10, 0x11]
/-- A prefix is paired with a word of its forms that is not nullified (R178, R383), one with a reserved operand code among them. -/
def State.paired (s : State) (ws : List (Fin 12 × Word × Nat)) (slot : Fin 12) (ok : Instr → Bool) : Bool :=
  match ws.find? fun w => w.1 = slot with
  | none => false
  | some w =>
    match wordInstr w.1 w.2.1 w.2.2 with
    | .ok i => ok i && (match opOf i none none s with | some o => !o.nul | none => false)
    | .error e => (prefixOpcs slot).contains (RawWord.ofBits w.2.1).opc && !(badOp s.me w.1 w.2.1 (errCode e)).nul
/-- What the slots issue in the present instance. -/
def State.issued (s : State) (h : Header) (ws : List (Fin 12 × Word)) : List Issued :=
  let l := issueWords s.me h ws
  l.map fun w =>
    let op := match wordInstr w.1 w.2.1 w.2.2 with
      | .ok (.ximm _) => if s.paired l 1 takesXimm then none else some (badOp s.me 2 w.2.1 cILLEGAL_PREFIX)
      | .ok (.xadr _) => if s.paired l 3 takesXadr then none else some (badOp s.me 4 w.2.1 cILLEGAL_PREFIX)
      | _ => s.opOfWord l w
    { slot := w.1, word := w.2.1, j := w.2.2, op := op }

/-! ### The tests of an instance (R371, R372, R382) -/
/-- Table 18.8, first three rows. -/
def headerBad (brimU : Bool) (h : Header) (ws : List (Fin 12 × Word)) : Bool :=
  let phase := ws.any fun w => w.1 = 11 && fld w.2 56 8 = 8#8
  4 < h.kind.toNat || fld h.raw 28 4 != 0 || fld h.raw 22 2 != 0 || (h.kind.toNat ≤ 2 && h.payload != 0) ||
    (h.kind = 4#4 && (fld h.payload 12 20 != 0 || !phase || brimU)) || (h.kind != 4#4 && phase) ||
    (brimU && (h.pres &&& 0x2E0#12 != 0 || h.rel != 0))
/-- The port limits of R87: distinct registers, four of each parity, three of each vector bank. -/
def portsBad (ops : List Op) : Bool :=
  let sr := (ops.flatMap Op.sr).eraseDups
  let vr := (ops.flatMap Op.vr).eraseDups
  (List.range 2).any (fun b => 4 < (sr.filter fun r => r.val % 2 = b).length) ||
    (List.range 4).any fun b => 3 < (vr.filter fun r => r.val % 4 = b).length
/-- SEGMENT_STATE: KIND 1 while a segment is open, in the instance that opens one, and KIND 2 while none is open. -/
def segmentBad (x : UnitSt) (h : Header) : Bool :=
  (h.kind = 1#4 && x.seq.rix = 0 && x.seg.opened) || (h.kind = 2#4 && !x.seg.opened)
/-- The first slot fault, in ascending slot index; counts of boosted operations and queue entries of lower slots. -/
def slotFault (x : UnitSt) : List Op → Nat → Nat → List EngId → Option (TrapArg × Op)
  | [], _, _, _ => none
  | o :: t, b1, b2, pre =>
    if o.nul then slotFault x t b1 b2 pre
    else
      match o.trapOf x (if o.lvl = some true then b2 else b1) pre with
      | some a => some (a, o)
      | none => slotFault x t (if o.lvl = some false then b1 + 1 else b1) (if o.lvl = some true then b2 + 1 else b2) (pre ++ o.enq)
/-- The first wait, in ascending slot index (R43). -/
def firstWait (ops : List Op) : Option (Op × Nat × Nat) :=
  ops.findSome? fun o => if o.nul then none else o.wait.map fun w => (o, w)
/-- A fault of the bundle as a whole. -/
def bundleFault (h : Header) (c : BitVec 8) : TrapArg := { code := c, tval := h.raw }

/-! ### The end of a clock -/
/-- The kinds of clock: the cube and the scratch pipelines move, or are frozen (Table 2.6), or batts alone compute. -/
inductive ClockKind | run | frozen | backlog
  deriving DecidableEq, Repr
/-- The cube at the end of a clock. -/
def UnitSt.cubeEnd (x : UnitSt) (k : ClockKind) : UnitSt :=
  match k with
  | .run => let x := x.planeTick; { x with cube := (let c : Cube := { x.cube with fresh := [] }; if x.status = .killed then c else c.settle), ck := { x.ck with run := x.ck.run + 1 } }
  | .frozen => x
  | .backlog => x.planeTick
/-- Steps of the duty-cycle governor that take effect in a clock with CLK[2:0] = 0 (R410). -/
def CrownCfg.newSteps (c : CrownCfg) (clk : Nat) : CrownCfg := if clk % 8 = 0 then { c with dcg := c.dcg.map fun d => { d with eff := d.step } } else c
/-- Counters that rise with every clock: CLK, CCLK once the context's first bundle has issued, and the clocks since PREQ rose
(R378, R436). -/
def UnitSt.tick (x : UnitSt) : UnitSt :=
  { x with
    ck := { x.ck with clk := (x.ck.clk + 1) % 2 ^ 64, reqClks := if x.ck.preq || x.status = .saving || x.status = .stored then x.ck.reqClks + 1 else x.ck.reqClks },
    obs := { x.obs with cclk := if x.obs.begun && x.ctx.isSome then x.obs.cclk + 1 else x.obs.cclk },
    bars := x.bars.map Barrier.tick,
    cfg := x.cfg.newSteps (x.ck.clk + 1),
    es := { x.es with ports := [], filled := [], eng := x.es.eng.map fun e => { e with freed := 0 } } }
/-- A crown's clock at the end of a change: the new frequency counts from the next clock (R352). -/
def State.changeTick (s : State) : State :=
  let c := s.me.ck
  if c.gateRun = 0 then s
  else
    let t := s.modMe fun x => { x with ck := { x.ck with gateRun := c.gateRun - 1 } }
    if c.gateRun = 1 && !isBrim s.cur then
      t.modDev fun d => { d with pow := { d.pow with mhz := d.pow.mhz.set (Fin.ofNat 8 s.cur.val) c.nextMhz } }
    else t
/-- The end of a clock of the present unit (Table 7.11, R134, R343). -/
def State.endClock (s : State) (k : ClockKind) : State :=
  let s := if k = .run then s.performAll s.cur else s
  ((s.modMe fun x => (x.cubeEnd k).tick).pmClock s.cur).changeTick
/-- A clock of a precise stop: CLK and the rotating counters alone (R346). -/
def State.stopClock (s : State) : State :=
  ((s.modMe fun x =>
    { x with
      ck := { x.ck with clk := (x.ck.clk + 1) % 2 ^ 64 },
      cfg := x.cfg.newSteps (x.ck.clk + 1),
      bars := x.bars.map Barrier.tick,
      es := { x.es with ports := [], filled := [], eng := x.es.eng.map fun e => { e with freed := 0 } } }).pmClock s.cur).changeTick
/-- A stall clock of Table 2.6: counted, and recorded while armed (R345). -/
def State.stallNote (s : State) (cause obj : Nat) : State :=
  let s := s.pmEvent s.cur (if cause ≤ 3 then 4 else 5) 1
  let s := if cause = 4 then s.pmEvent s.cur 6 1 else s
  if s.me.obs.arm then s.trace s.cur 11 true s.me.seq.pc.toNat (BitVec.ofNat 64 cause) (BitVec.ofNat 64 obj) else s
/-- A stall clock whose cause is not one of Table 2.6 (a faulting instance, the entry and the return of a trap, a cancellation):
recorded while armed, with a cause that the spec does not state (R345; log 29). -/
def State.openStall (s : State) : State :=
  if s.me.obs.arm then
    { s with free := s.free + 1 }.trace s.cur 11 true s.me.seq.pc.toNat (BitVec.ofNat 64 ((Config.freeValue s.free).toNat % 16)) 0
  else s
/-- A clock in which an instance has faulted, or nothing of Table 2.6 holds the unit. -/
def State.faultClock (s : State) : State := s.openStall.endClock .run

/-! ### Landing points, EXIT, the end of a bundle (Table 18.6) -/
/-- A deferred cause is due at a boundary (R373). -/
def UnitSt.causeDue (x : UnitSt) : Bool := (duePend x.trap.tl x.trap.pend).isSome
/-- PREQ sampled at a landing point (R45, R46): the context stops. -/
def State.sample (s : State) : State :=
  let x := s.me
  if x.ck.preq && x.trap.tl = 0 && x.seq.boost.isEmpty && !x.causeDue && x.status = .running then
    let s := (s.closeStall s.cur).modMe fun x =>
      { x with status := .saving, ck := { x.ck with preq := false, rprio := 0, stopAt := x.ck.run } }
    s.trace s.cur 9 false 0 (BitVec.ofNat 64 (x.tw 2)) 1
  else s
/-- EXIT takes effect (R201, R51, R380, R317). -/
def State.doExit (s : State) : State :=
  let s := s.castVote s.cur
  let s := s.modMe fun x => { x with
    status := .exiting,
    seq := { x.seq with boost := [], held := none },
    cube := { x.cube with stopped := none },
    es := { x.es with eng := x.es.eng.map fun e => if e.stopped then e.restart else e },
    ck := { x.ck with preq := false, rprio := 0, reqClks := 0 } }
  let s := if isBrim s.cur then s.modDev fun d => { d with pkg := d.pkg.filter fun p => !p.stopped } else s
  match s.me.trap.pend with
  | [] => s
  | p :: ps => s.killUnit s.cur ((duePend 0 (p :: ps)).getD p).code
/-- The innermost entry whose END is the present bundle. -/
def UnitSt.atEnd (x : UnitSt) : Option LoopEnt := x.seq.loops.getLast?.filter fun e => e.endA = x.seq.pc
/-- The back-edge of an entry (R196): the entry after it and `in`, or `none` when the loop ends. -/
def LoopEnt.again (e : LoopEnt) : Option (LoopEnt × Bool) :=
  let e' := if e.pipe then { e with rbase := e.rbase + 31 } else e
  if e.count != 0 then some ({ e' with count := e.count - 1 }, true)
  else if e.epi != 0 then some ({ e' with epi := e.epi - 1 }, false)
  else none
/-- The shift of the stage predicates (R196). -/
def Regs.shiftStages (r : Regs) (inn : Bool) : Regs :=
  { r with p := Vector.ofFn fun i : Fin 12 =>
      if i.val < 4 then r.p[i] else if i.val = 4 then (if inn then BitVec.allOnes 128 else 0) else r.p[i.val - 1]! }
/-- The stage predicates that LOOPP sets (R195). -/
def Regs.startStages (r : Regs) : Regs :=
  { r with p := Vector.ofFn fun i : Fin 12 => if i.val < 4 then r.p[i] else if i.val = 4 then BitVec.allOnes 128 else 0 }
/-- The innermost entry replaced. -/
def setLast (l : List LoopEnt) (e : LoopEnt) : List LoopEnt := l.dropLast ++ [e]
/-- After a bundle with no transfer: the back-edge test, and whether a back-edge was taken (R196). -/
def State.advance (s : State) : State × Bool :=
  let x := s.me
  let next := s.seqAddr
  let seqOn := fun (s : State) => s.modMe fun x => { x with seq := { x.seq with pc := next, rix := 0 } }
  match x.atEnd with
  | none => (seqOn s, false)
  | some e =>
    match e.again with
    | none => (seqOn (s.modMe fun x => { x with seq := { x.seq with loops := x.seq.loops.dropLast } }), false)
    | some (e', inn) =>
      let s := s.modMe fun x => { x with
        regs := if e.pipe then x.regs.shiftStages inn else x.regs,
        seq := { x.seq with loops := setLast x.seq.loops e', pc := e.start, rix := 0 } }
      let w2 : Word := BitVec.ofNat 64 (2 ^ 41 + (if e'.pipe then 2 ^ 40 else 0) + e'.rbase.toNat * 2 ^ 35 + e'.epi.toNat * 2 ^ 32 + e'.count.toNat)
      (s.trace s.cur 1 true x.seq.pc.toNat w2 (e'.endA.setWidth 64), true)
/-- The transfers of R193–R198, with whether the boundary is that of a taken back-edge. -/
def State.transfer (s : State) : Option BrAct → State × Bool
  | some (.goto t) => (s.modMe fun x => { x with seq := { x.seq with pc := t, rix := 0 } }, false)
  | some (.push pipe t epi rb endA) =>
    if t = 0 then (s.goAfter s.cur endA, false)
    else
      let next := s.seqAddr
      (s.modMe fun x => { x with
        regs := if pipe then x.regs.startStages else x.regs,
        seq := { x.seq with pc := next, rix := 0, loops := x.seq.loops ++
          [({ pipe := pipe, rbase := if pipe then rb else 0, epi := if pipe then epi else 0, count := t - 1, start := next, endA := endA } : LoopEnt)] } },
       false)
  | some .lexit =>
    match s.me.seq.loops.getLast? with
    | some e => ((s.modMe fun x => { x with seq := { x.seq with loops := x.seq.loops.dropLast } }).goAfter s.cur e.endA, false)
    | none => s.advance
  | _ => s.advance
/-- The cause of a header fetch that a transfer needed and that failed is raised by the fill (R435). After the last
instance (Table 18.6): EXIT; TRAPI; TRET; else the next bundle, and PREQ at a landing point. -/
def State.afterBundle (s : State) : State :=
  let act := s.me.seq.br
  let yld := s.me.seq.yielded
  let s := s.modMe fun x => { x with seq := { x.seq with br := none, yielded := false } }
  match act with
  | some .exit => s.doExit
  | some (.trapi code) =>
    -- the instance that has issued counts before its results are held (R374)
    let s := s.advance.1.modMe fun x => { x with ck := { x.ck with scyc := x.ck.scyc + 1 } }
    s.takeTrap s.cur { code := cTRAP_IMM, tval := code.setWidth 64 }
  | some .tret => s.modMe fun x => { x with seq := { x.seq with rix := 0, runDown := true } }
  | a =>
    let r := s.transfer a
    if r.2 || yld then r.1.sample else r.1
/-- A taken back-edge follows the present instance: END, no transfer, an iteration still to run (R31). -/
def UnitSt.backEdgeNext (x : UnitSt) : Bool :=
  (match x.seq.br with | none | some (.trapi _) => true | _ => false) && (match x.atEnd with | some e => e.again.isSome | none => false)

/-! ### Segments (R181), markers (R344) -/
/-- The control word of Table 7.8. -/
def controlWord (h : Header) (rix : BitVec 6) (nul : Bool) (l : List Issued) : BitVec 128 :=
  BitVec.ofNat 128 ((l.foldl (fun t i => t + (fld i.word 56 8).toNat * 2 ^ (8 * i.slot.val)) 0)
    + h.pres.toNat * 2 ^ 96 + rix.toNat * 2 ^ 108 + (if nul then 2 ^ 114 else 0))
/-- A segment opens. -/
def Segment.begin_ (_ : Segment) : Segment := { opened := true, cnt := 0, crc := 0xFFFFFFFF, phased := false }
/-- A control word fed to an open segment. -/
def Segment.feed (g : Segment) (w : BitVec 128) : Segment :=
  if g.opened then { g with cnt := g.cnt + 1, crc := crcUpdate g.crc (leBytes 16 w.toNat) } else g
/-- The segment agrees with its trailer (R181). -/
def Segment.agrees (g : Segment) (cnt sig : BitVec 32) : Bool := g.cnt == cnt.setWidth 64 && g.crc ^^^ 0xFFFFFFFF#32 == sig
/-- The end of a segment on the present unit (R181, R391). -/
def State.segEnd (s : State) (cnt sig : BitVec 32) : State :=
  let ok := s.me.seg.agrees cnt sig
  let s := s.modMe fun x => { x with seg := { x.seg with opened := false } }
  if ok then s else s.signatureFault s.cur
/-- A marker at its instance 0 (R344, R345): nothing at levels 1 and 2. -/
def State.marker (s : State) (payload : BitVec 32) : State :=
  let x := s.me
  if x.trap.tl != 0 then s
  else
    let rs := !x.obs.cclkBase
    let d := if rs then 0 else x.obs.cclk - payload
    let arm := decide ((x.obs.dthresh.toNat : Int) < (d.toInt.natAbs : Int))
    let w0 : Word := BitVec.ofNat 64 ((if arm then 2 ^ 55 else 0) + (if rs then 2 ^ 54 else 0) + unitCode s.cur * 2 ^ 48 + x.ck.scyc % 2 ^ 48)
    let w1 : Word := d ++ payload
    let s := s.modMe fun x => { x with obs := { x.obs with cclk := if rs then payload else x.obs.cclk, cclkBase := true, arm := arm } }
    let s := (s.pmEvent s.cur 14 1).trace s.cur 10 true x.seq.pc.toNat w0 w1
    let o := x.obs
    if bitsOf o.dlog.toNat 12 44 = 0 then s
    else
      let va := bitsOf o.dlog.toNat 12 44 * 4096 + o.dhead.toNat % (256 * (bitsOf o.dlog.toNat 0 12 + 1)) * 16
      let r := s.engWrite s.cur 10 o.rxl va (leBytes 8 w0.toNat ++ leBytes 8 w1.toNat)
      let s := r.1.modMe fun x => { x with obs := { x.obs with dhead := x.obs.dhead + 1 } }
      if r.2 = 0 then s else s.traceFault s.cur va

/-! ### Recorder, triggers, precise stop (R340–R342, R346) -/
/-- A comparator in the present instance. A record counts in MODE 3 whether SRCEN enables its source or not: the model's choice (log 76). -/
def trigTrue (t : Word) (pc : BitVec 56) (scyc : Nat) (recs : List TraceRec) : Bool :=
  match bitsOf t.toNat 60 4 with
  | 1 => pc.toNat == bitsOf t.toNat 3 53 * 8
  | 2 => scyc == bitsOf t.toNat 0 56
  | 3 => recs.any fun r => r.sync && r.src == bitsOf t.toNat 0 4
  | _ => false
/-- Records sorted by source. -/
def bySource (l : List TraceRec) : List TraceRec := (List.range 16).flatMap fun k => l.filter fun r => r.src == k
/-- The recorder at the end of an instance: triggers, the records of its schedule cycle, and whether the trigger stops the
unit (R342). An asynchronous event of this clock names the next schedule cycle (R340). -/
def State.record (s : State) (pc : BitVec 56) (scyc : Nat) : State × Bool :=
  let o := s.me.obs
  let now := s.me.ck.clk % 2 ^ 32
  let mine := o.recs.filter fun r => r.sync && r.clkl == now
  let a := trigTrue o.trga pc scyc mine
  let b := trigTrue o.trgb pc scyc mine
  let cap := o.cap || a
  let act := bitsOf o.trgb.toNat 56 2
  let write := (o.rctl.getLsbD 16 || o.frozenAt.isSome) && (bitsOf o.trga.toNat 60 4 = 0 || cap)
  let due := o.recs.filter fun r => r.sync || r.clkl != now
  let s := s.modMe fun x => { x with obs := { x.obs with recs := o.recs.filter fun r => !r.sync && r.clkl == now, cap := cap && !b } }
  (if write then s.putRecs s.cur scyc ((bySource due).filter (·.on)) else s, cap && b && (act = 1 || act = 2))
/-- A precise stop, at the end of the present clock. -/
def State.preciseStop (s : State) (trig : Bool) : State :=
  if trig || s.me.stop.stopReq then
    s.modMe fun x =>
      { x with
        ck := { x.ck with stopAt := x.ck.run },
        stop := { x.stop with stopReq := false, stopped := true, dumped := false } }
  else s

/-! ### One instance -/
/-- The sticky states after an instance (R170, R171). -/
def stickyAfter (q : Vector Sticky 4) (l : List Issued) : Vector Sticky 4 :=
  l.foldl (fun q i =>
    match stickyIdx i.slot with
    | none => q
    | some k =>
      let st : Sticky := { w := i.word, j := BitVec.ofNat 32 i.j, released := decide (i.word = 0#64) || fld (n := 64) i.word 54 2 != 0#2 }
      q.set k st) q
/-- REL after the last instance. -/
def relAfter (q : Vector Sticky 4) (rel : BitVec 4) : Vector Sticky 4 :=
  Vector.ofFn fun k : Fin 4 => if rel.getLsbD k.val then { q[k] with released := true } else q[k]
/-- The end of a clock in which a wait holds the instance (R43, R45). -/
def State.waitEnd (s : State) (c : Nat × Nat) : State :=
  let s := (s.stallNote c.1 c.2).preciseStop false
  let s := if s.me.stop.stopped then s else s.sample
  s.endClock .run
/-- The products of a resumed context take up their schedule with the first instance to issue: the next step reads in the run clock
r + CRD − 1, which can be this one (R467). -/
def State.wakeCube (s : State) : State :=
  if !(s.me.cube.cmds.any fun k => k.crd.isSome) then s
  else
    let t := s.modMe fun x => { x with cube := { x.cube with cmds := x.cube.cmds.map fun k =>
      match k.crd with
      | some c =>
        let n := if tkind k.hdr == .mmap then k.next / 8 * 8 else k.next
        { k with crd := none, origin := n, t := x.ck.run + c - 5 }
      | none => k } }
    if t.me.stepDue.isSome then t.cubeStepRow s.cur else t
/-- What an instance that commits does beside the effects of its operations: sticky states, marker, segment, counters. -/
def State.commitInstance (s : State) (h : Header) (l : List Issued) : State :=
  let x := s.me
  let ops := l.filterMap Issued.op
  let nul := ops.any Op.nul
  let s := (s.closeStall s.cur).wakeCube.modMe fun x => { x with
    obs := { x.obs with begun := true }, seq := { x.seq with sticky := stickyAfter x.seq.sticky l } }
  let s := if h.kind = 3#4 && x.seq.rix = 0 then s.marker h.payload else s
  let s := s.modMe fun y =>
    let g := if h.kind = 1#4 && x.seq.rix = 0 then y.seg.begin_ else y.seg
    { y with seg := if x.trap.tl = 0 then g.feed (controlWord h x.seq.rix nul l) else g }
  let s := s.charge s.cur 0 1
  let s := (s.pmEvent s.cur 2 1).pmEvent s.cur 3 (if nul then 1 else 0)
  let s := s.pmEvent s.cur 7 (ops.filter fun o => o.slot = 5 || o.slot = 6).length
  s.pmEvent s.cur 8 (ops.filter fun o => o.slot = 7 && o.cls == some 5 && !o.nul).length
/-- What follows a committed instance: the next instance, or after the last one REL, the trailer and the transfer; a context that a
signature kills stands at its next instance (R391, R402). -/
def State.nextInstance (s : State) (h : Header) (trailer : Word) : State :=
  let x := s.me
  if x.seq.rix.toNat < h.rpt.toNat then s.modMe fun x => { x with seq := { x.seq with rix := x.seq.rix + 1 } }
  else
    let s := s.modMe fun x => { x with seq := { x.seq with sticky := relAfter x.seq.sticky h.rel } }
    let s' := if h.kind = 2#4 then s.segEnd (fld trailer 0 32) (fld trailer 32 32) else s
    if h.kind = 2#4 && !(s.me.seg.agrees (fld trailer 0 32) (fld trailer 32 32)) then
      (if s'.me.status = .killed then s'.modMe fun y => { y with seq := { y.seq with pc := s.afterBundle.me.seq.pc } } else s')
    else s'.afterBundle
/-- The end of a clock in which an instance has issued. -/
def State.issuedClock (s : State) (pc : BitVec 56) (scyc : Nat) : State :=
  let r := s.record pc scyc
  let s := r.1.modMe fun x => { x with ck := { x.ck with scyc := scyc + 1 } }
  (s.preciseStop r.2).endClock .run
/-- The rest of a clock after the effects `t` of the operations of an instance that began in `s`; a taken back-edge with a
boosted operation outstanding faults instead (R384). -/
def State.closeInstance (s t : State) (h : Header) (trailer : Word) (l : List Issued) : State :=
  let x := s.me
  let t := t.commitInstance h l
  if x.seq.rix = h.rpt && t.me.backEdgeNext && !t.me.seq.boost.isEmpty then
    (s.takeTrap s.cur { code := cBOOST_STATE, tval := t.me.boostTval }).faultClock
  else (t.nextInstance h trailer).issuedClock x.seq.pc x.ck.scyc
/-- The effects of the operations of an instance, in slot order. -/
def State.runOps (s : State) (ops : List Op) : State := (ops.filter fun o => !o.nul).foldl (fun s o => o.run s) s
/-- The cause that stops a bundle before its slots (Table 18.8). -/
def State.bundleCause (s : State) (h : Header) (ws : List (Fin 12 × Word)) (ops : List Op) : Option (BitVec 8) :=
  if headerBad (isBrim s.cur) h ws || portsBad ops then some cILLEGAL_BUNDLE
  else if segmentBad s.me h then some cSEGMENT_STATE
  else none
/-- THE ISSUE OF ONE INSTANCE of a fetched bundle in the present clock. -/
def State.issue (s : State) (h : Header) (ws : List (Fin 12 × Word)) (trailer : Word) : State :=
  let l := s.issued h ws
  let ops := l.filterMap Issued.op
  match if headerBad (isBrim s.cur) h ws then none else firstWait ops with
  | some (o, c) => ((o.onWait s).holdFor c.1).waitEnd c
  | none =>
    match s.bundleCause h ws ops with
    | some c => (s.takeTrap s.cur (bundleFault h c)).faultClock
    | none =>
      match slotFault s.me ops 0 0 [] with
      | some (a, o) => ((o.onFault s).takeTrap s.cur a).faultClock
      | none => s.closeInstance (s.runOps ops) h trailer l
/-- The rest of a clock in which one operation alone was to issue: `t` is what its meaning answered (R43, R371). -/
def State.finish (s t : State) (h : Header) (trailer : Word) (i : Issued) : State :=
  match i.op with
  | none => s.closeInstance t h trailer [i]
  | some o =>
    if o.nul then s.closeInstance t h trailer [i]
    else
      match o.wait with
      | some c => t.waitEnd c
      | none => if (o.trapOf s.me 0 []).isSome then t.faultClock else s.closeInstance t h trailer [i]

/-! ### One clock -/
/-- Gmax: the largest step in effect (R411). -/
def UnitSt.gmax (x : UnitSt) : Nat := x.cfg.dcg.toList.foldl (fun m d => max m d.eff.toNat) 0
/-- The gate stall of the present clock, if any: duty cycle, backlog, clock change (R411, R412, R352). -/
def UnitSt.gate (x : UnitSt) : Option (Nat × ClockKind) :=
  if 0 < x.ck.gateRun then some (5, .frozen)
  else if (x.cube.cmds.any fun k => tkind k.hdr == .mma || tkind k.hdr == .mmas) && decide (x.ck.clk % 8 < x.gmax) then some (5, .frozen)
  else if x.backlog then some (6, .backlog)
  else none
/-- Results in flight one clock nearer while nothing issues (R51, R376). -/
def UnitSt.drainTick (x : UnitSt) : UnitSt :=
  { x with seq := { x.seq with flights := x.seq.flights.map fun f => { f with due := f.due - 1 } } }
/-- Nothing issued at this level is still under way (R376). -/
def UnitSt.drained (x : UnitSt) : Bool := x.seq.flights.isEmpty && x.seq.accs.all fun a => a.lvl != x.trap.tl
/-- One stall clock of a count-down; a reload ends in the return from the trap (R374, R376). -/
def State.stallClock (s : State) : State :=
  let x := s.me
  let s := (s.modMe fun x => { x with seq := { x.seq with stall := x.seq.stall - 1 } }).faultClock
  if 1 < x.seq.stall then s
  else
    match x.seq.after with
    | .issue => s
    | .reload lvl => s.trapReturn s.cur lvl.toNat
/-- A gate stall. -/
def State.gateClock (s : State) (c : Nat) (k : ClockKind) : State := (s.stallNote c 0).endClock k
/-- A fetch stall, with the line that it waits for. -/
def State.fetchClock (s : State) (line : Nat) : State :=
  let s := s.modMe fun x => { x with es := { x.es with fetchMiss := some line } }
  (s.stallNote 4 line).endClock .frozen
/-- The clock of a running unit that is about to issue has none of the holds that come before the fetch. -/
def UnitSt.canIssue (x : UnitSt) : Bool :=
  x.status = .running && !x.stop.stopped && x.gate.isNone && !x.seq.runDown && x.seq.stall = 0 && !x.phase.cancelling
/-- The start of a clock that may issue: the barriers are tested after the count-downs of the clock (R134), due results land (R185),
a skip is resolved. -/
def State.startClock (s : State) : State := ((s.barTests s.cur).landAll s.cur s.me.ck.scyc).modMe UnitSt.resolveSkip
/-- The kind of the present clock of a unit: the rows of its cube that fall in it follow the kind (Table 2.6, R43, R346). -/
def UnitSt.clockKind (x : UnitSt) : ClockKind :=
  if x.stop.stopped then .frozen
  else
    match x.gate with
    | some (_, k) => k
    | none =>
      if x.canIssue then (match x.resolveSkip.fetch x.resolveSkip.seq.pc.toNat with | .miss _ => .frozen | .ok _ _ _ => .run) else .run
/-- A clock of a running unit that does not reach the fetch; a gate stall does not lengthen the entry into a trap (R462). -/
def State.heldClock (s : State) : State :=
  let x := s.me
  match x.gate with
  | some (c, k) =>
    if 0 < x.seq.stall && x.seq.after == .issue then
      (s.modMe fun x => { x with seq := { x.seq with stall := x.seq.stall - 1 } }).gateClock c k
    else s.gateClock c k
  | none =>
    if x.seq.runDown then
      let s := s.landAll s.cur x.ck.scyc
      if s.me.drained then
        (s.modMe fun x => { x with seq := { x.seq with runDown := false, stall := 12, after := .reload x.trap.tl } }).stallClock
      else (s.modMe UnitSt.drainTick).faultClock
    else if 0 < x.seq.stall then s.stallClock
    else s.faultClock
/-- A clock of a unit that is not about to issue. -/
def State.idleClock (s : State) : State :=
  let x := s.me
  if x.status = .absent then s
  else if x.stop.stopped then s.stopClock
  else
    match x.status with
    | .running => s.heldClock
    | .exiting =>
      match x.gate with
      | some (c, k) => s.gateClock c k
      | none => ((s.landAll s.cur x.ck.scyc).modMe UnitSt.drainTick).endClock .run
    | _ => s.endClock x.clockKind
/-- ONE CLOCK OF THE PRESENT UNIT: its barriers are tested after the count-downs of the clock (R134), then it issues or is held. -/
def State.unitClock (s : State) : State :=
  if s.me.canIssue then
    let s := s.startClock
    match s.me.fetch s.me.seq.pc.toNat with
    | .miss l => s.fetchClock l
    | .ok h ws tr => s.issue h ws tr
  else (s.barTests s.cur).idleClock
/-- BUNDLE_INSTANCE: the next clock of a unit. -/
def execBundleInstance (a : UnitArg) (s : State) : Host.Outcome State Fault Refusal :=
  let c := s.cur
  .next { ({ s with cur := a.u }).unitClock with cur := c }

/-! ### KIND 1, 2 and 3 bundles without slots -/
/-- SEGMENT_BEGIN: SEGMENT_STATE while a segment is open (R182, R382). -/
def execSegmentBegin (s : State) : Host.Outcome State Fault Refusal :=
  if s.me.seg.opened then .next (s.takeTrap s.cur (bundleFault s.header cSEGMENT_STATE))
  else .next (s.modMe fun x => { x with seg := x.seg.begin_ })
/-- SEGMENT_END: the trailer compared (R181, R391). -/
def execSegmentEnd (a : SegEndArg) (s : State) : Host.Outcome State Fault Refusal :=
  if s.me.seg.opened then .next (s.segEnd a.cnt a.sig)
  else .next (s.takeTrap s.cur (bundleFault s.header cSEGMENT_STATE))
/-- MARKER. -/
def execMarker (p : BitVec 32) (s : State) : Host.Outcome State Fault Refusal := .next (s.marker p)

end Sys2Proof.Machine
end

