-- ==== Sys2Proof/Machine/Engine.lean ====
section
/-! DEFINITION. The copy engines, first part: the reads and writes of one element, refusals (R417, R447), side logs (R129, R431),
and the order within a queue (R124–R127). -/
namespace Sys2Proof.Machine

/-! ### One side of an element -/
/-- What a read side comes to. -/
inductive Got
  | data (s : State) (bs : List Byte) (poison : Bool)
  | sent (s : State)
  | refused (st : Nat)
  | hold
  | wait
/-- The context's gang has not committed: FAB-scope stores and atomics are held (R129). -/
def State.gangHeld (s : State) (u : UnitId) : Bool :=
  match s.unitGang u with
  | some g => !g.committed
  | none => false
/-- An entry of the engine's side log that waits for replay names the page of an address (R431). -/
def Engine.logged (g : Engine) (va : Nat) : Bool := g.log.any fun l => !l.gang && l.va / 65536 = va / 65536
/-! ### Ports and whole granules (R93, R100, R131, R132) -/
/-- The unit's clock now beginning is one in which no VM access is performed (Table 2.6, R346). -/
def UnitSt.portsIdle (x : UnitSt) : Bool := x.clockKind != .run
/-- The scratch bytes that an access reaches. -/
def SOp.addrs : SOp → List Nat
  | .load _ lanes w _ => lanes.flatMap fun l => (List.range w).map (l.2 + ·)
  | .probe _ lanes => lanes.map Prod.snd
  | .store bytes _ gs => bytes.map Prod.fst ++ gs.map (16 * ·)
  | .post _ _ a => (List.range 4).map (a + 16 * ·)
  | _ => []
/-- The port of a scratch byte is left free by the VM slot and not yet taken in this clock. -/
def UnitSt.portFree (x : UnitSt) (a : Nat) : Bool :=
  let p := portOf a
  !x.es.ports.contains p &&
    (x.portsIdle || x.seq.accs.all fun c => x.ck.run < c.at_ || c.op.addrs.all fun b => portOf b != p)
/-- The scratch as a copy sees it: a TDRAIN that still runs has written nothing (R132). -/
def UnitSt.copySees (x : UnitSt) : Stores := x.cube.hidden.foldl (fun st h => modGran st h.2.1 fun _ => h.2.2) x.st
/-- What no engine may keep of granules that have been written. -/
def State.dropPeeks (s : State) (c : UnitId) (gs : List Nat) : State :=
  let stale := fun (g : Engine) => match g.peek with | some p => p.unit = c && gs.contains p.gran | none => false
  if s.units.toList.any fun x => x.es.eng.toList.any stale then
    { s with units := s.units.map fun (x : UnitSt) =>
        { x with es := { x.es with eng := x.es.eng.map fun g => if stale g then { g with peek := none } else g } } }
  else s
/-- A read of n bytes of a face by a command: a granule that a weak command reads in several elements gives each of them one content
(R120, R132); a nibble that a CPYX puts into a byte joins what it has still to write there (R277). -/
def State.faceRead (s : State) (u : UnitId) (e : EngId) (q : QEnt) (c : UnitId) (a n : Nat) : State × List Byte × Bool :=
  let st := (s.unit c).copySees
  let s := s.modUnit c fun x => x.takePorts [a]
  if 16 ≤ n || cpStr q.word != 0 then (s, scrBytes st a n, scrPoison st a n)
  else
    let eng := (s.unit u).es.eng[e]
    let own := (eng.stage.filter fun t => t.cmd = q.id && t.unit = c).flatMap Stage.bytes
    let g := match eng.peek with
      | some p => if p.cmd = q.id && p.unit = c && p.gran = a / 16 then p.seen else granAt st a
      | none => granAt st a
    let bs := (List.range n).map fun i =>
      match own.reverse.find? fun b => b.1 = a + i with
      | some b => b.2
      | none => if g.poison then 0 else g.data.extractLsb' (8 * ((a + i) % 16)) 8
    (s.modEng u e fun x => { x with peek := some { cmd := q.id, unit := c, gran := a / 16, seen := g } }, bs, g.poison)
/-- A read of n bytes by an element of a command. -/
def State.readSide (s : State) (u : UnitId) (e : EngId) (q : QEnt) (i : Nat) (k : AKind) (aw : Word) (a n : Nat) : Got :=
  match s.locate u e aw a with
  | .miss _ | .wait => .wait
  | .found (.face c a) =>
    if c = u && (s.unit u).ck.run < q.ready then .wait
    else let r := s.faceRead u e q c a n; .data (r.1.sees u r.2.2) r.2.1 r.2.2
  | .found (.brim a) =>
    if (s.unit u).ck.run < q.ready then .wait
    else let p := s.dev.poisoned (brimPa a) n; .data (s.sees u p) (s.dev.bytes (brimPa a) n) p
  | .found (.mem x) =>
    let st := s.refusal u k x n
    if st != 0 then .refused st
    else if ((s.unit u).es.eng[e]).logged a then .hold
    else
      match s.dev.tier x.pa with
      | .fabric => let r := s.fabSend u e q.id i x (.read n) false; if r.2 = 0 then .sent r.1 else .refused r.2
      | .host => .sent (s.hostSend u e q.id i x n none)
      | _ =>
        if s.dev.asleep (s.dev.home x.pa) then .wait
        else
          let p := s.dev.loadPoison x.pa n
          let s' := s.modDev fun d => ((d.loadAct x.pa n).touch (d.home x.pa) n).heat (s.partOf u) x n
          .data (s'.sees u p) (s.dev.load x.pa n) p
/-- What a write side comes to. -/
inductive Put
  | done (s : State)
  | sent (s : State)
  | logged (s : State)
  | refused (st : Nat)
  | full
  | wait
/-- A write performed in the face of a crown: its granules are set full (R97), poisoned data poisons them (R420). -/
def State.putFace (s : State) (c : UnitId) (bytes : List (Nat × Byte)) (poison : Bool) : State :=
  let gs := gransOf (bytes.map Prod.fst)
  let wb := bytes.any fun b => regionOf b.1 == .wb0 || regionOf b.1 == .wb1
  let f := fun (st : Stores) => let st := scrStore st bytes (if wb then none else some true); if poison then setPoison st gs true else st
  (s.modUnit c fun x =>
    let y : UnitSt := { x with
      st := f x.st, cube := x.cube.alsoHidden f,
      es := { x.es with filled := x.es.filled ++ gs.filter fun g => !wb && !(smGet ({} : Gran) x.st.face g).full } }
    (y.alsoKept f).takePorts (bytes.map Prod.fst)).dropPeeks c gs
/-- A unit whose engines run. -/
def UnitSt.enginesRun (x : UnitSt) : Bool := x.status = .running || x.status = .exiting
/-- What an engine collects of a granule waits for nothing but a port: a strong element or all sixteen bytes (`due`), no element of the
command to come, an engine or a context that stops (R47, R120, R284). -/
def UnitSt.stageDue (x : UnitSt) (e : EngId) (t : Stage) : Bool :=
  let g := x.es.eng[e]
  t.due || g.stopped || !x.enginesRun || x.phase.cancelling ||
    (match g.q.find? fun c => c.id = t.cmd with
     | none => true
     | some c => c.ended || c.dropped || (c.sent.isEmpty && decide (cElems c.word c.snap ≤ c.next)))
/-- What one clock takes of the granules that an engine has to write: one line through each bank's shared port that is left free, and
64 bytes into each half of the weight buffer that is (R93, R100). -/
def State.landable (s : State) (u : UnitId) (e : EngId) : List Stage :=
  (((s.unit u).es.eng[e]).stage.filter fun t => (s.unit u).stageDue e t).foldl (fun l t =>
    let same := l.filter fun h => h.unit = t.unit && portOf (16 * h.gran) = portOf (16 * t.gran)
    let fits := if 128 ≤ portOf (16 * t.gran) then decide (same.length < 4) else same.all fun h => h.gran / 4 = t.gran / 4
    if fits && (s.unit t.unit).portFree (16 * t.gran) then l ++ [t] else l) []
/-- The granules that an engine can write in this clock are written. -/
def State.landStage (s : State) (u : UnitId) (e : EngId) : State :=
  let now := s.landable u e
  let s := if now.isEmpty then s else s.modEng u e fun x => { x with stage := now.foldl (fun l t => l.erase t) x.stage }
  now.foldl (fun s t => s.putFace t.unit t.bytes t.poison) s
/-- Bytes that a command writes in one granule of a crown's scratch are put to those collected for it: a weak command's bytes of one
granule are written together, a strong element by itself (R120, R131). -/
def Engine.collect (g : Engine) (q : QEnt) (c : UnitId) (gran : Nat) (bytes : List (Nat × Byte)) (poison : Bool) : Engine :=
  let here := fun (t : Stage) => t.cmd = q.id && t.unit = c && t.gran = gran
  let weak := cpStr q.word == 0
  let old := if weak then g.stage.find? here else none
  let bs := (old.elim [] Stage.bytes) ++ bytes
  let t : Stage := { cmd := q.id, unit := c, gran := gran, bytes := bs, poison := poison || old.elim false Stage.poison,
                     due := !weak || coversGran (bs.map Prod.fst) gran || old.elim false Stage.due }
  { g with stage := if old.isSome then g.stage.map fun o => if here o then t else o else g.stage ++ [t] }
/-- The bytes that an element writes in the scratch of a crown: collected, to be written when their ports are free (R93, R100). -/
def State.stageFace (s : State) (u : UnitId) (e : EngId) (q : QEnt) (c : UnitId) (bytes : List (Nat × Byte)) (poison : Bool) : State :=
  s.modEng u e fun g => (gransOf (bytes.map Prod.fst)).foldl (fun g k => g.collect q c k (bytes.filter fun b => b.1 / 16 = k) poison) g
/-- An entry of a side log. -/
def State.logPut (s : State) (u : UnitId) (e : EngId) (l : LogEnt) : State := s.modEng u e fun g => { g with log := g.log ++ [l] }
/-- A write of bytes by an element of a command. -/
def State.writeSide (s : State) (u : UnitId) (e : EngId) (q : QEnt) (i : Nat) (aw : Word) (a : Nat) (bs : List Byte) (poison : Bool) : Put :=
  let g := (s.unit u).es.eng[e]
  let room := g.log.length < 64
  let entry : LogEnt := { cmd := q.id, elt := i, va := a, bytes := bs, gang := false, poison := poison }
  match s.locate u e aw a with
  | .miss _ | .wait => .wait
  | .found (.face c a) => .done (s.stageFace u e q c (bytesAt a bs) poison)
  | .found (.brim a) =>
    .done (s.modDev fun d => let d := d.write (brimPa a) bs; if poison then d.taint (brimPa a) bs.length else d)
  | .found (.mem x) =>
    let st := s.refusal u .write x bs.length
    if st != 0 then .refused st
    else if attrScope x.attr == 2 && s.gangHeld u then (if room then .logged (s.logPut u e { entry with gang := true }) else .full)
    else if cpStr q.word = 0 && g.logged a then (if room then .logged (s.logPut u e entry) else .full)
    else
      match s.dev.tier x.pa with
      | .fabric => let r := s.fabSend u e q.id i x (.write bs poison) true; if r.2 = 0 then .sent r.1 else .refused r.2
      | .host => .sent (s.hostSend u e q.id i x bs.length (some bs) poison)
      | _ =>
        if s.dev.asleep (s.dev.home x.pa) then .wait
        else .done (s.memPut u x bs poison)

/-! ### Progress of a command -/
/-- `next` past the elements that were started out of order. -/
def skipDone (done : List Nat) : Nat → Nat → Nat
  | 0, n => n
  | f + 1, n => if done.contains n then skipDone done f (n + 1) else n
/-- Element i has started. -/
def QEnt.start (q : QEnt) (i : Nat) : QEnt :=
  if i = q.next then
    let n := skipDone q.done q.done.length (i + 1)
    { q with next := n, done := q.done.filter fun j => n ≤ j }
  else if i < q.next || q.done.contains i then q
  else { q with done := q.done ++ [i] }
/-- Element i goes back to those not performed. -/
def QEnt.unstart (q : QEnt) (i : Nat) : QEnt :=
  if i < q.next then
    { q with next := i, sent := q.sent.filter fun j => j != i, done := (List.range (q.next - i - 1)).map (i + 1 + ·) ++ q.done }
  else { q with done := q.done.filter fun j => j != i, sent := q.sent.filter fun j => j != i }
/-- The translation of an access of an engine: that of its TLBs, else that of the tables. -/
def State.xlatOf (s : State) (u : UnitId) (e : EngId) (va : Nat) : Option Xlat :=
  match (s.unit u).xlat e va with
  | some x => some x
  | none => match s.dev.walk (s.unit u).ck.xlbase va with | .ok x => some x | _ => none
/-- The tier of the memory side of a command's element, as far as it translates: that of its source if it reads memory, else of its
destination. -/
def State.sideTier (s : State) (u : UnitId) (e : EngId) (r w : Option Acc) : Option (Fin 16) :=
  let one := fun (a : Option Acc) => a.bind fun a => if awSpace a.aw = 0 then ((s.xlatOf u e (a.addr % 2 ^ 56)).map fun x => tierClass (s.dev.tier x.pa)) else none
  (one r).or (one w)
/-- The class of element i of a command: that of its issue where it has left or waits (R319), else that of its present tier. -/
def State.sideClass (s : State) (u : UnitId) (e : EngId) (q : QEnt) (i : Nat) (r w : Option Acc) : Fin 16 :=
  (((q.cls.find? fun c => c.1 = i).map Prod.snd).or (s.sideTier u e r w)).getD 14
/-- The class of an element that leaves or waits is kept with its command. -/
def State.keepClass (s : State) (u : UnitId) (e : EngId) (q : QEnt) (i : Nat) (r w : Option Acc) : State :=
  match s.sideTier u e r w with
  | none => s
  | some k => s.modCmd u e q.id fun c => if c.cls.any fun x => x.1 = i then c else { c with cls := c.cls ++ [(i, k)] }
/-- The same of an element of a copy. -/
def State.keepCopy (s : State) (u : UnitId) (e : EngId) (q : QEnt) (i : Nat) : State :=
  s.keepClass u e q i (cRead q.word q.snap q.off i) (cWrite q.word q.snap i)
/-- The element has been performed. -/
def QEnt.dropClass (q : QEnt) (i : Nat) : QEnt := { q with cls := q.cls.filter fun c => c.1 != i }
/-- Bytes moved: the energy of each 64 bytes or part (R319), and event 10. -/
def State.moved (s : State) (u : UnitId) (e : EngId) (q : QEnt) (cls : Fin 16) (n : Nat) : State :=
  let k := ceilDiv (q.moved + n) 64 - ceilDiv q.moved 64
  ((s.charge u cls k).pmEvent u 10 k).modCmd u e q.id fun c => { c with moved := c.moved + n }
/-- Destination bytes written with poison or for a faulty group of the stream: of one status and place, one span from the first byte to
the last; a faulty group counts once (R420, R427). -/
def QEnt.tainted (q : QEnt) (st : BitVec 8) (aw : Word) (lo n sc : Nat) : QEnt :=
  if q.taints.any fun t => t.st == st && samePlace t.aw aw then
    (if st == 0x47 then q
     else { q with taints := q.taints.map fun t => if t.st == st && samePlace t.aw aw then { t with lo := min t.lo lo, hi := max t.hi (lo + n) } else t })
  else { q with taints := q.taints ++ [{ st := st, aw := aw, lo := lo, hi := lo + n, sc := sc }] }
/-- The completion status (R416): a refusal's, else that of the first taint. -/
def QEnt.result (q : QEnt) : BitVec 8 := if q.ended then q.status else (q.taints.head?.map Taint.st).getD 0
/-- The sixteen bytes that an atomic returns; they set the granule full (R280). -/
def State.putReturn (s : State) (u : UnitId) (e : EngId) (q : QEnt) (v : Nat) : State :=
  if !cpBe q.word then s
  else
    let a := qf q.word q.snap 5 0 32
    if isBrim u then s.modDev fun d => d.write (brimPa a) (leBytes 16 v)
    else s.stageFace u e q u (bytesAt a (leBytes 16 v)) false
/-- A command refused at element i (R417, R447): it performs neither that element nor a later one, those of its side log
included; an atomic returns zeros. -/
def State.refuseCmd (s : State) (u : UnitId) (e : EngId) (q : QEnt) (i st : Nat) : State :=
  let gone := ((((s.unit u).es.eng[e]).log.filter fun l => l.cmd = q.id && i < l.elt).map LogEnt.elt) ++ [i]
  let s := s.modEng u e fun g => { g with log := g.log.filter fun l => !(l.cmd == q.id && i < l.elt) }
  let s := s.modCmd u e q.id fun c =>
    { (gone.foldl QEnt.unstart c) with
      ended := true, status := if c.ended then c.status else BitVec.ofNat 8 st,
      refusedAt := if c.ended then c.refusedAt else (s.unit u).ck.scyc }
  match ckind q.word with
  | .amo _ => s.putReturn u e q 0
  | _ => s
/-- TVAL of TRANSLATION_FAULT and TABLE_FORMAT (R434). -/
def faultTval (a : Nat) (e : EngId) (log fetch : Bool) : Word :=
  BitVec.ofNat 64 (a % 2 ^ 56 + e.val * 2 ^ 56 + (if log then 2 ^ 60 else 0) + (if fetch then 2 ^ 61 else 0))
/-- A deferred cause of an engine, about a command (R373). -/
def State.raiseFor (s : State) (u : UnitId) (e : EngId) (q : QEnt) (code : BitVec 8) (tval : Word) : State :=
  s.defer u { code := code, tval := tval, lvl := q.lvl, eng := BitVec.ofNat 4 e.val, sc := q.sc }
/-- The engine is held at an element (R430); without a cause when the log was full. -/
def State.holdEng (s : State) (u : UnitId) (e : EngId) : State := s.modEng u e fun g => { g with stopped := true, held := true, walk := none }

/-! ### CPY, CPYF, CPYX -/
/-- The bytes that an element writes, from what it has read: the pattern of CPYF; for CPYX the buffered element, a nibble
put into its byte. -/
def wData (q : QEnt) (i : Nat) (bs : List Byte) : List Byte :=
  match ckind q.word with
  | .cpyf => leBytes (cEsz q.word q.snap) (qv q.word q.snap 0).toNat
  | .cpyx =>
    let k := i - (xElts q.word q.snap + xGrid q.word q.snap)
    let z := max 1 ((xFmt q.word q.snap).bits / 8)
    let x := (xAcc q.word q.snap false k).2
    if k < xElts q.word q.snap then
      if (xFmt q.word q.snap).bits = 4 then
        [BitVec.ofNat 8 (setBits (bs.headD 0).toNat (4 * x) 4 (q.buf.getD k 0).toNat)]
      else (q.buf.drop (k * z)).take z
    else [q.buf.getD (xElts q.word q.snap * z + (k - xElts q.word q.snap)) 0]
  | _ => bs
/-- A write of an element has been performed; the two nibbles of a 4-bit element pair move one byte (R319). -/
def State.wrote (s : State) (u : UnitId) (e : EngId) (q : QEnt) (i : Nat) (poison : Bool) : State :=
  let r := cRead q.word q.snap q.off i
  match cWrite q.word q.snap i with
  | none => s
  | some w =>
    let n := if ckind q.word == .cpyx && (xAcc q.word q.snap false (i - (xElts q.word q.snap + xGrid q.word q.snap))).2 = 1 &&
        (xFmt q.word q.snap).bits = 4 then 0 else w.len
    let s := s.moved u e q (s.sideClass u e q i r (some w)) n
    s.modCmd u e q.id fun c =>
      let c := { (c.start i).dropClass i with sent := c.sent.filter fun j => j != i }
      if poison then c.tainted 0x40 w.aw w.addr w.len (s.unit u).ck.scyc else c
/-- The write side of an element whose read side gave `bs`. -/
def State.finishElem (s : State) (u : UnitId) (e : EngId) (q : QEnt) (i : Nat) (bs : List Byte) (poison : Bool) : State :=
  match cWrite q.word q.snap i with
  | none => s
  | some w =>
    let p := poison || (ckind q.word == .cpyx && q.bad.contains (i - (xElts q.word q.snap + xGrid q.word q.snap)))
    match s.writeSide u e q i w.aw w.addr (wData q i bs) p with
    | .done s => s.wrote u e q i p
    | .sent s => (s.keepCopy u e q i).modCmd u e q.id fun c => { c.start i with sent := (c.sent.filter fun j => j != i) ++ [i] }
    | .logged s => (s.keepCopy u e q i).modCmd u e q.id fun c => { c.start i with sent := c.sent.filter fun j => j != i }
    | .refused st => s.refuseCmd u e q i st
    | .full => (s.modCmd u e q.id fun c => c.unstart i).holdEng u e
    | .wait => s.modCmd u e q.id fun c => c.unstart i
/-- Bytes put into a buffer at a place. -/
def putAt (buf : List Byte) (k : Nat) (bs : List Byte) : List Byte :=
  let l := buf ++ List.replicate (k + bs.length - buf.length) 0
  l.take k ++ bs ++ l.drop (k + bs.length)
/-- The place of element or scale byte i of a CPYX in its buffer: a nibble takes a byte. -/
def xOff (q : QEnt) (i : Nat) : Nat :=
  let z := max 1 ((xFmt q.word q.snap).bits / 8)
  if i < xElts q.word q.snap then i * z else xElts q.word q.snap * z + (i - xElts q.word q.snap)
/-- An element that a CPYX reads into its buffer; a poisoned one is remembered in `bad`. -/
def State.gotX (s : State) (u : UnitId) (e : EngId) (q : QEnt) (i : Nat) (bs : List Byte) (poison : Bool) : State :=
  let x := (xAcc q.word q.snap true i).2
  let b := if i < xElts q.word q.snap && (xFmt q.word q.snap).bits = 4 then [BitVec.ofNat 8 ((bs.headD 0).toNat / 16 ^ (x % 2) % 16)] else bs
  s.modCmd u e q.id fun c =>
    let c := { c.start i with sent := c.sent.filter fun j => j != i, buf := putAt c.buf (xOff q i) b }
    if poison then { c with bad := c.bad ++ [i] } else c
/-- The first walk that an element needs, its write side first. -/
def State.needWalk (s : State) (u : UnitId) (e : EngId) (r w : Option Acc) : Option Nat :=
  let one := fun (a : Option Acc) => a.bind fun a => match s.locate u e a.aw a.addr with | .miss va => some va | _ => none
  (one w).or (one r)
/-- A walk begins. -/
def State.startWalk (s : State) (u : UnitId) (e : EngId) (q : QEnt) (i va : Nat) : State :=
  (s.pmEvent u 11 1).modEng u e fun g => { g with walk := some (va, q.id, i) }
/-- One element of CPY, CPYF or CPYX. -/
def State.copyElem (s : State) (u : UnitId) (e : EngId) (q : QEnt) (i : Nat) : State :=
  match cRead q.word q.snap q.off i with
  | none => s.finishElem u e q i [] false
  | some r =>
    match s.readSide u e q i .read r.aw r.addr r.len with
    | .data s bs p => if (cWrite q.word q.snap i).isNone then s.gotX u e q i bs p else s.finishElem u e q i bs p
    | .sent s => (s.keepCopy u e q i).modCmd u e q.id fun c => { c.start i with sent := c.sent ++ [i] }
    | .refused st => s.refuseCmd u e q i st
    | .hold => (s.holdEng u e).raiseFor u e q cTRANSLATION_FAULT (faultTval r.addr e false false)
    | .wait => s

/-! ### CPYW (R101, R279, R427) -/
/-- The stream bytes of the present unit, as far as `buf` tells. -/
def wNeed (q : QEnt) : Nat :=
  let f := wFmt q.word q.snap
  match wMode q.word q.snap with
  | 0 => max 1 (f.bits / 8)
  | 1 =>
    if q.buf.length < 2 then 2
    else
      let p := popN 12 (leNat (q.buf.take 2))
      2 + (if f = .e2m1 then ceilDiv p 2 else p)
  | _ => 1 + wTile q.word q.snap * wTile q.word q.snap / 2
/-- Unit i of mode 0 is the last of a row of an odd number of e2m1 elements: one nibble. -/
def wHalfByte (q : QEnt) (i : Nat) : Bool :=
  wMode q.word q.snap = 0 && wFmt q.word q.snap == .e2m1 && wRlen q.word q.snap % 2 = 1 &&
    i % wUnitsRow q.word q.snap + 1 = wUnitsRow q.word q.snap
/-- A mask that breaks Table 11.6. -/
def wBadMask (q : QEnt) : Bool :=
  wMode q.word q.snap = 1 && (let m := leNat (q.buf.take 2); m / 4096 % 16 != 0 || 6 < popN 12 m)
/-- Where the bytes of unit i land, with the bytes. No mode has an INT4 format (Tables 3.2, 4.5, 11.6), so the widening of INT4
that R57 names is reached by no stream: the model's choice (log 59). -/
def wLand (q : QEnt) (i : Nat) : List (Nat × Byte) :=
  let w := q.word
  let c := q.snap
  let per := wUnitsRow w c
  let r := i / per
  let g := i % per
  match wMode w c with
  | 0 =>
    let z := max 1 ((wFmt w c).bits / 8)
    (List.range z).map fun b => (wDst w c r (g * z + b), q.buf.getD b 0)
  | 1 =>
    let m := leNat (q.buf.take 2)
    let bad := wBadMask q
    let p := popN 12 m
    let val := fun (v : Nat) =>
      if bad then 0
      else if wFmt w c = .e2m1 then
        (if v < ceilDiv p 2 then BitVec.ofNat 8 ((q.buf.getD (2 + v) 0).toNat % (if 2 * v + 1 < p then 256 else 16)) else 0)
      else if v < p then q.buf.getD (2 + v) 0 else 0
    (List.range 8).map fun b =>
      (wDst w c r (8 * g + b), if b < 6 then val b else if bad then 0 else BitVec.ofNat 8 (m / 256 ^ (b - 6)))
  | _ =>
    let T := wTile w c
    (qf w c 3 0 32 + r * per + g, q.buf.getD 0 0) ::
      (List.range T).flatMap fun k => (List.range (T / 2)).map fun b => (wDst w c (r * T + k) (g * T / 2 + b), q.buf.getD (1 + k * T / 2 + b) 0)
/-- A unit of a CPYW has been finished. -/
def State.endW (s : State) (u : UnitId) (e : EngId) (q : QEnt) (i n : Nat) : State :=
  (s.modCmd u e q.id fun c => { c.dropClass i with buf := [], ill := false, next := i + 1 }).moved u e q
    (s.sideClass u e q i (cRead q.word q.snap (q.off - 1) i) none) n
/-- A piece of the stream has been read; the bytes of a complete unit are collected for the weight buffer (R100, R131). In mode 0 a row
of an odd number of e2m1 elements ends within a byte, of which the upper nibble is left as it is, and the next row starts in a new
byte of the stream: the model's choice (log 59). -/
def State.gotW (s : State) (u : UnitId) (e : EngId) (q : QEnt) (i : Nat) (bs : List Byte) (poison : Bool) : State :=
  let q := { q with buf := q.buf ++ bs, off := q.off + bs.length, sent := [], ill := q.ill || poison }
  if q.buf.length < wNeed q then s.modCmd u e q.id fun _ => q
  else
    let land := (wLand q i).map fun b =>
      if wHalfByte q i then (b.1, BitVec.ofNat 8 (setBits (scrByte (s.unit u).st b.1).toNat 0 4 b.2.toNat)) else b
    let lo := land.foldl (fun m x => min m x.1) (land.headD (0, 0)).1
    let hi := land.foldl (fun m x => max m x.1) 0
    let sc := (s.unit u).ck.scyc
    let q' := if wBadMask q then q.tainted 0x47 (1#64 <<< 60) lo 8 sc else q
    let q' := if q.ill then q'.tainted 0x40 (1#64 <<< 60) lo (hi + 1 - lo) sc else q'
    ((s.modCmd u e q.id fun _ => q').stageFace u e q' u land q.ill).endW u e q' i land.length
/-- The next piece of the unit's stream: within one page and one 256-byte block; from the fabric, naturally aligned (R331). -/
def State.streamElem (s : State) (u : UnitId) (e : EngId) (q : QEnt) (i : Nat) : State :=
  let aw := qv q.word q.snap 0
  let a := sideAddr aw q.off
  let far : Bool := match s.locate u e aw a with | .found (.mem x) => s.dev.tier x.pa == .fabric | _ => false
  let m := wNeed q - q.buf.length
  let n := if far then reqLen a m else min m (256 - a % 256)
  let k := if wMode q.word q.snap = 0 then .read else .stream
  match s.readSide u e q i k aw a n with
  | .data s bs p => s.gotW u e q i bs p
  | .sent s => (s.keepClass u e q i (cRead q.word q.snap q.off i) none).modCmd u e q.id fun c => { c with sent := [i] }
  | .refused st => s.refuseCmd u e q i st
  | .hold => (s.holdEng u e).raiseFor u e q cTRANSLATION_FAULT (faultTval a e false false)
  | .wait => s

/-! ### Atomics and FLUSHX (R280, R281) -/
/-- The operands of an atomic. -/
def amoOps (q : QEnt) : List Word := (List.range 4).map fun k => qv q.word q.snap (1 + k)
/-- An atomic has been performed and returns a value. -/
def State.amoDone (s : State) (u : UnitId) (e : EngId) (q : QEnt) (old : Nat) : State :=
  ((s.charge u 15 1).putReturn u e q old).modCmd u e q.id fun c => { c with next := 1, sent := [] }
/-- The operation of an atomic command. -/
def amoOpOf (q : QEnt) : AmoOp := match ckind q.word with | .amo op => op | _ => .add
/-- An atomic on a page that translates (`x`). -/
def State.amoAt (s : State) (u : UnitId) (e : EngId) (q : QEnt) (x : Xlat) : State :=
  let w := q.word
  let n := amoWidth w
  let op := amoOpOf q
  let wide := cpWide w && op == .cas
  let red := attrRed x.attr
  let st := s.refusal u .atomic x n
  let sent := fun (s : State) => s.modCmd u e q.id fun c => { c with next := 1, sent := [0] }
  if st != 0 then s.refuseCmd u e q 0 st
  else
    match s.dev.tier x.pa with
    | .fabric =>
      let r := s.fabSend u e q.id 0 x (.amo op (cpFmt w) wide red (amoOps q)) true
      if r.2 = 0 then sent r.1 else s.refuseCmd u e q 0 r.2
    | .host => if op == .faddx && red then s.refuseCmd u e q 0 0x45 else sent (s.hostAmo u e q.id x (.amo op (cpFmt w) wide red (amoOps q)))
    | _ =>
      if s.dev.asleep (s.dev.home x.pa) then s
      else
        let r := s.amoLocal u x op (cpFmt w) wide red (amoOps q)
        if r.2.2 != 0 then r.1.refuseCmd u e q 0 r.2.2 else r.1.amoDone u e q r.2.1
/-- FLUSHX on a page that translates. -/
def State.flushAt (s : State) (u : UnitId) (e : EngId) (q : QEnt) (x : Xlat) : State :=
  let st := s.refusal u .atomic x 1
  let fin := fun (s : State) => s.modCmd u e q.id fun c => { c with next := 1, sent := [] }
  if st != 0 then s.refuseCmd u e q 0 st
  else
    match s.dev.tier x.pa with
    | .fabric =>
      let r := s.fabSend u e q.id 0 x .flush true
      if r.2 = 0 then r.1.modCmd u e q.id fun c => { c with next := 1, sent := [0] } else s.refuseCmd u e q 0 r.2
    | .host => fin s
    | _ => if s.dev.asleep (s.dev.home x.pa) then s else fin (s.modDev fun d => (d.flush x.pa).heat (s.partOf u) x 1)
/-- The one element of an atomic or of FLUSHX: held for the gang, put behind the log of its page, or performed. -/
def State.amoElem (s : State) (u : UnitId) (e : EngId) (q : QEnt) : State :=
  let a := awAddr (qv q.word q.snap 0)
  let g := (s.unit u).es.eng[e]
  let log := fun (b : Bool) =>
    if g.log.length < 64 then
      (s.logPut u e { cmd := q.id, elt := 0, va := a, bytes := [], gang := b }).modCmd u e q.id fun c => { c with next := 1 }
    else s.holdEng u e
  match (s.unit u).xlat e a with
  | none => s
  | some x =>
    if s.refusal u .atomic x 1 = 0 && attrScope x.attr == 2 && s.gangHeld u then log true
    else if cpStr q.word = 0 && g.logged a then log false
    else if ckind q.word == .flushx then s.flushAt u e q x
    else s.amoAt u e q x

/-! ### MIGR (R151, R283) -/
/-- The carder's answer to MIGR; `none` while 64 requests are pending. -/
def Dev.migr (d : Dev) (part : Nat) (x : Xlat) (dst : Option Nat) (cnt : Option (BitVec 12)) : Option Dev :=
  let m : MigReq := { src := frameOf x.pa * 65536, leaf := x.leaf, leafVal := d.rd64 (d.home x.leaf), dst := dst, part := BitVec.ofNat 3 part,
                      hot := BitVec.ofNat 8 (d.hotOf x.pa), cnt := cnt, accepted := d.card.mck }
  if !d.card.en then some (d.decline 2 m)
  else if attrPin x.attr || !attrMig x.attr || x.large then some (d.decline 1 m)
  else if d.card.moves.any fun v => v.leaf = x.leaf then
    some { d with card := { d.card with moves := d.card.moves.map fun v => if v.leaf = x.leaf then { v with also := v.also ++ cnt.toList } else v } }
  else if 64 ≤ d.card.reqs.length then none
  else some { d with card := { d.card with reqs := d.card.reqs ++ [m] } }
/-- The one element of MIGR. -/
def State.migrElem (s : State) (u : UnitId) (e : EngId) (q : QEnt) : State :=
  match (s.unit u).xlat e (awAddr (qv q.word q.snap 0)) with
  | none => s
  | some x =>
    let dst := if qf q.word q.snap 1 63 1 = 1 then none else some (qf q.word q.snap 1 16 36 * 65536)
    match s.dev.migr (s.partOf u) x dst (cpCntr q.word q.snap) with
    | none => s
    | some d => { s with dev := d }.modCmd u e q.id fun c => { c with next := 1 }

/-! ### Order within a queue (R124–R127, R430, R432) -/
/-- The own scratch of a unit as an address word. -/
def ownAw (u : UnitId) : Word := if isBrim u then 1#64 <<< 61 else 1#64 <<< 60
/-- An access cut at 64 KiB pages: each part is ordered by its own page (R123). -/
def Acc.parts (a : Acc) : List Acc :=
  if awSpace a.aw != 0 || a.addr % 65536 + a.len ≤ 65536 then [a]
  else (List.range ((a.addr + a.len - 1) / 65536 - a.addr / 65536 + 1)).map fun i =>
    let lo := max a.addr ((a.addr / 65536 + i) * 65536)
    { a with addr := lo, len := min (a.addr + a.len) ((a.addr / 65536 + i + 1) * 65536) - lo }
/-- Ascending runs of consecutive bytes of the own scratch. -/
def runsOf (aw : Word) (as : List Nat) : List Acc :=
  as.foldr (fun a l => match l with
    | r :: t => if r.addr = a + 1 then { aw := aw, addr := a, len := r.len + 1 } :: t else { aw := aw, addr := a, len := 1 } :: l
    | [] => [{ aw := aw, addr := a, len := 1 }]) []
/-- The bytes of its stream that unit i of a CPYW reads: of a unit of mode 1 that is still to come, all those that it may read. -/
def wStream (q : QEnt) (i : Nat) : Acc :=
  let base := q.off - q.buf.length
  let k := i - q.next
  let aw := qv q.word q.snap 0
  match wMode q.word q.snap with
  | 0 => let z := max 1 ((wFmt q.word q.snap).bits / 8); { aw := aw, addr := sideAddr aw (base + k * z : Nat), len := z }
  | 1 => { aw := aw, addr := sideAddr aw (base + 2 * k : Nat), len := 14 + 12 * k }
  | _ => let z := 1 + wTile q.word q.snap * wTile q.word q.snap / 2; { aw := aw, addr := sideAddr aw (base + k * z : Nat), len := z }
/-- The accesses of an element: those of memory and of scratch, an atomic's return write and a CPYW's weight-buffer writes among
them (R124, R133, R136). -/
def eltAccs (u : UnitId) (q : QEnt) (i : Nat) : List Acc :=
  match ckind q.word with
  | .pfh | .migr => []
  | .amo _ => (cWrite q.word q.snap i).toList ++ (if cpBe q.word then [{ aw := ownAw u, addr := qf q.word q.snap 5 0 32, len := 16 }] else [])
  | .cpyw => (wStream q i).parts ++ runsOf (ownAw u) ((wLand q i).map Prod.fst)
  | _ => ((cRead q.word q.snap q.off i).toList ++ (cWrite q.word q.snap i).toList).flatMap Acc.parts
/-- ORD of an access: UO for scratch, SO for a page that does not translate or for an element that waits in the side log (R133,
R432); else that of the translation that the engine uses (R441). -/
def State.ordOf (s : State) (u : UnitId) (e : EngId) (logged : Bool) (a : Acc) : Nat :=
  if awSpace a.aw != 0 then 0
  else if logged then 2
  else match s.xlatOf u e (a.addr % 2 ^ 56) with
    | some x => (attrOrd x.attr).toNat
    | none => 2
/-- Two ranges have a common byte. -/
def overlap (a n b m : Nat) : Bool := a < b + m && b < a + n
/-- Two accesses touch a common byte: of one place of scratch, of one range of virtual addresses, or of one of memory that two
virtual addresses name; a logged element is compared by virtual address alone (R124, R432). -/
def State.meets (s : State) (u : UnitId) (e : EngId) (logged : Bool) (a b : Acc) : Bool :=
  awSpace a.aw == awSpace b.aw &&
    (match awSpace a.aw with
     | 0 => overlap a.addr a.len b.addr b.len || (!logged &&
        match s.xlatOf u e (a.addr % 2 ^ 56), s.xlatOf u e (b.addr % 2 ^ 56) with
        | some x, some y => overlap x.pa a.len y.pa b.len
        | _, _ => false)
     | 1 => awDx a.aw == awDx b.aw && awDy a.aw == awDy b.aw && overlap a.addr a.len b.addr b.len
     | _ => overlap a.addr a.len b.addr b.len)
/-- Table 5.4, rows 1 to 4, for an access of an earlier element and one of a later element; `logged`: the earlier one waits for
replay. -/
def State.before (s : State) (u : UnitId) (e : EngId) (same logged : Bool) (sx : Nat) (x : Acc) (sy : Nat) (y : Acc) : Bool :=
  let ox := s.ordOf u e logged x
  let oy := s.ordOf u e false y
  s.meets u e logged x y || (ox == 2 && oy == 2) || (!same && sx == 2 && ox != 0) || (!same && sy == 3 && oy != 0)
/-- The elements of a command that have been sent or logged and not performed. -/
def QEnt.underWay (q : QEnt) (g : Engine) : List Nat := q.sent ++ (g.log.filter fun l => l.cmd = q.id).map LogEnt.elt
/-- The elements of a command not performed among those that precede element `n`. -/
def QEnt.openElts (q : QEnt) (g : Engine) (n : Nat) : List Nat :=
  ((q.underWay g).filter fun i => i < n) ++ (((List.range (n - q.next)).map (q.next + ·)).filter fun i => !q.done.contains i)
/-- The elements of an earlier command that have not been performed: of one that was refused, those under way (R323, R326). -/
def QEnt.pending (q : QEnt) (g : Engine) : List Nat := if q.ended then q.underWay g else q.openElts g (cElems q.word q.snap)
/-- An element waits for the replay of the side log. -/
def Engine.waits (g : Engine) (q : QEnt) (i : Nat) : Bool := g.log.any fun l => l.cmd = q.id && l.elt = i && !l.gang
/-- Element i of a command may start: no marker stands before it, the commands before it have started, and Table 5.4 orders
no access not yet performed before it; of a CPYX every read has been performed before a write (R277). -/
def State.mayStart (s : State) (u : UnitId) (e : EngId) (q : QEnt) (i : Nat) : Bool :=
  let g := (s.unit u).es.eng[e]
  let pre := g.q.takeWhile fun c => c.id != q.id
  let ys := eltAccs u q i
  let inOrder := cpStr q.word != 0 || ckind q.word == .cpyx || ckind q.word == .cpyw
  let n := xElts q.word q.snap + xGrid q.word q.snap
  pre.all (fun c => c.kind == .cmd && (0 < c.next || c.ended || !c.done.isEmpty || cElems c.word c.snap = 0) &&
      (c.pending g).all fun j =>
        (eltAccs u c j).all fun x => ys.all fun y => !s.before u e false (g.waits c j) (cpStr c.word) x (cpStr q.word) y) &&
    (!inOrder || i = q.next) && (ckind q.word != .cpyx || decide (i < n) || q.sent.all fun j => decide (n ≤ j)) &&
    (q.openElts g i).all fun j => (eltAccs u q j).all fun x => ys.all fun y => !s.before u e true (g.waits q j) 0 x 0 y

/-- Bytes that the engine has still to write in a crown's scratch stand before element i of a command: bytes that it reads, bytes of
another command that it writes (row 1 of Table 5.4); before an element of a strong command and after one of a strong command, all of
them (R120, R124). -/
def State.stageBars (s : State) (u : UnitId) (e : EngId) (q : QEnt) (i : Nat) (t : Stage) : Bool :=
  let hits := fun (a : Acc) => awSpace a.aw = 1 && s.placeUnit u a.aw == some t.unit && t.bytes.any fun b => decide (a.addr ≤ b.1) && decide (b.1 < a.addr + a.len)
  let rd := if ckind q.word == .cpyx && !decide (i < xElts q.word q.snap + xGrid q.word q.snap) then none else cRead q.word q.snap q.off i
  let strong := match s.cmdOf u e t.cmd with | some c => cpStr c.word != 0 | none => false
  cpStr q.word != 0 || strong || rd.any hits || (t.cmd != q.id && (eltAccs u q i).any hits)

end Sys2Proof.Machine
end

