-- ==== Sys2Proof/Machine/Elements.lean ====
section
/-! DEFINITION. The copy engines, second part: elements (R275, R430), page walks and page faults (R141, R429–R431), replay
of side logs (R433), the return of remote requests (R323, R331, R453), and I-cache fills (R137, R435). -/
namespace Sys2Proof.Machine

/-! ### Walks (R141) -/
/-- The engine's walk ends. -/
def State.walkEnd (s : State) (u : UnitId) (e : EngId) : State := s.modEng u e fun g => { g with walk := none }

/-! ### Page faults (Table 20.6) -/
/-- The scratch that an element reads can be read in this clock: the VM slot leaves its port free (R22, R39, R93), and the engine has
no byte still to write before it. -/
def State.portsOpen (s : State) (u : UnitId) (e : EngId) (q : QEnt) (i : Nat) : Bool :=
  (match cRead q.word q.snap q.off i with
   | some a => awSpace a.aw != 1 || (match s.placeUnit u a.aw with | some k => (s.unit k).portFree a.addr | none => true)
   | none => true) &&
    !(((s.unit u).es.eng[e]).stage.any (s.stageBars u e q i))
/-- A fault holds the engine, with its cause (R430). -/
def State.faultHold (s : State) (u : UnitId) (e : EngId) (q : QEnt) (code : BitVec 8) (tval : Word) : State :=
  (s.holdEng u e).raiseFor u e q code tval
/-- A write element enters the side log and the engine goes on (R431), with its cause. -/
def State.faultLog (s : State) (u : UnitId) (e : EngId) (q : QEnt) (i va : Nat) (bs : List Byte) (poison : Bool) : State :=
  if 64 ≤ ((s.unit u).es.eng[e]).log.length then
    (s.modCmd u e q.id fun c => c.unstart i).faultHold u e q cTRANSLATION_FAULT (faultTval va e false false)
  else
    let s := (s.logPut u e { cmd := q.id, elt := i, va := va, bytes := bs, gang := false, poison := poison }).walkEnd u e
    let s := (s.keepCopy u e q i).modCmd u e q.id fun c => { c.start i with sent := c.sent.filter fun j => j != i }
    s.raiseFor u e q cTRANSLATION_FAULT (faultTval va e true false)
/-- The data of a write element is poisoned. -/
def wPoison (q : QEnt) (i : Nat) (p : Bool) : Bool :=
  p || (ckind q.word == .cpyx && q.bad.contains (i - (xElts q.word q.snap + xGrid q.word q.snap)))
/-- An access may be side-logged when its page does not translate: a weak write or atomic. -/
def mayLog (q : QEnt) (i va : Nat) : Bool :=
  let at_ := fun (a : Option Acc) => match a with | some a => awSpace a.aw == 0 && a.addr % 2 ^ 56 / 65536 == va / 65536 | none => false
  cpStr q.word = 0 &&
    (match ckind q.word with
     | .amo _ | .flushx => true
     | .cpy | .cpyf | .cpyx => at_ (cWrite q.word q.snap i) && !at_ (cRead q.word q.snap q.off i)
     | _ => false)
/-- A weak write whose page does not translate: its read side is performed and the bytes are logged. -/
def State.logElem (s : State) (u : UnitId) (e : EngId) (q : QEnt) (i : Nat) : State :=
  match cWrite q.word q.snap i with
  | none => s
  | some w =>
    let va := w.addr % 2 ^ 56
    match ckind q.word, cRead q.word q.snap q.off i with
    | .amo _, _ | .flushx, _ => s.faultLog u e q i va [] false
    | _, none => s.faultLog u e q i va (wData q i []) (wPoison q i false)
    | _, some r =>
      match s.readSide u e q i .read r.aw r.addr r.len with
      | .data s bs p => s.faultLog u e q i va (wData q i bs) (wPoison q i p)
      | .sent s => ((s.walkEnd u e).keepCopy u e q i).modCmd u e q.id fun c => { c.start i with sent := c.sent ++ [i] }
      | .refused st => (s.walkEnd u e).refuseCmd u e q i st
      | .hold => s.faultHold u e q cTRANSLATION_FAULT (faultTval r.addr e false false)
      | .wait =>
        match s.locate u e r.aw r.addr with
        | .miss va' => s.startWalk u e q i va'
        | _ => s.walkEnd u e
/-- The reaction to a fault of the walk for element i. -/
def State.pageFault (s : State) (u : UnitId) (e : EngId) (q : QEnt) (i va : Nat) (code : BitVec 8) (tva : Nat) : State :=
  let s := s.modUnit u UnitSt.freeze
  if ckind q.word == .pfh then (s.walkEnd u e).modCmd u e q.id fun c => { c with next := i + 1 }
  else if code == cTRANSLATION_FAULT && mayLog q i va then s.logElem u e q i
  else s.faultHold u e q code (faultTval tva e false false)
/-- The end of the walk of an engine; a write element that is to be logged waits for the port of the scratch that it reads (R93,
event 13). -/
def State.walkStep (s : State) (u : UnitId) (e : EngId) : State :=
  let g := (s.unit u).es.eng[e]
  match g.walk with
  | none => s
  | some (va, cmd, i) =>
    match s.cmdOf u e cmd with
    | none => s.walkEnd u e
    | some q =>
      let xl := (s.unit u).ck.xlbase
      let t := s.walkNote u xl va
      match s.dev.walk xl va with
      | .ok x => (t.tlbPut u e (asidOf xl) va x).walkEnd u e
      | .miss =>
        if mayLog q i va && !s.portsOpen u e q i then s.pmEvent u 13 1 else t.pageFault u e q i va cTRANSLATION_FAULT va
      | .table ea => t.pageFault u e q i va cTABLE_FORMAT ea

/-! ### Replay (R433) -/
/-- The oldest entry that waits for replay, of a page if one is given. -/
def Engine.oldest (g : Engine) (page : Option Nat) : Option LogEnt :=
  g.log.find? fun l => !l.gang && (match page with | some p => l.va / 65536 == p | none => true)
/-- An entry performed under a translation of its address; on a FAB-scope page it waits on for the gang's commit (R129, R316). -/
def State.replayOne (s : State) (u : UnitId) (e : EngId) (l : LogEnt) (x : Xlat) : State :=
  let held := attrScope x.attr == 2 && s.gangHeld u
  let s := s.modEng u e fun g => { g with log := if held then g.log.map fun m => if m = l then { m with gang := true } else m else g.log.erase l }
  match if held then none else s.cmdOf u e l.cmd with
  | none => s
  | some q =>
    match ckind q.word with
    | .amo _ => s.amoAt u e q x
    | .flushx => s.flushAt u e q x
    | _ =>
      let st := s.refusal u .write x l.bytes.length
      let sent := fun (s : State) => (s.keepCopy u e q l.elt).modCmd u e q.id fun c => { c with sent := c.sent ++ [l.elt] }
      if st != 0 then s.refuseCmd u e q l.elt st
      else
        match s.dev.tier x.pa with
        | .fabric =>
          let r := s.fabSend u e q.id l.elt x (.write l.bytes l.poison) true
          if r.2 = 0 then sent r.1 else s.refuseCmd u e q l.elt r.2
        | .host => sent (s.hostSend u e q.id l.elt x l.bytes.length (some l.bytes) l.poison)
        | _ => (s.memPut u x l.bytes l.poison).wrote u e q l.elt l.poison
/-- The entries of a page in log order; a remote one waits for the response to the one before it. -/
def State.replayPage (s : State) (u : UnitId) (e : EngId) (page : Nat) : Nat → State
  | 0 => s
  | n + 1 =>
    let g := (s.unit u).es.eng[e]
    match g.oldest (some page) with
    | none => s
    | some l =>
      match s.dev.walk (s.unit u).ck.xlbase l.va with
      | .ok x =>
        let remote := s.dev.tier x.pa == .fabric || s.dev.tier x.pa == .host
        if s.dev.asleep (s.dev.home x.pa) || (remote && g.q.any fun c => !c.sent.isEmpty) then s
        else State.replayPage (s.replayOne u e l x) u e page n
      | _ => s
/-- The attempt faults: the entries stay and one cause is raised. -/
def State.replayFault (s : State) (u : UnitId) (e : EngId) (l : LogEnt) (code : BitVec 8) (a : Nat) : State :=
  let s := (s.modUnit u UnitSt.freeze).modEng u e fun g => { g with replay := false }
  match s.cmdOf u e l.cmd with
  | some q => s.raiseFor u e q code (faultTval a e true false)
  | none => s
/-- An attempt at replay: the page of the oldest entry. -/
def State.replayStep (s : State) (u : UnitId) (e : EngId) : State :=
  let g := (s.unit u).es.eng[e]
  match g.oldest none with
  | none => s.modEng u e fun g => { g with replay := false }
  | some l =>
    let xl := (s.unit u).ck.xlbase
    let s := s.walkNote u xl l.va
    match s.dev.walk xl l.va with
    | .ok x => (s.tlbPut u e (asidOf xl) l.va x).replayPage u e (l.va / 65536) g.log.length
    | .miss => s.replayFault u e l cTRANSLATION_FAULT l.va
    | .table ea => s.replayFault u e l cTABLE_FORMAT ea
/-- PAGE_WALK: a replay if one is due, else the engine's walk. -/
def execPageWalk (a : EngArg) (s : State) : Host.Outcome State Fault Refusal :=
  let g := (s.unit a.u).es.eng[a.e]
  .next (if g.replay then s.replayStep a.u a.e else s.walkStep a.u a.e)

/-! ### Elements -/
/-- One page of PFH: present in a TLB, or walked. -/
def State.pfhElem (s : State) (u : UnitId) (e : EngId) (q : QEnt) (i : Nat) : State :=
  let va := (awAddr (qv q.word q.snap 0) + 65536 * i) % 2 ^ 56
  match (s.unit u).xlat e va with
  | some _ => (s.tlbUse u e (asidOf (s.unit u).ck.xlbase) va).modCmd u e q.id fun c => { c with next := i + 1 }
  | none => s.startWalk u e q i va
/-- The accesses of an element, for its translations. -/
def sides (q : QEnt) (i : Nat) : Option Acc × Option Acc :=
  match ckind q.word with
  | .pfh => (none, none)
  | _ => (cRead q.word q.snap q.off i, cWrite q.word q.snap i)
/-- An entry that a side finds in the victim TLB moves into the engine's TLB (R142). -/
def State.useSide (s : State) (u : UnitId) (e : EngId) (a : Option Acc) : State :=
  match a with
  | some a => if awSpace a.aw = 0 then s.tlbUse u e (asidOf (s.unit u).ck.xlbase) (a.addr % 2 ^ 56) else s
  | none => s
/-- A command that a cancellation has discarded finishes the element that it has started, a unit of a CPYW, and starts no other
(R397). -/
def QEnt.goesOn (q : QEnt) : Bool := !q.dropped || (ckind q.word == .cpyw && q.unfinished)
/-- An engine may go on with a command: its unit runs and it is not stopped; a unit of a CPYW that has been started is finished
whatever stops the engine but a fault (R47, R284, R377). -/
def UnitSt.goesOn (x : UnitSt) (g : Engine) (q : QEnt) : Bool :=
  (x.enginesRun && !g.stopped) || (q.midUnit && !g.held && (x.enginesRun || x.status = .saving || x.status = .killed))
/-- The element i of a command may start now. -/
def State.canStart (s : State) (u : UnitId) (e : EngId) (q : QEnt) (i : Nat) : Bool :=
  let g := (s.unit u).es.eng[e]
  (s.unit u).goesOn g q && g.walk.isNone && q.kind == .cmd && !q.ended && q.goesOn && decide (i < cElems q.word q.snap) &&
    decide (q.next ≤ i) && !q.done.contains i && !q.sent.contains i && s.mayStart u e q i
/-- One element of a command, once it translates. -/
def State.performElem (s : State) (u : UnitId) (e : EngId) (q : QEnt) (i : Nat) : State :=
  match ckind q.word with
  | .pfh => s.pfhElem u e q i
  | .migr => s.migrElem u e q
  | .amo _ | .flushx => s.amoElem u e q
  | .cpyw => s.streamElem u e q i
  | _ => s.copyElem u e q i
/-- One element started, or the walk that it needs; a clock that it loses to the VM slot is event 13. -/
def State.startElem (s : State) (u : UnitId) (e : EngId) (q : QEnt) (i : Nat) : State :=
  let sd := sides q i
  match s.needWalk u e sd.1 sd.2 with
  | some va => s.startWalk u e q i va
  | none => if s.portsOpen u e q i then ((s.useSide u e sd.1).useSide u e sd.2).performElem u e q i else s.pmEvent u 13 1
/-- The bytes that stand before an element of a command are to be written next. -/
def State.pressStage (s : State) (u : UnitId) (e : EngId) (q : QEnt) (i : Nat) : State :=
  if ((s.unit u).es.eng[e]).stage.any (s.stageBars u e q i) then
    s.modEng u e fun g => { g with stage := g.stage.map fun t => if s.stageBars u e q i t then { t with due := true } else t }
  else s
/-- COPY_ELEMENT: a clock of an engine: the granules that it has collected are written as their ports allow, and the element starts. -/
def execCopyElement (a : ElemArg) (s : State) : Host.Outcome State Fault Refusal :=
  let q := (s.cmdOf a.u a.e a.cmd).filter fun q => s.canStart a.u a.e q a.elt
  .next (match q with
    | none => s.landStage a.u a.e
    | some q => (((s.pressStage a.u a.e q a.elt).landStage a.u a.e).startElem a.u a.e q a.elt).landStage a.u a.e)

/-! ### Remote requests answered -/
/-- The pseudo-channel of an address leaves self-refresh (R437). -/
def Dev.wake (d : Dev) (pa : Nat) : Dev :=
  match d.hbmRow (d.home pa) with
  | some (k, pc, _, _) => { d with hl := { d.hl with selfRef := setDel d.hl.selfRef (128 * k + pc) } }
  | none => d
/-- The bytes of a remote read are written by the element that read them, under a translation looked up again (R142). -/
def State.landRead (s : State) (u : UnitId) (e : EngId) (q : QEnt) (i : Nat) (bs : List Byte) (p : Bool) : State :=
  match cWrite q.word q.snap i with
  | none => s.gotX u e q i bs p
  | some w =>
    if awSpace w.aw != 0 then s.finishElem u e q i bs p
    else
      let va := w.addr % 2 ^ 56
      let r := s.engXlat u e (s.unit u).ck.xlbase va
      let s := r.1
      match r.2 with
      | .ok x => (s.modDev fun d => d.wake x.pa).finishElem u e q i bs p
      | .miss =>
        let s := s.modUnit u UnitSt.freeze
        if mayLog q i va then s.faultLog u e q i va (wData q i bs) (wPoison q i p)
        else (s.modCmd u e q.id fun c => c.unstart i).faultHold u e q cTRANSLATION_FAULT (faultTval va e false false)
      | .table ea =>
        ((s.modUnit u UnitSt.freeze).modCmd u e q.id fun c => c.unstart i).faultHold u e q cTABLE_FORMAT (faultTval ea e false false)
/-- A request of an element that was performed; `p`: what it read is poisoned. -/
def State.answered (s : State) (r : OutReq) (q : QEnt) (data : List Byte) (p : Bool) : State :=
  match ckind q.word with
  | .amo _ => s.amoDone r.u r.e q (leNat data)
  | .cpyw => s.gotW r.u r.e q r.elt data p
  | .cpy | .cpyf | .cpyx => if r.wr then s.wrote r.u r.e q r.elt r.poison else s.landRead r.u r.e q r.elt data p
  | _ => s.modCmd r.u r.e q.id fun c => { c with sent := [] }
/-- An I-cache line filled: the first that no other fill uses, whose victim entries are dropped first (R144). -/
def State.fillLine (s : State) (u : UnitId) (va : Nat) (bs : List Byte) : State :=
  s.modUnit u fun x =>
    let l : ILine := { asid := asidOf x.ck.xlbase, va := va, bytes := bs }
    let used := x.es.icache.filter fun m => !(m.asid == l.asid && m.va == va)
    { x with es := { x.es with
      fetchMiss := none, icache := l :: used, victim := x.es.victim.filter fun y => isBrim u || !(icPlaces used.length).contains y.place } }
/-- Sixty-four bytes of which the spec states none (log 14). -/
def freeLine (n : Nat) : List Byte := (List.range 8).flatMap fun k => leBytes 8 (Config.freeValue (n + k)).toNat
/-- A line whose bytes the spec does not state. -/
def State.fillFree (s : State) (u : UnitId) (va : Nat) : State := { s.fillLine u va (freeLine s.free) with free := s.free + 8 }
/-- An outstanding request ends with a status; 0 is success. -/
def State.respond (s : State) (r : OutReq) (status : BitVec 8) (data : List Byte) : State :=
  let s := s.modDev fun d => { d with fab := { d.fab with out := d.fab.out.filter fun o => o.id != r.id } }
  match r.gang, r.line with
  | some t, _ =>
    if status = 0x55 || status = 0x56 then
      match s.dev.fab.gangs.find? fun g => g.gtag == t with
      | some g => if g.committed || g.aborted then s else s.gangAbort g
      | none => s
    else s
  | none, some va => if status = 0 then s.fillLine r.u va data else s.fillFree r.u va
  | none, none =>
    if r.side then
      -- a part of a record read, or the write of a save record, which kills the context where it fails (R312, R436)
      match r.reload with
      | some va => if status = 0 then s.modUnit r.u fun x => { x with reload := x.reload ++ [(va, data)] } else s
      | none => if status != 0 && r.e = 0 && (s.unit r.u).status = .stored then s.killUnit r.u status else s
    else
    match s.cmdOf r.u r.e r.cmd with
    | none => s
    | some q =>
      let read := status = 0x40 && !r.wr && (ckind q.word == .cpy || ckind q.word == .cpyx || ckind q.word == .cpyw)
      if status = 0 || read then s.answered r q data (status = 0x40) else s.refuseCmd r.u r.e q r.elt status.toNat
/-- The outstanding request with an id. -/
def State.outReq (s : State) (id : Nat) : Option OutReq := s.dev.fab.out.find? fun r => r.id = id
/-- FABRIC_RESPONSE. -/
def execFabricResponse (a : FabRespArg) (s : State) : Host.Outcome State Fault Refusal :=
  .next (match s.outReq a.id with | some r => if r.host then s else s.respond r a.status a.data | none => s)
/-- HOST_LINK_COMPLETION. -/
def execHostLinkCompletion (a : HostCplArg) (s : State) : Host.Outcome State Fault Refusal :=
  .next (match s.outReq a.id with | some r => if r.host then s.respond r 0 a.data else s | none => s)
/-- NO_RESPONSE (R453). -/
def execNoResponse (id : Nat) (s : State) : Host.Outcome State Fault Refusal :=
  .next (match s.outReq id with | some r => if r.host then s else s.respond r 0x56 [] | none => s)

/-! ### I-cache fills -/
/-- A fill that faults (R435): one cause at the present trap level. -/
def State.fetchFault (s : State) (u : UnitId) (code : BitVec 8) (a : Nat) : State :=
  let x := s.unit u
  let p : Pend := { code := code, tval := faultTval a 11 false true, lvl := x.trap.tl, eng := 11, sc := x.ck.scyc }
  let s := s.modUnit u fun x => x.freeze
  if x.trap.pend.contains p || (x.trap.owed.any fun q => { q with was := false } == p) then s else s.defer u p
/-- A fill under a translation of the line. -/
def State.fillFrom (s : State) (u : UnitId) (line : Nat) (x : Xlat) : State :=
  let waiting := s.dev.fab.out.any fun r => r.u = u && r.line.isSome
  let tag := fun (s : State) => s.tagReq fun r => { r with line := some line }
  if s.refusal u .read x 64 != 0 then s.fillFree u line
  else
    match s.dev.tier x.pa with
    | .fabric =>
      if waiting then s
      else
        let r := s.fabSend u 11 0 0 x (.read 64) false
        if r.2 = 0 then tag r.1 else s.fillFree u line
    | .host => if waiting then s else tag (s.hostSend u 11 0 0 x 64 none)
    | _ =>
      if s.dev.asleep (s.dev.home x.pa) then s
      else
        let p := s.dev.loadPoison x.pa 64
        let t := (s.modDev fun d => ((d.loadAct x.pa 64).touch (d.home x.pa) 64).heat (s.partOf u) x 64).sees u p
        if p then t.fillFree u line else t.fillLine u line (s.dev.load x.pa 64)
/-- ICACHE_FILL: ce11 delivers the line that the fetch waits for. -/
def execIcacheFill (a : UnitArg) (s : State) : Host.Outcome State Fault Refusal :=
  let x := s.unit a.u
  .next (match x.es.fetchMiss with
    | none => s
    | some line =>
      let r := s.engXlat a.u 11 x.ck.xlbase line
      match r.2 with
      | .ok t => r.1.fillFrom a.u line t
      | .miss => r.1.fetchFault a.u cTRANSLATION_FAULT line
      | .table ea => r.1.fetchFault a.u cTABLE_FORMAT ea)

end Sys2Proof.Machine
end

