-- ==== Sys2Proof/Machine/Complete.lean ====
section
/-! DEFINITION. Completion of commands (R272, R416, R417), markers and what waits for them (R126–R128, R288–R291), TLBI
(R146), refetches (R397), and the deferred causes that the sequencer takes (R373). -/
namespace Sys2Proof.Machine

/-! ### Performed (R118, R272) -/
/-- Every read of a command has been performed: what is outstanding, logged or held for the gang is writes alone (Table 5.5). -/
def State.readsDone (s : State) (u : UnitId) (e : EngId) (q : QEnt) : Bool :=
  let g := (s.unit u).es.eng[e]
  let amo := match ckind q.word with | .amo _ => true | _ => false
  (q.ended || decide (cElems q.word q.snap ≤ q.next)) &&
    (q.sent.all fun i => !amo && s.dev.fab.out.any fun r => r.u = u && r.e = e && r.cmd = q.id && r.elt = i && r.wr) &&
    (g.log.all fun l => l.cmd != q.id || !amo)
/-- The destination of a command: the address word that names it. -/
def destAw (q : QEnt) : Word :=
  match ckind q.word with
  | .cpyw => 1#64 <<< 60
  | .cpy | .cpyf | .cpyx => qv q.word q.snap 1
  | _ => qv q.word q.snap 0
/-- The bytes that an element writes: the place, the first byte and the one after the last. -/
def destRange (q : QEnt) (i : Nat) : Option (Word × Nat × Nat) :=
  match ckind q.word with
  | .cpyw =>
    let l := (wLand q i).map Prod.fst
    l.head?.map fun a => (1#64 <<< 60, l.foldl min a, l.foldl max a + 1)
  | _ => (cWrite q.word q.snap i).map fun a => (a.aw, a.addr, a.addr + a.len)
/-- From the lowest to the highest destination byte of any element not performed (R417), for each place (log 72). -/
def unperformedSpan (q : QEnt) : List (Word × Nat × Nat) :=
  (((List.range (cElems q.word q.snap)).filter fun i => decide (q.next ≤ i) && !q.done.contains i).filterMap (destRange q)).foldl joinRange []
/-- The entries of a command that did not end with status 0 (R416, R417, R420, R427, R447): of a refusal, in the schedule cycle in which
it came (R452), then of the bytes written with poison. -/
def State.failEntries (s : State) (u : UnitId) (e : EngId) (q : QEnt) : State :=
  let r := if !q.ended then (s, []) else if ckind q.word == .flushx then s.cmdRanges u e q else (s, unperformedSpan q)
  let s := r.2.foldl (fun s x => s.mothAt u q.refusedAt (rangeEntry 0 q.status.toNat x)) r.1
  q.taints.foldl (fun s t => s.mothAt u t.sc (rangeEntry 0 t.st.toNat (t.aw, t.lo, t.hi))) s

/-! ### Completion of a command -/
/-- The unit whose barrier a command names: that of its destination (R134), while the context there is not away (R55). -/
def State.barUnit (s : State) (u : UnitId) (q : QEnt) : Option UnitId :=
  if awSpace (destAw q) = 1 && ckind q.word != .cpyw then s.placeUnit u (destAw q) else some u
/-- A kind whose BE field names a barrier. -/
def hasBar (q : QEnt) : Bool :=
  match ckind q.word with
  | .cpy | .cpyf | .cpyx | .cpyw => cpBe q.word
  | _ => false
/-- The count-down of a command of the brim core waits for the task that it drives, which is away (R49, R55). -/
def State.barAway (s : State) (u : UnitId) (q : QEnt) : Bool :=
  hasBar q && !q.refetch && isBrim u && s.driven.isSome && (s.barUnit u q).isNone
/-- A count-down of another unit's command seen by the shadow. -/
def Phase.otherDown (p : Phase) (n : Fin 32) (bytes : Nat) : Phase :=
  if p.on then { p with shadow := p.shadow.set n (p.shadow[n].countDown bytes).1 } else p
/-- The barrier count-down of a command (R134, R386, R398). -/
def State.countDown (s : State) (u : UnitId) (e : EngId) (q : QEnt) : State :=
  match if hasBar q && !q.refetch then s.barUnit u q else none with
  | none => s
  | some k =>
    let n := cpBar q.word
    let b := cBytes q.word q.snap
    let r := ((s.unit k).bars[n]).countDown b
    let s := s.setBar k n r.1
    let s := s.modUnit k fun x => { x with phase := if k = u then x.phase.shadowDown n q.id b else x.phase.otherDown n b }
    if r.2 then s.raiseFor u e q cBARRIER_STATE (BitVec.ofNat 64 n.val) else s
/-- Every command that issued before one has been performed, in all queues of the unit. -/
def State.earlierDone (s : State) (u : UnitId) (id : Nat) : Bool :=
  (List.range 12).all fun e =>
    let g := (s.unit u).es.eng[Fin.ofNat 12 e]
    g.q.all fun c => c.kind != .cmd || decide (id ≤ c.id) || c.performed g
/-- The counter that a command raises at its completion; MIGR's is raised by the carder. -/
def QEnt.cntr (q : QEnt) : Option (BitVec 12) :=
  if q.refetch || ckind q.word == .migr then none else cpCntr q.word q.snap
/-- A command leaves its queue; one that is retained takes its place in the order of completions (R396). -/
def State.retire (s : State) (u : UnitId) (e : EngId) (q : QEnt) : State :=
  let keep := q.keep && !q.refetch
  let r := { q with ready := s.dev.completions }
  let s := if keep then s.modDev fun d => { d with completions := d.completions + 1 } else s
  s.modEng u e fun g =>
    { g with q := g.q.filter fun c => c.id != q.id, freed := g.freed + 1, retained := if keep then g.retained ++ [(r, 0)] else g.retained }
/-- The command that may complete next. -/
def State.completable (s : State) (u : UnitId) (e : EngId) : Option QEnt :=
  let g := (s.unit u).es.eng[e]
  g.q.find? fun c => c.kind == .cmd && !c.dropped && c.performed g && (c.counted || !s.barAway u c) && (!c.counted || c.cntr.isNone || s.earlierDone u c.id)
/-- COPY_COMPLETE: the count-down, then the counter once all earlier work is performed, then the entry frees. -/
def execCopyComplete (a : EngArg) (s : State) : Host.Outcome State Fault Refusal :=
  .next (match s.completable a.u a.e with
    | none => s
    | some c =>
      let s := if c.counted then s else (s.countDown a.u a.e c).modCmd a.u a.e c.id fun q => { q with counted := true }
      if c.cntr.isSome && !s.earlierDone a.u c.id then s
      else
        let s := match c.cntr with | some n => s.modDev fun d => d.raise n.toNat 1 | none => s
        let s := s.trace a.u 5 false 0 c.word (c.result.setWidth 64)
        (s.failEntries a.u a.e c).retire a.u a.e c)

/-! ### Markers -/
/-- An entry is a marker of a fence, EVINC or TPOST with an id. -/
def QKind.marks (k : QKind) (id : Nat) : Bool :=
  match k with
  | .cmd => false
  | .fence _ _ _ i | .evinc i | .tpost i => i = id
/-- Id of a marker. -/
def QKind.mark (k : QKind) : Option Nat :=
  match k with
  | .cmd => none
  | .fence _ _ _ i | .evinc i | .tpost i => some i
/-- The commands of a queue that stand before its marker with an id; none when the marker has completed. -/
def Engine.beforeMark (g : Engine) (id : Nat) : List QEnt :=
  if g.q.any fun c => c.kind.marks id then (g.q.takeWhile fun c => !c.kind.marks id).filter fun c => c.kind == .cmd else []
/-- The accesses that a marker covers are performed (Table 5.5, R127, R290). -/
def State.markerDone (s : State) (u : UnitId) (e : EngId) (k : QKind) : Bool :=
  let eng := (s.unit u).es.eng
  match k with
  | .cmd => false
  | .evinc i | .tpost i => ((eng[e]).beforeMark i).all fun c => c.performed eng[e]
  | .fence acq rel m i =>
    (List.range 12).all fun j =>
      let f : EngId := Fin.ofNat 12 j
      !m.getLsbD j || ((eng[f]).beforeMark i).all fun c => if acq && !rel then s.readsDone u f c else c.performed eng[f]
/-- FENCE_MARKER_COMPLETE: the first marker of a queue. -/
def execFenceMarkerComplete (a : EngArg) (s : State) : Host.Outcome State Fault Refusal :=
  .next (match ((s.unit a.u).es.eng[a.e]).q.find? fun c => c.kind != .cmd with
    | none => s
    | some m =>
      if s.markerDone a.u a.e m.kind then
        s.modEng a.u a.e fun g => { g with q := g.q.filter fun c => c.id != m.id, freed := g.freed + 1 }
      else s)
/-- No marker with an id is left on a unit. -/
def UnitSt.unmarked (x : UnitSt) (id : Nat) : Bool := x.es.eng.toList.all fun g => !(g.q.any fun c => c.kind.marks id)
/-- A waiting SY operation leaves its unit. -/
def State.dropSy (s : State) (u : UnitId) (o : SyOp) : State := s.modUnit u fun x => { x with es := { x.es with sy := x.es.sy.erase o } }
/-- The EVINC whose markers have completed. -/
def UnitSt.evincDue (x : UnitSt) : Option (SyOp × BitVec 12 × BitVec 8) :=
  x.es.sy.findSome? fun o => match o with
    | .evinc id c n => if x.unmarked id then some (o, c, n) else none
    | _ => none
/-- EVINC_INCREMENT (R128, R290). -/
def execEvincIncrement (a : UnitArg) (s : State) : Host.Outcome State Fault Refusal :=
  .next (match (s.unit a.u).evincDue with
    | some (o, c, n) => (s.dropSy a.u o).modDev fun d => d.raise c.toNat n.toNat
    | none => s)

/-! ### TPOST's record (R291, R388) -/
/-- The TPOST whose markers have completed and whose record has been read. -/
def UnitSt.tpostDue (x : UnitSt) : Option SyOp :=
  x.es.sy.find? fun o => match o with
    | .tpost id _ _ _ _ _ _ => x.unmarked id && x.seq.accs.all fun a => match a.op with | .post _ i _ => i != id | _ => true
    | _ => false
/-- TPOST_RECORD_WRITE. -/
def execTpostRecordWrite (a : UnitArg) (s : State) : Host.Outcome State Fault Refusal :=
  let x := s.unit a.u
  .next (match x.tpostDue with
    | some (.tpost id pool ent addr rcd sc lvl) =>
      let p : Fin 16 := Fin.ofNat 16 pool.toNat
      let tr := gangRecord x.ctx rcd
      let s := s.dropSy a.u (.tpost id pool ent addr rcd sc lvl)
      match ent with
      | some n =>
        if recordBad s.dev.sched.desc[p] tr then
          (s.endEntry p n).defer a.u { code := cTASK_RECORD, tval := BitVec.ofNat 64 addr, lvl := lvl, eng := 15, sc := sc }
        else
          let s := s.modDev fun d => d.post p n tr
          match x.ctx with
          | some c => if isBrim a.u && !recBrim tr then s.modDev fun d => d.drive (c.pool, c.ent) p n else s
          | none => s
      | none => s.defer a.u { code := cTASK_RECORD, tval := BitVec.ofNat 64 addr, lvl := lvl, eng := 15, sc := sc }
    | _ => s)

/-! ### TLBI (R146, R292) -/
/-- What TLBI names. -/
def Tlb.named (t : Tlb) (sel : TlbSel) (asid : BitVec 12) (vpn : Nat) : Bool :=
  match sel with
  | .all => true
  | .asid => t.asid == asid
  | .page => t.asid == asid && (if t.large then t.vpn == vpn / 1024 else t.vpn == vpn)
/-- Entries dropped from every TLB of a unit. -/
def UnitSt.dropTlb (x : UnitSt) (p : Tlb → Bool) : UnitSt :=
  { x with es := { x.es with eng := x.es.eng.map fun g => { g with tlb := g.tlb.filter fun t => !p t },
                             victim := x.es.victim.filter fun y => !p y.t } }
/-- The TLBI of a unit that waits: what it names, and once it has dropped it the requests that it still waits for. -/
def UnitSt.tlbiOp (x : UnitSt) : Option (TlbSel × BitVec 12 × Nat × Option (List Nat)) :=
  x.es.sy.findSome? fun o => match o with | .tlbi sel asid vpn w => some (sel, asid, vpn, w) | _ => none
/-- Every access of the unit's commands has been performed. -/
def UnitSt.allPerformed (x : UnitSt) : Bool := x.es.eng.toList.all fun g => g.q.all fun c => c.kind != .cmd || c.performed g
/-- The outstanding requests that were issued under an entry that TLBI names (R146). -/
def State.underNamed (s : State) (sel : TlbSel) (asid : BitVec 12) (vpn : Nat) : List Nat :=
  (s.dev.fab.out.filter fun r => r.gang.isNone && (match sel with
    | .all => true
    | .asid => r.asid == asid
    | .page => r.asid == asid && (if r.large then r.va / 2 ^ 26 == vpn / 1024 else r.va / 65536 == vpn))).map OutReq.id
/-- Every side log of a unit is to be replayed. -/
def UnitSt.replayAll (x : UnitSt) : UnitSt := { x with es := { x.es with eng := x.es.eng.map fun g => { g with replay := true } } }
/-- The waiting TLBI of a unit replaced. -/
def UnitSt.setTlbi (x : UnitSt) (w : List Nat) : UnitSt :=
  { x with es := { x.es with sy := x.es.sy.map fun o => match o with | .tlbi sel a v _ => .tlbi sel a v (some w) | o => o } }
/-- The waiting TLBI of a unit has completed. -/
def UnitSt.endTlbi (x : UnitSt) : UnitSt := { x with es := { x.es.dropTlbi with tlbiDone := true } }
/-- TLBI_REMOVAL (R146): once the earlier commands of the sequencer have been performed, the entries go from every TLB of the
package; it completes when the requests issued under one of them have been answered, and each side log is then to be replayed
(R433). -/
def execTlbiRemoval (a : UnitArg) (s : State) : Host.Outcome State Fault Refusal :=
  let finish := fun (s : State) => ({ s with units := s.units.map UnitSt.replayAll } : State).modUnit a.u UnitSt.endTlbi
  .next (match (s.unit a.u).tlbiOp with
    | none => s
    | some (sel, asid, vpn, none) =>
      if !(s.unit a.u).allPerformed then s
      else
        let w := s.underNamed sel asid vpn
        let s := { s with units := s.units.map fun (x : UnitSt) => x.dropTlb fun t => t.named sel asid vpn }
        if w.isEmpty then finish s else s.modUnit a.u fun x => x.setTlbi w
    | some (_, _, _, some w) => if w.any fun i => s.dev.fab.out.any fun r => r.id = i then s else finish s)

/-! ### Causes and refetches -/
/-- The sequencer stands at an instance boundary at which a deferred cause can be taken (R373), a gate stall among them (R43, R462). -/
def UnitSt.atBoundary (x : UnitSt) : Bool :=
  x.status = .running && !x.stop.stopped && !x.seq.runDown && x.seq.stall = 0 && !x.phase.cancelling
/-- DEFERRED_CAUSE_TAKEN. -/
def execDeferredCauseTaken (a : UnitArg) (s : State) : Host.Outcome State Fault Refusal :=
  let x := s.unit a.u
  .next (match if x.atBoundary then duePend x.trap.tl x.trap.pend else none with
    | some p =>
      ((s.modUnit a.u fun x => { x with trap := { x.trap with pend := dropPend x.trap.pend p } }).pay a.u).takeTrap a.u
        { code := p.code, tval := p.tval, deferred := true, skip := p.skip }
    | none => s)
/-- REFETCH_COMPLETE: the engines have finished what they had started, or the refetch command has completed; the phase goes on to
the next part of its cancellation (R397). -/
def execRefetchComplete (a : UnitArg) (s : State) : Host.Outcome State Fault Refusal :=
  .next (match (s.unit a.u).phase.refetching with
    | some (v, e, id) => if (s.cmdOf v e id).isNone then s.modUnit a.u UnitSt.cancelEnd else s
    | none => if (s.unit a.u).phase.closing.isNone then s else s.cancelNext a.u)

end Sys2Proof.Machine
end

