-- ==== Sys2Proof/Machine/CubeRows.lean ====
section
/-! DEFINITION. The rows of the cube, of the decomposition of PACKAGE and GANG commands, and of injection (R245, R253,
R254, R264–R266, R348, R364). -/
namespace Sys2Proof.Machine

/-- The cube of the unit has work: a context runs, exits, is being saved, or has been killed while a step is under way (R377). -/
def UnitSt.cubeLives (x : UnitSt) : Bool := x.status = .running || x.status = .exiting || x.status = .saving || x.status = .killed
/-- The unit's cube moves in the present clock (Table 2.6, R346). -/
def UnitSt.cubeMoves (x : UnitSt) : Bool := x.cubeLives && x.clockKind == .run
/-- Its batts compute and write planes, which a backlog does not hold up (R412). -/
def UnitSt.planesMove (x : UnitSt) : Bool := x.cubeLives && x.clockKind != .frozen
/-- CUBE_STEP. -/
def execCubeStep (a : UnitArg) (s : State) : Host.Outcome State Fault Refusal :=
  .next (if (s.unit a.u).cubeMoves then s.cubeStepRow a.u else s)
/-- CUBE_COMMAND_COMPLETE. -/
def execCubeCommandComplete (a : UnitArg) (s : State) : Host.Outcome State Fault Refusal :=
  .next (if (s.unit a.u).cubeMoves then s.cubeCompleteRow a.u else s)
/-- PLANE_WRITE. -/
def execPlaneWrite (a : BattArg) (s : State) : Host.Outcome State Fault Refusal :=
  let u := crownUnit a.k.val
  .next (if (s.unit u).planesMove then s.planeWriteRow u a.b else s)
/-- TJOIN_DRAIN. -/
def execTjoinDrain (a : UnitArg) (s : State) : Host.Outcome State Fault Refusal :=
  .next (if (s.unit a.u).cubeMoves then s.joinDrainRow a.u else s)
/-- DELIVERED_COMMAND_START. -/
def execDeliveredCommandStart (a : UnitArg) (s : State) : Host.Outcome State Fault Refusal :=
  let x := s.unit a.u
  .next (if (x.status = .running || x.status = .exiting) && x.cubeMoves then s.delivStartRow a.u else s)
/-- The brim context that issued the command is there and runs; a precise stop of the brim core freezes the decomposition as it
freezes a cube (R346, log 64). -/
def State.brimRuns (s : State) : Bool :=
  ((s.unit brim).status = .running || (s.unit brim).status = .exiting) && !(s.unit brim).stop.stopped
/-- DECOMPOSITION_ACTION. -/
def execDecompositionAction (s : State) : Host.Outcome State Fault Refusal := .next (if s.brimRuns then s.decomposeRow else s)
/-- PACKAGE_COMMAND_COMPLETE. -/
def execPackageCommandComplete (s : State) : Host.Outcome State Fault Refusal := .next (if s.brimRuns then s.pkgCompleteRow else s)
/-- INJECTION_COMPLETE. -/
def execInjectionComplete (a : UnitArg) (s : State) : Host.Outcome State Fault Refusal :=
  .next (if (s.unit a.u).stop.stopped then s.injRow a.u else s)

end Sys2Proof.Machine
end

