-- ==== Sys2Proof/Machine/Save.lean ====
section
/-! DEFINITION. The save record (Tables 12.5 and 12.9, R312–R315), written and reloaded through a context's translation, and
the dump of a precise stop (R346, R347), which has the layout of its fixed part. -/
namespace Sys2Proof.Machine

/-! ### Reads and writes through a translation base -/
/-- A record written region by region by an engine of a unit: the machine, and the cause of a write that faults or is refused, 0
for none (R312, R346). -/
def State.saveAll (s : State) (u : UnitId) (e : EngId) (xl : Word) (base : Nat) (l : List (Nat × List Byte)) : State × Nat :=
  l.foldl (fun t c => if t.2 != 0 then t else t.1.engWrite u e xl (base + c.1) c.2) (s, 0)
/-- The translation that an engine reads a record by: that of its TLBs, else that of the tables. -/
def State.recXlat (s : State) (u : UnitId) (e : EngId) (xl : Word) (va : Nat) : Option Xlat :=
  match (s.unit u).xlatAs e (asidOf xl) va with
  | some x => some x
  | none => match s.dev.walk xl va with | .ok x => some x | _ => none
/-- The physical address of a byte of a record that stands in the device's own memory and may be read there (R147). -/
def State.recPa (s : State) (u : UnitId) (e : EngId) (xl : Word) (va : Nat) : Option Nat :=
  (s.recXlat u e xl (va % 2 ^ 56)).bind fun x =>
    if s.refusal u .read x 1 != 0 then none
    else match s.dev.tier x.pa with | .hbmIx | .hbmDirect _ | .lp6 | .cxl _ | .brimScratch => some x.pa | _ => none
/-- A byte of a record that an answer of the fabric or of the host has brought. -/
def UnitSt.cameByte (x : UnitSt) (va : Nat) : Option Byte :=
  x.reload.findSome? fun c => if c.1 ≤ va then c.2[va - c.1]? else none
/-- Bytes of a record, page by page. -/
def State.recBytes (s : State) (u : UnitId) (e : EngId) (xl : Word) (va n : Nat) : Option (List Byte) :=
  (spans va n).foldl (fun (t : Option (List Byte)) p =>
    t.bind fun l => (match s.recPa u e xl p.1 with
      | some pa => some (s.dev.load pa p.2)
      | none => (List.range p.2).mapM fun i => (s.unit u).cameByte (p.1 + i)).map (l ++ ·)) (some [])
/-- What reads a value of a record: offset, bytes, the value kept beside the record, which stands for one that cannot be read back. -/
abbrev Reader := Nat → Nat → Nat → Nat
/-- The reader of a record at a virtual address, by an engine of a unit. -/
def State.reader (s : State) (u : UnitId) (e : EngId) (xl : Word) (base : Nat) : Reader := fun o n old =>
  match s.recBytes u e xl (base + o) n with
  | some l => leNat l
  | none => old
/-- The read of n bytes of a record within one 4 KiB block, under a translation: inside the device its requests and its hotness, else
requests that leave (R149, R323, R329, R331). -/
def State.readPart (s : State) (u : UnitId) (e : EngId) (x : Xlat) (va n : Nat) : State :=
  if s.refusal u .read x n != 0 then s
  else
    match s.dev.tier x.pa with
    | .hbmIx | .hbmDirect _ | .lp6 | .cxl _ =>
      (s.modDev fun d => ((d.loadAct x.pa n).touch (d.home x.pa) n).heat (s.partOf u) x n).sees u (s.dev.loadPoison x.pa n)
    | .fabric => (splitReqs x.pa n 0 (List.replicate n 0)).foldl (fun s p =>
        let r := s.fabSend u e 0 0 (x.plus p.1) (.read p.2.length) false true
        if r.2 = 0 then r.1.tagReq fun o => { o with reload := some (va + p.1) } else r.1) s
    | .host => (s.hostSend u e 0 0 x n none false true).tagReq fun o => { o with reload := some va }
    | _ => s
/-- The reads of a reload of regions (R142, R315); nothing of an earlier one is awaited. -/
def State.noteReload (s : State) (u : UnitId) (e : EngId) (xl : Word) (base : Nat) (l : List (Nat × List Byte)) : State :=
  let s := (s.modDev fun d => { d with fab := { d.fab with out := d.fab.out.filter fun o => !(o.u == u && o.reload.isSome) } }).modUnit u fun x =>
    { x with reload := [] }
  l.foldl (fun s c => (spans (base + c.1) c.2.length).foldl (fun s p =>
    let r := s.engXlat u e xl (p.1 % 2 ^ 56)
    match r.2 with
    | .ok x => r.1.readPart u e x p.1 p.2
    | _ => r.1) s) s
/-- Parts of a record of a unit have not come. -/
def State.reloadOut (s : State) (u : UnitId) : Bool := s.dev.fab.out.any fun o => o.u = u && o.reload.isSome
/-- The header of END of a pending LEXIT is put into the I-cache, so that a record can name the target (R313), and whether the record
can be written; of a header that does not translate it names none. -/
def State.endHeader (s : State) (u : UnitId) : State × Bool :=
  let x := s.unit u
  match x.seq.br, x.seq.loops.getLast? with
  | some .lexit, some e =>
    match x.icMiss e.endA.toNat 8 with
    | none => (s, true)
    | some line =>
      let r := s.engXlat u 11 x.ck.xlbase line
      match r.2 with
      | .ok t => let s := r.1.fillFrom u line t; (s, ((s.unit u).icMiss e.endA.toNat 8).isNone)
      | _ => (r.1, true)
  | _, _ => (s, true)

/-! ### The regions of a record -/
/-- Table 2.3. -/
def LoopEnt.word2 (e : LoopEnt) : Nat :=
  2 ^ 41 + (if e.pipe then 2 ^ 40 else 0) + e.rbase.toNat * 2 ^ 35 + e.epi.toNat * 2 ^ 32 + e.count.toNat
/-- The six entries of a loop stack. -/
def loopBytes (l : List LoopEnt) : List Byte :=
  (List.range 6).flatMap fun i => match l[i]? with
    | some e => leBytes 8 e.start.toNat ++ leBytes 8 e.endA.toNat ++ leBytes 8 e.word2
    | none => List.replicate 24 0
/-- An address register: value, INC, BASE, LEN, then MODE, K and ESH. -/
def AReg.bytes (a : AReg) : List Byte :=
  leBytes 4 a.val.toNat ++ leBytes 4 a.md.inc.toNat ++ leBytes 4 a.md.base.toNat ++ leBytes 4 a.md.len.toNat ++
    leBytes 1 a.md.mode.toNat ++ leBytes 1 a.md.k.toNat ++ leBytes 1 a.md.esh.toNat ++ List.replicate 13 0
/-- The regions that both records hold at the same offsets: loop stack, p, s, a, cb, cq. -/
def regChunks (loops : List LoopEnt) (p : Vector Mask 12) (r : Vector Word 64) (a : Vector AReg 32) (cb : Vector Word 16)
    (cq : Vector Word 32) : List (Nat × List Byte) :=
  [(0x80, loopBytes loops),
   (0x110, p.toList.flatMap fun m => leBytes 16 m.toNat),
   (0x1D0, r.toList.flatMap fun w => leBytes 8 w.toNat),
   (0x3D0, a.toList.flatMap AReg.bytes),
   (0x7D0, cb.toList.flatMap fun w => leBytes 8 w.toNat),
   (0x850, cq.toList.flatMap fun w => leBytes 8 w.toNat)]
/-- The four sticky states. -/
def stickyBytes (q : Vector Sticky 4) : List Byte :=
  q.toList.flatMap fun t => leBytes 8 t.w.toNat ++ leBytes 8 (t.j.toNat + (if t.released then 2 ^ 63 else 0))
/-- BARST[0] to BARST[31]. -/
def barBytes (b : Vector Barrier 32) : List Byte := b.toList.flatMap fun x => leBytes 8 x.csr.toNat
/-- A pending BR action: PBR and BT, target, trip count. The target of a LEXIT is the bundle after END, whose header `endHeader` has put
into the I-cache; 0 where that does not translate (log 41). -/
def UnitSt.brWords (x : UnitSt) : Nat × Nat × Nat :=
  match x.seq.br with
  | none => (0, 0, 0)
  | some (.goto t) => (2 ^ 16 + 2 ^ 17, t.toNat, 0)
  | some .lexit =>
    (2 ^ 16 + 2 ^ 17, (x.seq.loops.getLast?.bind fun e =>
      (x.icBytes e.endA.toNat 8).map fun b => (e.endA.toNat + Header.len ⟨BitVec.ofNat 64 (leNat b)⟩) % 2 ^ 56).getD 0, 0)
  | some (.push _ t _ _ _) => (2 ^ 16, 0, t.toNat)
  | some _ => (2 ^ 16, 0, 0)
/-- The destination code of a result in flight. -/
def FDest.code : FDest → Nat
  | .s n => n.val
  | .a n => n.val
  | .am n _ => n.val
  | .v n => n.val
  | .p n => n.val
  | .cb n => n.val
  | .cq n => n.val
  | _ => 0
/-- The first word of a result in flight: slot, destination, and the schedule cycles that remain, counted so that a result of
latency 1 has 1 at the end of its clock (R346, the example of Table 14.12; log 64). -/
def Flight.word (f : Flight) (scyc : Nat) : Nat := f.slot.val + f.dst.code * 2 ^ 8 + (f.due + 1 - scyc) % 256 * 2 ^ 16
/-- The results in flight of a record, at a base offset. -/
def UnitSt.flightChunks (x : UnitSt) (base : Nat) : List (Nat × List Byte) :=
  x.seq.flights.zipIdx.map fun f => (base + 544 * f.2,
    leBytes 8 (f.1.word x.ck.scyc) ++ List.replicate 8 0 ++ leBytes 16 f.1.mask.toNat ++ leBytes 512 f.1.val.toNat)
/-- The occupied queue entries of a record, at a base offset. -/
def UnitSt.queueChunks (x : UnitSt) (base : Nat) : List (Nat × List Byte) :=
  (List.range 12).flatMap fun e => (x.es.eng[Fin.ofNat 12 e]).q.zipIdx.map fun c =>
    (base + (32 * e + c.2) * 272, leBytes 8 c.1.word.toNat ++ List.replicate 8 0 ++ c.1.snap.toList.flatMap fun w => leBytes 8 w.toNat)
/-- The pending deferred causes. -/
def UnitSt.pendChunks (x : UnitSt) : List (Nat × List Byte) :=
  x.trap.pend.zipIdx.map fun p => (0x69000 + 32 * p.2,
    leBytes 8 (p.1.code.toNat + p.1.lvl.toNat * 2 ^ 8 + p.1.eng.toNat * 2 ^ 10) ++ leBytes 8 p.1.tval.toNat ++ leBytes 8 p.1.sc ++ leBytes 8 0)
/-- CEPROG[0] to CEPROG[11]. -/
def UnitSt.progBytes (x : UnitSt) : List Byte := x.es.eng.toList.flatMap fun g => leBytes 8 g.prog.toNat
/-- A header word list. -/
def wordsLe (l : List Nat) : List Byte := l.flatMap (leBytes 8)
/-- The clocks from the stop to the next read clock of a product (R467). -/
def UnitSt.crdOf (x : UnitSt) (k : CubeCmd) : Nat := k.crd.getD (k.readClk - x.ck.stopAt)
/-- CRD and CRV: those of the first cube step not started (R467). -/
def UnitSt.crd (x : UnitSt) : Nat :=
  match x.cube.cmds.find? fun k => isProduct k && k.next < k.limit with
  | some k => x.crdOf k % 2 ^ 32 + 2 ^ 32
  | none => 0
/-- The running or stopped cube command. -/
def UnitSt.cubeCmd (x : UnitSt) : Option CubeCmd := (x.cube.cmds.find? fun k => !k.done).or x.cube.stopped
/-- A tile header with its snapshot, and 8 bytes of zeros. -/
def hdrBytes (c : Option (Word × Vector Word 16)) : List Byte :=
  match c with
  | some (h, cb) => leBytes 8 h.toNat ++ (cb.toList.flatMap fun w => leBytes 8 w.toNat) ++ List.replicate 8 0
  | none => List.replicate 144 0
/-- The fixed part and the results in flight of a crown (Table 12.5). -/
def UnitSt.crownFixed (x : UnitSt) : List (Nat × List Byte) :=
  let br := x.brWords
  [(0, wordsLe [x.seq.pc.toNat,
      x.accn + (if x.flag2 20 then 2 ^ 6 else 0) + (if x.flag2 23 then 2 ^ 7 else 0) + x.seq.flights.length % 1024 * 2 ^ 8
        + (if x.phase.on then 2 ^ 18 else 0),
      x.ck.ectr.toNat, x.fp.vctl.toNat, x.seg.cnt.toNat, x.seg.crc.toNat, x.cprog.toNat,
      x.phase.restart.toNat + x.cube.scsel.toNat * 2 ^ 56, x.phase.qmask.toNat, x.ck.xlbase.toNat,
      x.trap.pend.length + x.seq.rix.toNat * 2 ^ 8 + br.1, br.2.1, br.2.2, x.crd, 0, 0])] ++
  regChunks x.seq.loops x.regs.p x.regs.s x.regs.a x.regs.cb x.regs.cq ++
  [(0x950, stickyBytes x.seq.sticky), (0x990, barBytes x.bars),
   (0xA90, x.cube.scales.toList.flatMap fun v => leBytes 64 v.toNat),
   (0xB90, hdrBytes (x.cubeCmd.map fun k => (k.hdr, k.cb))),
   (0xC20, x.fp.gens.toList.flatMap fun g => leBytes 4 g.toNat),
   (0xE20, x.progBytes),
   (0xE80, x.regs.v.toList.flatMap fun v => leBytes 512 v.toNat)] ++ x.flightChunks 0x22680
/-- The same of the brim core (Table 12.9). -/
def State.brimFixed (s : State) : List (Nat × List Byte) :=
  let x := s.unit brim
  [(0, wordsLe [x.seq.pc.toNat, (if x.flag2 20 then 2 ^ 6 else 0) + x.seq.flights.length % 1024 * 2 ^ 8, x.ck.ectr.toNat, 0,
      x.seg.cnt.toNat, x.seg.crc.toNat, s.pprog.toNat, 0, 0, x.ck.xlbase.toNat, x.trap.pend.length, 0, 0, 0, 0, 0])] ++
  regChunks x.seq.loops x.regs.p x.regs.s x.regs.a x.regs.cb x.regs.cq ++
  [(0x950, barBytes x.bars), (0xA50, hdrBytes (s.dev.pkg.map fun p => (p.hdr, p.cb))), (0xAE0, x.progBytes)] ++
  x.flightChunks 0x1A340
/-- Rows of a map as bytes. -/
def storeBytes (m : List (Nat × VecVal)) (lo n : Nat) : List Byte := (List.range n).flatMap fun r => leBytes 512 (smGet 0 m (lo + r)).toNat
/-- The ranges of a crown's reservation in the face, west then south. -/
def UnitSt.resRanges (x : UnitSt) : List (Nat × Nat) :=
  [(x.west.1, x.west.2 - x.west.1), (0x2000000 + x.south.1, x.south.2 - x.south.1)]
/-- The full/empty bits of a range, one per granule. -/
def fullBits (st : Stores) (a n : Nat) : List Byte :=
  (List.range (n / 128)).map fun i => BitVec.ofNat 8 ((List.range 8).foldl (fun t b => t + (if (smGet {} st.face (a / 16 + 8 * i + b)).full then 2 ^ b else 0)) 0)
/-- The offsets of the regions after 0x7_0000: planes, scratch, full/empty bits. -/
def UnitSt.tailAt (x : UnitSt) : Nat × Nat × Nat :=
  let p := 0x70000 + (if x.phase.on then 2 else 1) * x.accn * 65536
  let f := p + (if x.flag2 23 then 524288 else 0)
  (p, f, f + (x.resRanges.map Prod.snd).sum)
/-- The 4,096 bytes of the phase snapshot, at the offsets of the fixed part (R393; log 41). -/
def PhaseSnap.bytes (p : PhaseSnap) : List Byte :=
  let l := List.replicate 128 0 ++ ((regChunks p.loops p.p p.s p.a p.cb p.cq).flatMap Prod.snd) ++ stickyBytes p.sticky ++ barBytes p.bars ++
    leBytes 8 p.scsel.toNat
  l ++ List.replicate (4096 - l.length) 0
/-- The whole record of a crown. -/
def UnitSt.crownRecord (x : UnitSt) : List (Nat × List Byte) :=
  let at_ := x.tailAt
  let n := x.accn * 128
  let face := x.resRanges.flatMap fun r => scrBytes x.st r.1 r.2
  x.crownFixed ++ x.queueChunks 0x8E80 ++
    (match x.phase.on, x.phase.snap with
     | true, some p => [(0x68000, p.bytes)]
     | _, _ => []) ++
    x.pendChunks ++
    (if x.phase.on then [(0x70000, storeBytes x.st.committed 0 n), (0x70000 + x.accn * 65536, storeBytes x.st.acc 0 n)]
     else [(0x70000, storeBytes x.st.acc 0 n)]) ++
    (if x.flag2 23 then [(at_.1, storeBytes x.st.planes 0 1024)] else []) ++
    (if x.flag2 20 then [(at_.2.1, face), (at_.2.2, x.resRanges.flatMap fun r => fullBits x.st r.1 r.2)] else [])
/-- The whole record of a brim context. -/
def State.brimRecord (s : State) : List (Nat × List Byte) :=
  let x := s.unit brim
  s.brimFixed ++ x.queueChunks 0xB40 ++ x.pendChunks ++
    (if x.flag2 20 then [(0x70000, s.dev.bytes (brimPa x.west.1) (x.west.2 - x.west.1))] else [])

/-! ### Reload -/
/-- The bits of ECTR that are not reserved (Table 12.6). -/
def ectrBits : Word := 0x83FFFFFFFFFFFFFF
/-- The bits of VCTL that are not reserved (Table 3.6). -/
def vctlBits : BitVec 32 := 0xF80F
/-- A loop stack of a record. -/
def Reader.loops (r : Reader) (base : Nat) (old : List LoopEnt) : List LoopEnt :=
  (List.range 6).filterMap fun i =>
    let o := old[i]?
    let w2 := r (base + 24 * i + 16) 8 ((o.map LoopEnt.word2).getD 0)
    if w2.testBit 41 then
      some { pipe := w2.testBit 40, rbase := BitVec.ofNat 5 (w2 / 2 ^ 35), epi := BitVec.ofNat 3 (w2 / 2 ^ 32), count := BitVec.ofNat 32 w2,
             start := BitVec.ofNat 56 (r (base + 24 * i) 8 ((o.map fun e => e.start.toNat).getD 0)),
             endA := BitVec.ofNat 56 (r (base + 24 * i + 8) 8 ((o.map fun e => e.endA.toNat).getD 0)) }
    else none
/-- A vector of values of a record. -/
def Reader.vec {w n : Nat} (r : Reader) (base z : Nat) (old : Vector (BitVec w) n) : Vector (BitVec w) n :=
  Vector.ofFn fun i : Fin n => BitVec.ofNat w (r (base + z * i.val) z (old[i]).toNat)
/-- An address register of a record. -/
def Reader.areg (r : Reader) (base : Nat) (o : AReg) : AReg :=
  { val := BitVec.ofNat 32 (r base 4 o.val.toNat),
    md := { inc := BitVec.ofNat 32 (r (base + 4) 4 o.md.inc.toNat), base := BitVec.ofNat 32 (r (base + 8) 4 o.md.base.toNat),
            len := BitVec.ofNat 32 (r (base + 12) 4 o.md.len.toNat), mode := BitVec.ofNat 2 (r (base + 16) 1 o.md.mode.toNat),
            k := BitVec.ofNat 8 (r (base + 17) 1 o.md.k.toNat), esh := BitVec.ofNat 8 (r (base + 18) 1 o.md.esh.toNat) } }
/-- The address registers of a record. -/
def Reader.aregs (r : Reader) (base : Nat) (o : Vector AReg 32) : Vector AReg 32 :=
  Vector.ofFn fun i : Fin 32 => r.areg (base + 32 * i.val) o[i]
/-- A barrier of a record. -/
def Reader.bar (r : Reader) (base : Nat) (o : Barrier) : Barrier :=
  let w := r base 8 o.csr.toNat
  { o with bytes := signedOf 32 (w / 2 ^ 32), arrived := BitVec.ofNat 8 (w / 2 ^ 16), expect := BitVec.ofNat 8 (w / 2 ^ 8), broken := w.testBit 1,
           phase := w.testBit 0 }
/-- Barriers of a record. -/
def Reader.bars (r : Reader) (base : Nat) (o : Vector Barrier 32) : Vector Barrier 32 := Vector.ofFn fun i : Fin 32 => r.bar (base + 8 * i.val) o[i]
/-- Sticky states of a record. -/
def Reader.sticky (r : Reader) (base : Nat) (o : Vector Sticky 4) : Vector Sticky 4 :=
  Vector.ofFn fun i : Fin 4 =>
    let j := r (base + 16 * i.val + 8) 8 ((o[i]).j.toNat + (if (o[i]).released then 2 ^ 63 else 0))
    { w := BitVec.ofNat 64 (r (base + 16 * i.val) 8 (o[i]).w.toNat), j := BitVec.ofNat 32 j, released := j.testBit 63 }
/-- A destination of the same kind with another number. -/
def FDest.at_ (d : FDest) (c : Nat) : FDest :=
  match d with
  | .s _ => .s (Fin.ofNat 64 c)
  | .a _ => .a (Fin.ofNat 32 c)
  | .am _ md => .am (Fin.ofNat 32 c) md
  | .v _ => .v (Fin.ofNat 64 c)
  | .p _ => .p (Fin.ofNat 12 c)
  | .cb _ => .cb (Fin.ofNat 16 c)
  | .cq _ => .cq (Fin.ofNat 32 c)
  | d => d
/-- The destination that a code names in a slot, where nothing else tells its kind (log 41). -/
def slotDest (slot : Fin 12) (c : Nat) : FDest :=
  if slot = 1 || slot = 2 then .s (Fin.ofNat 64 c)
  else if slot = 3 || slot = 4 then .a (Fin.ofNat 32 c)
  else if slot = 5 || slot = 6 || slot = 7 then .v (Fin.ofNat 64 c)
  else .none
/-- The n results in flight of a record: slot, destination, remaining latency, mask and value of each; `id`: an id for one that the
model has not kept. -/
def Reader.flights (r : Reader) (base scyc id n : Nat) (l : List Flight) : List Flight :=
  (List.range n).map fun i =>
    let o := base + 544 * i
    let f := l[i]?
    let w := r o 8 ((f.map fun f => f.word scyc).getD 0)
    let slot : Fin 12 := Fin.ofNat 12 (w % 16)
    let c := bitsOf w 8 7
    let dst := match f with
      | some f => if f.slot = slot then (if f.dst.code = c then f.dst else f.dst.at_ c) else slotDest slot c
      | none => slotDest slot c
    { id := (f.map Flight.id).getD (id + i), slot := slot, dst := dst, due := scyc + bitsOf w 16 8 - 1, latch := f.bind Flight.latch,
      mask := BitVec.ofNat 128 (r (o + 16) 16 ((f.map fun f => f.mask.toNat).getD 0)),
      val := BitVec.ofNat 4096 (r (o + 32) 512 ((f.map fun f => f.val.toNat).getD 0)) }
/-- The n queue entries of an engine of a record. -/
def Reader.queue (r : Reader) (base e id n : Nat) (l : List QEnt) : List QEnt :=
  (List.range n).map fun i =>
    let o := base + (32 * e + i) * 272
    let c := (l[i]?).getD { id := id + i, kind := .cmd }
    { c with word := BitVec.ofNat 64 (r o 8 c.word.toNat), snap := r.vec (o + 16) 8 c.snap }
/-- CEPROG of a record put into an engine whose queue still has the command at its head that the record names: state, and next
element. -/
def Reader.prog (r : Reader) (o : Nat) (g : Engine) : Engine :=
  let w := r o 8 g.prog.toNat
  if bitsOf w 48 14 != bitsOf g.prog.toNat 48 14 then g
  else
    { g with
      stopped := decide (bitsOf w 62 2 = 2),
      q := match g.q with
        | c :: t => (if c.kind == .cmd && bitsOf w 0 48 != c.next then { c with next := bitsOf w 0 48, done := [] } else c) :: t
        | [] => [] }
/-- The engines of a record: occupied entries and progress. -/
def Reader.engines (r : Reader) (progAt queueAt : Nat) (es : EngineSide) : EngineSide :=
  { es with
    nextId := es.nextId + 384,
    eng := Vector.ofFn fun e : Fin 12 =>
      let g := es.eng[e]
      let n := bitsOf (r (progAt + 8 * e.val) 8 g.prog.toNat) 56 6
      r.prog (progAt + 8 * e.val) { g with q := r.queue queueAt e.val (es.nextId + 32 * e.val) (Nat.min n 32) g.q } }
/-- The engines of a dump, which holds no queue entries. -/
def Reader.progs (r : Reader) (progAt : Nat) (es : EngineSide) : EngineSide :=
  { es with eng := Vector.ofFn fun e : Fin 12 => r.prog (progAt + 8 * e.val) es.eng[e] }
/-- The first product that has a step to start reads it `c` clocks after the stop. -/
def CubeCmd.reads (k : CubeCmd) (stopAt c : Nat) : CubeCmd :=
  if k.crd.isSome then { k with crd := some c }
  else
    let n := if tkind k.hdr == .mmap then k.next / 8 * 8 else k.next
    { k with origin := n, t := stopAt + c - 4 }
/-- The next step of a command that CPROG names (Table 10.10): the inverse of `stepIdx`. -/
def stepOf (hdr : Word) (cb : Snap) (pr : Nat) : Nat :=
  let k := bitsOf pr 0 16
  match tkind hdr with
  | .mma | .mmas => (bitsOf pr 26 10 * Snap.nb cb + bitsOf pr 16 10) * Snap.nch hdr cb + k
  | .mmap => 8 * k
  | .drain => k * (if hdrSub hdr = 0 then 8 else 4)
  | .load => 8 * k
  | .join => 0
  | _ => k
/-- A command of a record that the model has not kept: its next step is the first of a schedule that goes on with the unit (log 64). -/
def Cube.renew (c : Cube) (hdr : Word) (cb : Snap) (lvl : BitVec 2) (run pr : Nat) : CubeCmd :=
  let n := stepOf hdr cb pr
  { id := c.nextId, hdr := hdr, cb := cb, mode := c.scsel, lvl := lvl, next := n, origin := n, t := run + 1 - stepAt hdr cb 0, ready := c.ready }
/-- The cube command of a record: header, snapshot, progress and CRD. What agrees with the state that the model kept changes
nothing; another CPROG sets the next step of a product, stops it, or drops it, and names a command where the model kept none. -/
def Reader.cube (r : Reader) (x : UnitSt) : Cube :=
  let c := x.cube
  let old := x.cubeCmd
  let oldBs := (old.map fun k => (k.hdr, k.cb))
  let hdr := BitVec.ofNat 64 (r 0xB90 8 ((oldBs.map fun p => p.1.toNat).getD 0))
  let cb : Vector Word 16 := r.vec 0xB98 8 ((oldBs.map Prod.snd).getD (Vector.replicate 16 0))
  let pr := r 48 8 x.cprog.toNat
  let crd := r 104 8 x.crd
  match old with
  | none =>
    let k := c.renew hdr cb x.trap.tl x.ck.run pr
    match bitsOf pr 62 2 with
    | 0 => c
    | 2 => { c with nextId := c.nextId + 1, stopped := some k }
    | _ => { c with nextId := c.nextId + 1, drained := if tkind hdr == .join then bitsOf pr 0 16 else c.drained,
                    cmds := c.cmds ++ [if isProduct k && 2 ^ 32 ≤ crd then k.reads x.ck.stopAt (crd % 2 ^ 32) else k] }
  | some k =>
    let k' := { k with hdr := hdr, cb := cb }
    let k' := if pr = x.cprog.toNat || !isProduct k' then k'
      else { k' with next := stepOf hdr cb pr }
    let k' := if crd = x.crd || crd < 2 ^ 32 then k' else k'.reads x.ck.stopAt (crd % 2 ^ 32)
    let rest := c.cmds.filter fun m => m.id != k.id
    match bitsOf pr 62 2 with
    | 0 => if bitsOf x.cprog.toNat 62 2 = 0 then c else { c with cmds := rest, stopped := none }
    | 2 => { c with cmds := rest, stopped := some { k' with crd := none } }
    | _ => if c.cmds.any fun m => m.id = k.id then c.put k' else { c with cmds := k' :: rest, stopped := none }
/-- The action of the bundle at an address that is no taken transfer, with the trip count of a record (R347). -/
def UnitSt.actAt (x : UnitSt) (pc : BitVec 56) (t : BitVec 32) : Option BrAct :=
  let push := fun (pipe : Bool) (epi : BitVec 3) (rb : BitVec 5) (off : BitVec 14) => BrAct.push pipe t epi rb (pc + BitVec.ofNat 56 (off.toNat * 8))
  match x.fetch pc.toNat with
  | .miss _ => none
  | .ok _ ws _ =>
    match (ws.find? fun w => w.1 = 0).map fun w => decodeSlot 0 w.2 with
    | some (.ok (.loop a)) => some (push false 0 0 a.endoff)
    | some (.ok (.loopp a)) => some (push true a.epi a.rb a.endoff)
    | some (.ok (.exit _)) => some .exit
    | some (.ok (.trapi a)) => some (.trapi a.code)
    | some (.ok (.tret _)) => some .tret
    | _ => none
/-- The pending BR action of a record. -/
def Reader.br (r : Reader) (x : UnitSt) : Option BrAct :=
  let o := x.brWords
  let w := r 80 8 o.1
  let t := r 88 8 o.2.1
  if !w.testBit 16 then none
  else if w.testBit 17 then (if x.seq.br == some .lexit && t = o.2.1 then x.seq.br else some (.goto (BitVec.ofNat 56 t)))
  else
    let n := BitVec.ofNat 32 (r 96 8 o.2.2)
    match x.seq.br with
    | some (.push p _ e rb en) => some (.push p n e rb en)
    | none | some (.goto _) | some .lexit => x.actAt (BitVec.ofNat 56 (r 0 8 x.seq.pc.toNat)) n
    | b => b
/-- The n pending causes of a record. -/
def Reader.pend (r : Reader) (n : Nat) (l : List Pend) : List Pend :=
  (List.range n).map fun i =>
    let o := 0x69000 + 32 * i
    let p := (l[i]?).getD { code := 0, tval := 0, lvl := 0, eng := 15, sc := 0 }
    let w := r o 8 (p.code.toNat + p.lvl.toNat * 2 ^ 8 + p.eng.toNat * 2 ^ 10)
    { p with code := BitVec.ofNat 8 w, lvl := BitVec.ofNat 2 (w / 2 ^ 8), eng := BitVec.ofNat 4 (w / 2 ^ 10),
             tval := BitVec.ofNat 64 (r (o + 8) 8 p.tval.toNat), sc := r (o + 16) 8 p.sc }
/-- NPEND. -/
def Reader.npend (r : Reader) (x : UnitSt) : Nat := Nat.min 16 (r 80 8 x.trap.pend.length % 32)
/-- NFLIGHT. -/
def Reader.nflight (r : Reader) (x : UnitSt) : Nat := Nat.min 512 (bitsOf (r 8 8 (x.seq.flights.length % 1024 * 2 ^ 8)) 8 10)
/-- The registers at the offsets common to both records. -/
def Reader.regs (r : Reader) (o : Regs) : Regs :=
  { o with p := r.vec 0x110 16 o.p, s := r.vec 0x1D0 8 o.s, a := r.aregs 0x3D0 o.a, cb := r.vec 0x7D0 8 o.cb, cq := r.vec 0x850 8 o.cq }
/-- The fixed part and the results in flight of a crown reloaded. -/
def Reader.crownFixed (r : Reader) (x : UnitSt) : UnitSt :=
  let h := fun i old => r (8 * i) 8 old
  { x with
    regs := { r.regs x.regs with v := r.vec 0xE80 512 x.regs.v },
    fp := { vctl := BitVec.ofNat 32 (h 3 x.fp.vctl.toNat) &&& vctlBits, gens := r.vec 0xC20 4 x.fp.gens },
    seq := { x.seq with pc := BitVec.ofNat 56 (h 0 x.seq.pc.toNat), rix := BitVec.ofNat 6 (bitsOf (h 10 (x.seq.rix.toNat * 2 ^ 8)) 8 6),
                        br := r.br x, loops := r.loops 0x80 x.seq.loops, sticky := r.sticky 0x950 x.seq.sticky,
                        flights := r.flights 0x22680 x.ck.scyc x.seq.nextId (r.nflight x) x.seq.flights, nextId := x.seq.nextId + 512 },
    seg := { x.seg with cnt := BitVec.ofNat 64 (h 4 x.seg.cnt.toNat), crc := BitVec.ofNat 32 (h 5 x.seg.crc.toNat) },
    bars := r.bars 0x990 x.bars,
    phase := { x.phase with on := (h 1 (if x.phase.on then 2 ^ 18 else 0)).testBit 18, restart := BitVec.ofNat 56 (h 7 x.phase.restart.toNat),
                            qmask := BitVec.ofNat 12 (h 8 x.phase.qmask.toNat) },
    cube := { r.cube x with scsel := BitVec.ofNat 2 (h 7 (x.cube.scsel.toNat * 2 ^ 56) / 2 ^ 56), scales := r.vec 0xA90 64 x.cube.scales },
    ck := { x.ck with ectr := BitVec.ofNat 64 (h 2 x.ck.ectr.toNat) &&& ectrBits, xlbase := BitVec.ofNat 64 (h 9 x.ck.xlbase.toNat) &&& xlBits } }
/-- The same of the brim core. -/
def Reader.brimFixed (r : Reader) (x : UnitSt) : UnitSt :=
  let h := fun i old => r (8 * i) 8 old
  { x with
    regs := r.regs x.regs,
    seq := { x.seq with pc := BitVec.ofNat 56 (h 0 x.seq.pc.toNat), loops := r.loops 0x80 x.seq.loops,
                        flights := r.flights 0x1A340 x.ck.scyc x.seq.nextId (r.nflight x) x.seq.flights, nextId := x.seq.nextId + 512 },
    seg := { x.seg with cnt := BitVec.ofNat 64 (h 4 x.seg.cnt.toNat), crc := BitVec.ofNat 32 (h 5 x.seg.crc.toNat) },
    bars := r.bars 0x950 x.bars,
    ck := { x.ck with ectr := BitVec.ofNat 64 (h 2 x.ck.ectr.toNat) &&& ectrBits, xlbase := BitVec.ofNat 64 (h 9 x.ck.xlbase.toNat) &&& xlBits } }
/-- Rows reloaded. -/
def Reader.rows (r : Reader) (base lo n : Nat) (m : List (Nat × VecVal)) : List (Nat × VecVal) :=
  (List.range n).foldl (fun m i => smSet 0 m (lo + i) (BitVec.ofNat 4096 (r (base + 512 * i) 512 (smGet 0 m (lo + i)).toNat))) m
/-- The granules of a range with the bytes and full/empty bits of a record, in place of those of a crown. -/
def Reader.face (r : Reader) (data bits : Nat) (old : Stores) (a n : Nat) (st : Stores) : Stores :=
  (List.range (n / 16)).foldl (fun st i =>
    modGran st (a / 16 + i) fun _ =>
      let g := smGet ({} : Gran) old.face (a / 16 + i)
      { g with data := BitVec.ofNat 128 (r (data + 16 * i) 16 g.data.toNat),
               full := (r (bits + i / 8) 1 (if g.full then 2 ^ (i % 8) else 0)).testBit (i % 8) }) st
/-- The PACKAGE or GANG command of a record: header, snapshot, state and next round. -/
def Reader.pkg (r : Reader) (old : Word) (p : PkgCmd) : PkgCmd :=
  let w := r 48 8 old.toNat
  let p := { p with hdr := BitVec.ofNat 64 (r 0xA50 8 p.hdr.toNat), cb := r.vec 0xA58 8 p.cb }
  if w = old.toNat || p.done then p else { p with u := w % 65536, stopped := decide (bitsOf w 62 2 = 2) }
/-- The phase snapshot reloaded. -/
def Reader.snap (r : Reader) (p : PhaseSnap) : PhaseSnap :=
  let r' : Reader := fun o n old => r (0x68000 + o) n old
  { loops := r'.loops 0x80 p.loops, p := r'.vec 0x110 16 p.p, s := r'.vec 0x1D0 8 p.s, a := r'.aregs 0x3D0 p.a, cb := r'.vec 0x7D0 8 p.cb,
    cq := r'.vec 0x850 8 p.cq, sticky := r'.sticky 0x950 p.sticky, scsel := BitVec.ofNat 2 (r' 0xA90 8 p.scsel.toNat), bars := r'.bars 0x990 p.bars,
    tl := p.tl }
/-- The whole record of a crown reloaded into what the model kept (`x`) and the stores that stand on the crown (`st`). -/
def Reader.crown (r : Reader) (x : UnitSt) (st : Stores) : UnitSt :=
  let at_ := x.tailAt
  let n := x.accn * 128
  let acc := if x.phase.on then r.rows (0x70000 + x.accn * 65536) 0 n x.st.acc else r.rows 0x70000 0 n x.st.acc
  let com := if x.phase.on then r.rows 0x70000 0 n x.st.committed else x.st.committed
  let w := x.west.2 - x.west.1
  let sn := x.south.2 - x.south.1
  let face := if x.flag2 20 then
      r.face (at_.2.1 + w) (at_.2.2 + w / 128) x.st (0x2000000 + x.south.1) sn (r.face at_.2.1 at_.2.2 x.st x.west.1 w st)
    else st
  let y := r.crownFixed x
  { y with
    es := r.engines 0xE20 0x8E80 y.es,
    trap := { y.trap with pend := r.pend (r.npend x) x.trap.pend },
    phase := { y.phase with snap := y.phase.snap.map r.snap },
    st := { face with acc := acc, committed := com, planes := if x.flag2 23 then r.rows at_.1 0 1024 x.st.planes else x.st.planes,
                      accPoison := x.st.accPoison, committedPoison := x.st.committedPoison, planePoison := x.st.planePoison } }
/-- The whole record of a brim context reloaded, but for its scratch and its PACKAGE or GANG command. -/
def Reader.brim (r : Reader) (x : UnitSt) : UnitSt :=
  let y := r.brimFixed x
  { y with es := r.engines 0xAE0 0xB40 y.es, trap := { y.trap with pend := r.pend (r.npend x) x.trap.pend } }

/-! ### The dump of a precise stop -/
/-- The regions of a dump: the fixed part and the results in flight (R346). -/
def State.dumpChunks (s : State) (u : UnitId) : List (Nat × List Byte) := if isBrim u then s.brimFixed else (s.unit u).crownFixed
/-- The writes of a dump by the trace channel of ce10 under RXL; those that do not translate are dropped, with one entry for each page
(R338, R442). -/
def State.dumpAll (s : State) (u : UnitId) : State :=
  let x := s.unit u
  (((s.dumpChunks u).flatMap fun c => pieces (x.stop.dumpva.toNat + c.1) c.2).foldl (fun (t : State × List Nat) p =>
    let w := t.1.engWrite1 u 10 x.obs.rxl p.1 p.2
    let page := p.1 % 2 ^ 56 / 65536
    if w.2 = 0 || t.2.contains page then (w.1, t.2) else (w.1.traceFault u p.1, page :: t.2)) (s, [])).1
/-- What RELOAD takes from a dump, as a resume takes the fixed part and the results in flight (R347, log 64). -/
def State.reloadDump (s : State) (u : UnitId) : State :=
  let x := s.unit u
  let r := s.reader u 10 x.obs.rxl x.stop.dumpva.toNat
  let old := s.pprog
  let s := s.modUnit u fun x =>
    let y := if isBrim u then r.brimFixed x else r.crownFixed x
    { y with es := r.progs (if isBrim u then 0xAE0 else 0xE20) y.es }
  if isBrim u then s.modDev fun d => { d with pkg := d.pkg.map (r.pkg old) } else s
/-- The unit goes on from a precise stop; latches keep their values (R347). -/
def UnitSt.goOn (x : UnitSt) : UnitSt := { x with stop := { x.stop with stopped := false, going := false } }
/-- GO: the unit resumes, after a reload if RELOAD = 1, which waits for the parts of the dump that other devices hold (R323, R329, R347). -/
def State.goUnit (s : State) (u : UnitId) (reload : Bool) : State :=
  let x := s.unit u
  if !x.stop.stopped || x.stop.going then s
  else
    let s := s.modUnit u fun x => { x with stop := { x.stop with reload := reload } }
    if !reload then s.modUnit u UnitSt.goOn
    else
      let s := s.noteReload u 10 x.obs.rxl x.stop.dumpva.toNat (s.dumpChunks u)
      if s.reloadOut u then s.modUnit u fun x => { x with stop := { x.stop with going := true } } else (s.reloadDump u).modUnit u UnitSt.goOn
/-- DUMP_COMPLETE: the dump goes to DUMPVA (R346); a GO that waits for parts of it takes effect when all have come. -/
def execDumpComplete (a : UnitArg) (s : State) : Host.Outcome State Fault Refusal :=
  let x := s.unit a.u
  .next (if !x.stop.stopped then s
    else if x.stop.going then (if s.reloadOut a.u then s else (s.reloadDump a.u).modUnit a.u UnitSt.goOn)
    else if x.stop.dumped then s
    else
      let h := s.endHeader a.u
      if !h.2 then h.1 else (h.1.dumpAll a.u).modUnit a.u fun x => { x with stop := { x.stop with dumped := true } })

end Sys2Proof.Machine
end

