-- ==== Sys2Proof/Machine/Sched.lean ====
section
/-! DEFINITION. The scheduler (12): eligibility and choice (R306), placement (R307, R310), dispatch (R88, R308), stop and
resume (R312–R315), the end of a context (R51, R309), kills (R377, R403, R463), the launch window (R305, R388, R389). -/
namespace Sys2Proof.Machine

/-! ### Records -/
/-- Width and height of a record's rectangle. -/
def recRect (tr : Vector Word 8) : Nat × Nat := (bitsOf (tr[2]).toNat 0 2 + 1, bitsOf (tr[2]).toNat 2 1 + 1)
/-- PRIO. -/
def recPrio (tr : Vector Word 8) : Nat := bitsOf (tr[2]).toNat 16 4
/-- SAVE_SP. -/
def recSave (tr : Vector Word 8) : Bool := (tr[2]).getLsbD 20
/-- The west and the south reservation, in 64 KiB units. -/
def recRes (tr : Vector Word 8) : (Nat × Nat) × (Nat × Nat) :=
  let w := (tr[3]).toNat
  ((bitsOf w 0 10, bitsOf w 0 10 + bitsOf w 10 10), (bitsOf w 20 10, bitsOf w 20 10 + bitsOf w 30 10))
/-- Two ranges share a unit. -/
def meet (a b : Nat × Nat) : Bool := max a.1 b.1 < min a.2 b.2
/-- The reservations of two records overlap. -/
def resMeet (a b : Vector Word 8) : Bool := meet (recRes a).1 (recRes b).1 || meet (recRes a).2 (recRes b).2

/-! ### Partitions and free crowns (R307, R332) -/
/-- The partition of a crown: the lowest-numbered enabled one that names it. -/
def Dev.partOfCrown (d : Dev) (k : Nat) : Option Nat :=
  (List.range 8).find? fun q => (d.part[Fin.ofNat 8 q]).getLsbD 20 && (d.part[Fin.ofNat 8 q]).getLsbD k
/-- A place that holds nothing for anyone but an entry: it is in the partition, in service and not held for another. -/
def State.openTo (s : State) (e : PoolEnt) (k : Nat) : Bool :=
  let x := s.unit (placeU k)
  x.status != .absent && !x.cfg.failed && !x.cfg.tripped && (k = 8 || s.dev.partOfCrown k == some (s.dev.sched.desc[e.pool]).part) &&
    !(s.dev.sched.heldRect.any fun h => h.1 = k && !(h.2.1 == e.pool && h.2.2 == e.ent)) &&
    !(s.dev.sched.ents.any fun f => (f.st == .stopped || f.st == .stopping) && !recSave f.tr && f.keep.contains k && !(f.pool == e.pool && f.ent == e.ent) && resMeet f.tr e.tr)
/-- A free place. -/
def State.freeFor (s : State) (e : PoolEnt) (k : Nat) : Bool :=
  s.openTo e k && (s.unit (placeU k)).status = .idle && (s.unit (placeU k)).ctx.isNone
/-- A place whose context may be stopped for an entry of an effective priority (R310). -/
def State.victim (s : State) (e : PoolEnt) (prio k : Nat) : Bool :=
  s.openTo e k && (match (s.unit (placeU k)).ctx with
    | some c => decide (recPrio c.tr < prio) && (recSave c.tr || !resMeet c.tr e.tr)
    | none => false)
/-- The places of a rectangle from its origin, row by row; none where it does not fit the grid. -/
def rectAt (w h : Nat) (x y : Int) : Option (List Nat) :=
  if 0 ≤ x && 0 ≤ y && x + w ≤ 4 && y + h ≤ 2 then
    some ((List.range (w * h)).map fun i => ((y + (i / w : Nat)) * 4 + x + (i % w : Nat)).toNat)
  else none
/-- The lists of places that an entry may take, in order (R48, R307). -/
def State.rects (s : State) (e : PoolEnt) : List (List Nat) :=
  let r := recRect e.tr
  if recBrim e.tr then [[8]]
  else if e.st == .stopped && !recSave e.tr then [e.keep]
  else if e.st == .posted && recFix e.tr then
    let b := if e.base < 8 then e.base
      else ((List.range 8).find? fun k => s.dev.partOfCrown k == some (s.dev.sched.desc[e.pool]).part).getD 0
    (rectAt r.1 r.2 ((b % 4 : Nat) + recPx e.tr) ((b / 4 : Nat) + recPy e.tr)).toList
  else (List.range 8).filterMap fun k => rectAt r.1 r.2 (k % 4 : Nat) (k / 4 : Nat)

/-! ### The choice (R306) -/
/-- The waits of a record are met. -/
def Dev.waitsMet (d : Dev) (tr : Vector Word 8) : Bool :=
  (recWaits tr).all fun w => decide (0 ≤ signedOf 32 ((d.counter w.1).toNat + 2 ^ 32 - w.2.toNat))
/-- An eligible entry of a partition. -/
def Dev.eligible (d : Dev) (q : Nat) (e : PoolEnt) : Bool :=
  (d.sched.desc[e.pool]).part == q && (e.st == .stopped || (e.st == .posted && d.waitsMet e.tr))
/-- The effective priority. -/
def Dev.effPrio (d : Dev) (e : PoolEnt) : Nat :=
  let a := bitsOf d.sched.ctl.toNat 1 15
  Nat.min 15 (recPrio e.tr + (if a = 0 then 0 else e.aged / a))
/-- An entry before another: higher effective priority, then older. -/
def Dev.firstOf (d : Dev) (e f : PoolEnt) : Bool := d.effPrio f < d.effPrio e || (d.effPrio e == d.effPrio f && e.order ≤ f.order)
/-- An entry put into the order of choice. -/
def insEnt (d : Dev) (e : PoolEnt) : List PoolEnt → List PoolEnt
  | [] => [e]
  | f :: t => if d.firstOf e f then e :: f :: t else f :: insEnt d e t
/-- The eligible entries of a partition in the order of choice. -/
def Dev.choice (d : Dev) (q : Nat) : List PoolEnt := (d.sched.ents.filter (d.eligible q)).foldl (fun l e => insEnt d e l) []
/-! ### Dispatch (R88, R92, R98, R103, R308) -/
/-- CPOS of a place of a rectangle. -/
def cposOf (tr : Vector Word 8) (dx dy : Nat) : BitVec 32 :=
  let r := recRect tr
  BitVec.ofNat 32 ((r.2 - 1) * 64 + (r.1 - 1) * 16 + dy % 2 * 4 + dx % 4)
/-- The registers at dispatch. -/
def Regs.fresh : Regs := { p := (Vector.replicate 12 0).set 0 (BitVec.allOnes 128) }
/-- Granules of a byte range emptied: zero bytes, empty, no poison. -/
def clearFace (m : List (Nat × Gran)) (r : Nat × Nat) : List (Nat × Gran) := m.filter fun g => !(decide (r.1 ≤ 16 * g.1) && decide (16 * g.1 < r.2))
/-- The stores of a crown at dispatch. -/
def UnitSt.freshStores (x : UnitSt) : Stores :=
  let n := x.accn * 128
  { x.st with face := clearFace (clearFace x.st.face x.west) (0x2000000 + x.south.1, 0x2000000 + x.south.2),
              acc := x.st.acc.filter (fun r => n ≤ r.1), committed := x.st.committed.filter (fun r => n ≤ r.1),
              accPoison := x.st.accPoison.filter fun w => n ≤ w / 128, committedPoison := x.st.committedPoison.filter fun w => n ≤ w / 128 }
/-- The scale latches at dispatch: 127 in every entry (R249). -/
def freshScales : Vector (BitVec 512) 4 := Vector.replicate 4 (BitVec.ofNat 512 ((2 ^ 512 - 1) / 255 * 127))
/-- The victim TLB when a reservation is taken: the entries in its lines are dropped (R144, R145). -/
def EngineSide.reclaim (e : EngineSide) (brimU : Bool) (tr : Vector Word 8) : List VEnt := e.victim.filter fun y => !resHolds brimU tr y.place
/-- A unit at the dispatch of a task. -/
def UnitSt.start (x : UnitSt) (brimU : Bool) (c : Ctx) (xl : Word) : UnitSt :=
  let y := { x with ctx := some c }
  { y with
    status := .running, regs := Regs.fresh, lat := {}, fp := {},
    seq := { pc := BitVec.ofNat 56 y.entryVa, nextId := x.seq.nextId }, trap := {}, seg := {},
    bars := Vector.replicate 32 {},
    es := { x.es with eng := x.es.eng.map Engine.fresh, victim := x.es.reclaim brimU c.tr, fetchMiss := none, sy := [], tlbiDone := false },
    st := y.freshStores, cube := { scales := freshScales }, phase := {},
    obs := { x.obs with begun := false, cclk := 0, cclkBase := true, arm := false },
    ck := { x.ck with preq := false, rprio := 0, reqClks := 0, ectr := 0, cpos := cposOf c.tr c.dx.toNat c.dy.toNat, xlbase := xl &&& xlBits },
    killCause := 0 }
/-- The copy of the argument block, of n bytes. -/
def argCopy (brimU : Bool) (x : UnitSt) (n : Nat) : QEnt :=
  pkgCpy 0 (BitVec.ofNat 64 (bitsOf (x.tw 1) 0 56)) (if brimU then BitVec.ofNat 64 (2 ^ 61 + x.west.1) else BitVec.ofNat 64 (2 ^ 60 + x.west.1))
    16 0 [(n / 16, 16, 16)] (some 31)
/-- A unit of a dispatched task begins: its record of source 9, barrier 31, and the argument copy. -/
def State.startUnit (s : State) (k : Nat) (c : Ctx) : State :=
  let u := placeU k
  let s := s.modUnit u fun x => x.start (isBrim u) c (s.dev.sched.desc[c.pool]).w0
  let s := if isBrim u then
      let x := s.unit u
      s.modDev fun d => { d with pkg := none, mem := { d.mem with
        cells := d.mem.cells.filter (fun b => !(decide (brimPa 0 + x.west.1 ≤ b.1) && decide (b.1 < brimPa 0 + x.west.2))),
        poison := d.mem.poison.filter fun b => !(decide (brimPa 0 + x.west.1 ≤ 64 * b) && decide (64 * b < brimPa 0 + x.west.2)) } }
    else s
  let s := s.trace u 9 false 0 (c.tr[2]) 0
  let n := bitsOf (c.tr[1]).toNat 56 8 * 16
  let s := s.setBar u 31 ((Barrier.init 1).arrive n)
  if n = 0 then s else s.modUnit u fun x => x.enqueue 0 (argCopy (isBrim u) x n)
/-- A task dispatched on places in raster order. -/
def State.dispatch (s : State) (e : PoolEnt) (ks : List Nat) : State :=
  let w := (recRect e.tr).1
  let org : Fin 8 := Fin.ofNat 8 (ks.headD 0)
  let s := s.modEnt e.pool e.ent fun x => { x with st := .resident, aged := 0, units := ks, left := ks, keep := [], saved := [] }
  let s := ks.zipIdx.foldl (fun s k =>
    s.startUnit k.1 { pool := e.pool, ent := e.ent, dx := BitVec.ofNat 2 (k.2 % w), dy := BitVec.ofNat 1 (k.2 / w), org := org, tr := e.tr }) s
  if recBrim e.tr && recGang e.tr then s.gangStart e.tr else s

/-! ### Resume (R48, R315, R347, R467) -/
/-- What a resumed unit takes from the context's saved state `y`, with what belongs to the unit itself. -/
def UnitSt.rejoin (x y : UnitSt) (brimU : Bool) (c : Ctx) (exited : Bool) : UnitSt :=
  let d := x.ck.scyc
  let one := fun (k : CubeCmd) => if isProduct k && k.next < k.limit then { k with crd := some (y.crdOf k) } else k
  { y with
    status := if exited then .exiting else .running, ctx := some c, lat := {},
    seq := { y.seq with nextId := max x.seq.nextId y.seq.nextId, held := none, stall := 0,
                        flights := y.seq.flights.map fun f => { f with due := f.due - y.ck.scyc + d } },
    trap := { pend := y.trap.pend, owed := y.trap.owed },
    es := { y.es with
      eng := Vector.ofFn fun e : Fin 12 =>
        let g := y.es.eng[e]
        { g with tlb := (x.es.eng[e]).tlb, walk := none, q := g.q.map fun q => { q with ready := 0 } },
      victim := x.es.reclaim brimU c.tr, icache := x.es.icache, fetchMiss := none, nextId := max x.es.nextId y.es.nextId },
    cube := { y.cube with cmds := y.cube.cmds.map one },
    cfg := x.cfg, stop := x.stop, pm := x.pm,
    obs := { x.obs with begun := false, cclk := 0, cclkBase := false, arm := false },
    ck := { x.ck with run := y.ck.stopAt + 1, ectr := y.ck.ectr, cpos := y.ck.cpos, xlbase := y.ck.xlbase },
    killCause := 0 }
/-- The record of a unit taken back into the state `y` that is kept beside it, and the unit goes on: nothing of it is awaited. -/
def State.takeBack (s : State) (u : UnitId) (c : Ctx) (y : UnitSt) (pkg : Option PkgCmd) : State :=
  let exited := y.status = .exiting
  let r : Reader := if exited then fun _ _ old => old else s.reader u 0 y.ck.xlbase (s.saveVa u)
  let x := s.unit u
  let s := s.setUnit u (x.rejoin (if exited then y else if isBrim u then r.brim y else r.crown y x.st) (isBrim u) c exited)
  let old := match pkg with | some p => p.prog | none => 0
  let s := if isBrim u then s.modDev fun d => { d with pkg := pkg.map (r.pkg old) } else s
  let s := if isBrim u && recSave c.tr && !exited then
      let a := (y.west.1, y.west.2 - y.west.1)
      s.modDev fun d => d.write (brimPa a.1) ((List.range a.2).map fun j => BitVec.ofNat 8 (r (0x70000 + j) 1 (d.byte (brimPa (a.1 + j))).toNat))
    else s
  s.trace u 9 false 0 (c.tr[2]) 2
/-- A unit of a resumed context goes on when every part of its record has come. -/
def State.finishReload (s : State) (u : UnitId) : State :=
  match (s.unit u).ctx with
  | none => s
  | some c =>
    match s.entOf c.pool c.ent with
    | none => s
    | some e =>
      let i := c.dy.toNat * (recRect c.tr).1 + c.dx.toNat
      match e.coming.find? fun p => p.1 = i with
      | none => s
      | some p =>
        (s.takeBack u c p.2 e.pkg).modEnt c.pool c.ent fun z =>
          { z with coming := z.coming.filter fun p => p.1 != i, pkg := if isBrim u then none else z.pkg }
/-- One unit of a resumed context: its record is read; the parts that other devices hold are awaited (R323, R329). -/
def State.resumeUnit (s : State) (e : PoolEnt) (k i w org : Nat) : State :=
  let u := placeU k
  match e.saved.find? fun p => p.1 = i with
  | none => s
  | some (_, y) =>
    let c : Ctx := { pool := e.pool, ent := e.ent, dx := BitVec.ofNat 2 (i % w), dy := BitVec.ofNat 1 (i / w), org := Fin.ofNat 8 org, tr := e.tr }
    let s := s.modUnit u fun x => { x with
      status := .reloading, ctx := some c, es := { x.es with victim := x.es.reclaim (isBrim u) c.tr }, ck := { x.ck with xlbase := y.ck.xlbase } }
    let s := s.modEnt e.pool e.ent fun z => { z with coming := z.coming ++ [(i, y)] }
    let chunks := if isBrim u then (({ s with dev := { s.dev with pkg := e.pkg } } : State).setUnit u y).brimRecord else y.crownRecord
    let s := if y.status = .exiting then s else s.noteReload u 0 y.ck.xlbase (s.saveVa u) chunks
    if s.reloadOut u then s else s.finishReload u
/-- A stopped context resumed on places in raster order. -/
def State.resume (s : State) (e : PoolEnt) (ks : List Nat) : State :=
  let w := (recRect e.tr).1
  let left := (ks.zipIdx.filter fun k => e.left.contains (e.keep.getD k.2 9)).map Prod.fst
  let s := ks.zipIdx.foldl (fun s k => s.resumeUnit e k.1 k.2 w (ks.headD 0)) s
  s.modEnt e.pool e.ent fun x => { x with st := .resident, aged := 0, units := ks, left := left, keep := [], saved := [] }

/-! ### A decision (R306, R310) -/
/-- PREQ raised on every place of the contexts that stand on a rectangle, which is held for the entry. -/
def State.preempt (s : State) (e : PoolEnt) (prio : Nat) (ks : List Nat) : State :=
  let cs := ks.filterMap fun k => (s.unit (placeU k)).ctx.map fun c => (c.pool, c.ent)
  let s := { s with units := s.units.map fun (x : UnitSt) =>
    match x.ctx with
    | some c => if cs.contains (c.pool, c.ent) && (x.status = UStatus.running || x.status = UStatus.reloading) then
        { x with ck := { x.ck with preq := true, rprio := BitVec.ofNat 4 prio } } else x
    | none => x }
  let s := cs.foldl (fun s c => s.modEnt c.1 c.2 fun x => { x with aged := 0 }) s
  s.modDev fun d => { d with sched := { d.sched with heldRect := d.sched.heldRect ++ ks.map fun k => (k, e.pool, e.ent) } }
/-- The entry holds a rectangle already. -/
def State.holding (s : State) (e : PoolEnt) : Bool := s.dev.sched.heldRect.any fun h => h.2.1 == e.pool && h.2.2 == e.ent
/-- The entries of a partition that the decision passes over grow older, and so do contexts that it has asked to stop. -/
def State.ageOthers (s : State) (q : Nat) (e : PoolEnt) : State :=
  let asked := fun (f : PoolEnt) => f.st == .stopping || (f.st == .resident && f.units.any fun k =>
    (s.unit (placeU k)).ck.preq || (s.unit (placeU k)).status = .saving || (s.unit (placeU k)).status = .stored)
  s.modDev fun d => { d with sched := { d.sched with ents := d.sched.ents.map fun f =>
    if !(f.pool == e.pool && f.ent == e.ent) && (d.eligible q f || ((d.sched.desc[f.pool]).part == q && asked f)) then { f with aged := f.aged + 1 } else f } }
/-- The entries tried in order: the first that can be placed is dispatched or resumed; one that cannot be placed asks
contexts of lower priority to stop, or is passed over. -/
def State.decide_ (s : State) (q : Nat) : List PoolEnt → State
  | [] => s
  | e :: t =>
    match (s.rects e).find? fun ks => !ks.isEmpty && ks.all (s.freeFor e) with
    | some ks =>
      let s := s.ageOthers q e
      let s := s.modDev fun d => { d with sched := { d.sched with heldRect := d.sched.heldRect.filter fun h => !(h.2.1 == e.pool && h.2.2 == e.ent) } }
      if e.st == .stopped then s.resume e ks else s.dispatch e ks
    | none =>
      if s.holding e then State.decide_ s q t
      else
        let p := s.dev.effPrio e
        match (s.rects e).find? fun ks => !ks.isEmpty && ks.all fun k => s.freeFor e k || s.victim e p k with
        | some ks => State.decide_ (s.preempt e p ks) q t
        | none => State.decide_ s q t
/-- DISPATCH_DECISION of a partition. -/
def execDispatchDecision (q : Fin 8) (s : State) : Host.Outcome State Fault Refusal :=
  .next (if s.dev.sched.ctl.getLsbD 0 then s.decide_ q.val (s.dev.choice q.val) else s)

/-! ### The launch window (R305, R388, R389) -/
/-- A write of word 7: discarded while the slot's post is pending. -/
def State.launchWord7 (s : State) (p : Fin 16) (v : Word) : State :=
  let sl := s.dev.sched.slots[p]
  if sl.pending then s
  else
    (s.modDev fun d => { d with sched := { d.sched with slots := d.sched.slots.set p { sl with w := sl.w.set 7 v, refused := false } } }).launch p
/-- LAUNCH_WORD7_WRITE. -/
def execLaunchWord7Write (a : Word7Arg) (s : State) : Host.Outcome State Fault Refusal := .next (s.launchWord7 a.p a.v)
/-- A write of a slot at a byte offset: one that is not an aligned 8-byte write changes nothing. -/
def State.slotWrite (s : State) (p : Fin 16) (off size : Nat) (v : Word) : State :=
  let sl := s.dev.sched.slots[p]
  if size != 8 || off % 8 != 0 || sl.pending then s
  else if off / 8 = 7 then s.launchWord7 p v
  else
    let i : Fin 8 := Fin.ofNat 8 (off / 8)
    s.modDev fun d => { d with sched := { d.sched with slots := d.sched.slots.set p { sl with w := sl.w.set i v } } }
/-- LAUNCH_SLOT_WRITE. -/
def execLaunchSlotWrite (a : SlotArg) (s : State) : Host.Outcome State Fault Refusal := .next (s.slotWrite a.p a.off.toNat a.size a.v)

/-! ### Stop (R46–R50, R312–R314, R436, R467) -/
/-- The cube of a stopping unit is at rest: nothing but products held at a later step is left. -/
def UnitSt.cubeRests (x : UnitSt) : Bool :=
  x.cube.cmds.all (fun k => isProduct k && k.second.isNone && decide (k.next < k.limit) && decide (x.ck.stopAt < k.readClk || k.crd.isSome)) &&
    x.cube.caps.isEmpty && x.cube.planes.isEmpty && x.cube.writes.isEmpty
/-- The engines of a unit stand at element boundaries, with everything written that they had collected; a unit of a CPYW that a fault
holds is not finished. -/
def UnitSt.atElements (x : UnitSt) : Bool :=
  x.es.eng.toList.all fun g => g.stage.isEmpty && g.q.all fun c => c.sent.isEmpty && (!c.midUnit || g.held)
/-- The engines of a stopping unit stand at element boundaries, with no entry that waits for replay. -/
def UnitSt.enginesRest (x : UnitSt) : Bool := x.atElements && x.es.eng.toList.all fun g => g.log.all fun l => l.gang
/-- Everything that a stopping unit has started is done (R47, R467). -/
def State.rests (s : State) (u : UnitId) : Bool :=
  let x := s.unit u
  x.cubeRests && x.enginesRest && x.seq.accs.isEmpty && !s.inFlight u
/-- The exit of a unit waits for nothing but the commit of its gang (R317). -/
def State.exitHeld (s : State) (u : UnitId) : Bool :=
  s.rests u && s.gangHeld u && (s.unit u).es.eng.toList.any fun g => !g.log.isEmpty
/-- Place index of a unit of an entry. -/
def PoolEnt.place (e : PoolEnt) (k : Nat) : Nat := e.units.findIdx fun j => j = k
/-- A unit's part of a context is kept already. -/
def PoolEnt.kept (e : PoolEnt) (k : Nat) : Bool := e.saved.any fun p => p.1 = e.place k
/-- A unit of a context that stops has come to rest, or has left the context: the save record of none is written before (R49). -/
def State.stopReady (s : State) (e : PoolEnt) (k : Nat) : Bool :=
  let u := placeU k
  e.kept k || (match (s.unit u).status with
    | .saving => s.rests u
    | .stored => true
    | .exiting => !e.left.contains k || s.exitHeld u
    | _ => false)
/-- A unit's state is kept with its context, and the unit is released; the last one that has a record makes the context a stopped one,
and the units that have exited are kept with it. -/
def State.keepUnit (s : State) (e : PoolEnt) (u : UnitId) : State :=
  let keep := fun (e : PoolEnt) (k : Nat) =>
    { e with
      saved := e.saved ++ [(e.place k, s.unit (placeU k))], keep := e.keep ++ [k], st := .stopping,
      pkg := if k = 8 then s.dev.pkg else e.pkg }
  let e' := keep e u.val
  let s := s.setUnit u (s.unit u).release
  let s := if isBrim u then s.modDev fun d => { d with pkg := none } else s
  let rest := e.units.filter fun k => !e'.kept k
  if rest.any fun k => (s.unit (placeU k)).status != .exiting then s.modEnt e.pool e.ent fun _ => e'
  else
    (rest.foldl (fun s k => s.setUnit (placeU k) (s.unit (placeU k)).release) s).modEnt e.pool e.ent fun _ =>
      { rest.foldl keep e' with st := .stopped, keep := e.units, units := [] }
/-- The save record of a unit. -/
def State.saveChunks (s : State) (u : UnitId) : List (Nat × List Byte) := if isBrim u then s.brimRecord else (s.unit u).crownRecord
/-- SAVE_RECORD_COMPLETE: when every unit of the context has come to rest, the record is written by engine 0 (R312, R436); when
every write of it has been performed, the unit is released. Of a record that is reloaded: when every part has come, the unit goes on
(R315). -/
def execSaveRecordComplete (a : UnitArg) (s : State) : Host.Outcome State Fault Refusal :=
  let u := a.u
  .next (match (s.unit u).ctx with
    | none => s
    | some c =>
      match s.entOf c.pool c.ent with
      | none => s
      | some e =>
        match (s.unit u).status with
        | .saving =>
          if !(e.units.all (s.stopReady e)) then s
          else
            let h := s.endHeader u
            if !h.2 then h.1
            else
              let s := h.1
              let r := s.saveAll u 0 (s.unit u).ck.xlbase (s.saveVa u) (s.saveChunks u)
              if r.2 != 0 then (r.1.sees u (r.2 = 0x30 || r.2 = 0x31)).killUnit u (BitVec.ofNat 8 r.2)
              else r.1.modUnit u fun x => { x with status := .stored }
        | .stored => if s.sideOut u then s else s.keepUnit e u
        | .reloading => if s.reloadOut u then s else s.finishReload u
        | _ => s)

/-! ### The end of a context (R51, R309) -/
/-- A unit whose EXIT has issued has completed everything (R51, R317). -/
def State.exitDone (s : State) (u : UnitId) : Bool :=
  let x := s.unit u
  x.seq.flights.isEmpty && x.seq.accs.isEmpty && x.cube.cmds.isEmpty && x.cube.deliv.isEmpty && x.cube.writes.isEmpty && x.es.sy.isEmpty &&
    (x.es.eng.toList.all fun g => g.q.isEmpty && g.log.isEmpty) && !s.inFlight u &&
    (match s.unitGang u with | some g => g.committed | none => true) &&
    (!isBrim u || (match s.dev.pkg with | some p => p.done | none => true))
/-- EXIT_COMPLETE: with the last unit the context ends; units that have been stored come back first. -/
def execExitComplete (a : UnitArg) (s : State) : Host.Outcome State Fault Refusal :=
  let x := s.unit a.u
  .next (match x.status, x.ctx with
    | .exiting, some c =>
      match s.entOf c.pool c.ent with
      | none => s
      | some e =>
        if !s.exitDone a.u || !e.left.contains a.u.val then s
        else
          let left := e.left.filter fun k => k != a.u.val
          let s := s.modEnt c.pool c.ent fun y => { y with left := left }
          if left.isEmpty then s.endContext c.pool c.ent true else s
    | _, _ => s)

/-! ### Kills (R377, R403, R463) -/
/-- The cube of a killed unit has come to its step boundary, and its engines are idle. -/
def State.killRests (s : State) (u : UnitId) : Bool :=
  let x := s.unit u
  (x.cube.cmds.all fun k => k.second.isNone && (k.done || decide (k.limit ≤ k.next))) && x.cube.caps.isEmpty && x.cube.planes.isEmpty &&
    x.cube.writes.isEmpty && x.seq.accs.isEmpty && x.atElements && !s.inFlight u
/-- KILL_END: when the engines of every unit of the context are idle, the entries are written and the context ends, and with it the
stopped tasks that it drove. -/
def execKillEnd (a : UnitArg) (s : State) : Host.Outcome State Fault Refusal :=
  let x := s.unit a.u
  .next (match x.status, x.ctx with
    | .killed, some c =>
      match s.entOf c.pool c.ent with
      | none => s
      | some e =>
        let us := ((s.holders e).filter fun h => !h.2.1).map Prod.fst
        if !(us.all s.killRests) then s
        else
          let kids := s.dev.sched.ents.filter fun y => y.st == .ended && y.brimOf == some (e.pool, e.ent)
          let s := us.foldl State.gangKilled s
          let s := kids.foldl (fun s y => s.killedEnd y x.killCause) s
          match s.entOf c.pool c.ent with
          | some e => s.killedEnd e x.killCause
          | none => s
    | _, _ => s)
/-- WATCHDOG (R378, R422, R436). -/
def execWatchdog (a : UnitArg) (s : State) : Host.Outcome State Fault Refusal :=
  let x := s.unit a.u
  let waits := (x.status = .running && x.ck.preq) || (x.status = .saving && !x.enginesRest)
  .next (if waits && x.imax + 2048 ≤ x.ck.reqClks then s.killUnit a.u 0x61 else s)
/-- STATIC_CHARGE (R320). -/
def execStaticCharge (a : UnitArg) (s : State) : Host.Outcome State Fault Refusal :=
  let x := s.unit a.u
  let f := if isBrim a.u then 0 else (s.dev.pow.mhz[Fin.ofNat 8 a.u.val]).toNat
  let c := 4096 * bitsOf s.dev.sched.ctl.toNat 16 32 * 1000 / f
  .next (if x.ctx.isSome && x.ck.clk % 4096 = 0 && f != 0 then
    s.modUnit a.u fun x => { x with ck := { x.ck with ectr := addEnergy x.ck.ectr c } } else s)

end Sys2Proof.Machine
end

