-- ==== Sys2Proof/Machine/Obs.lean ====
section
/-! DEFINITION. The rows that write a register of a unit from outside a bundle, and the rotation of the counter sets
(R67, R151, R310, R343, R346–R348, R443). -/
namespace Sys2Proof.Machine

/-- VSEED_WRITE: the brim core has no lane generators. -/
def execVseedWrite (a : UnitWriteArg) (s : State) : Host.Outcome State Fault Refusal :=
  .next (if isBrim a.u then s else s.modUnit a.u fun x => { x with fp := x.fp.reseed (a.v.setWidth 32) })
/-- PREQ_WRITE. -/
def execPreqWrite (a : PreqArg) (s : State) : Host.Outcome State Fault Refusal :=
  .next (s.modUnit a.u fun x => { x with ck := x.ck.writePreq a.req })
/-- A precise stop requested: it takes effect at the next instance, or in the stall clock of a wait (R346). -/
def UnitSt.requestStop (x : UnitSt) : UnitSt := { x with stop := { x.stop with stopReq := x.stop.stopReq || !x.stop.stopped } }
/-- STOPCTL_STOP. -/
def execStopctlStop (a : UnitArg) (s : State) : Host.Outcome State Fault Refusal := .next (s.modUnit a.u UnitSt.requestStop)
/-- STOPCTL_GO. -/
def execStopctlGo (a : GoArg) (s : State) : Host.Outcome State Fault Refusal := .next (s.goUnit a.u a.reload)
/-- INJHDR_WRITE: the brim core has no cube. -/
def execInjhdrWrite (a : UnitWriteArg) (s : State) : Host.Outcome State Fault Refusal :=
  .next (if isBrim a.u then s.modUnit a.u fun x => { x with stop := { x.stop with injStatus := true } } else s.modUnit a.u fun x => x.injWrite a.v)
/-- The activation counters of an HBM controller cleared. -/
def Health.clearCounts (h : Health) (c : Fin 16) : Health :=
  { h with banks := h.banks.map fun b => if b.key / 1024 = c.val then b.clear else b }
/-- MHCFG[c] written (Table 20.3). -/
def Dev.writeMhcfg (d : Dev) (c : Fin 16) (v : Word) : Dev :=
  let m := { d.hl.hbm[c] with sridle := fld v 32 16, mth := BitVec.ofNat 16 (Nat.min (Nat.max (bitsOf v.toNat 0 16) 64) 32768) }
  { d with hl := ({ d.hl with hbm := d.hl.hbm.set c m } : Health).clearCounts c }
/-- MHCFG_WRITE. -/
def execMhcfgWrite (a : MhcfgArg) (s : State) : Host.Outcome State Fault Refusal := .next (s.modDev fun d => d.writeMhcfg a.c a.v)
/-- PMCTL, PMPER or PMSEL[n] written. -/
def PmRegs.write (p : PmRegs) (reg : Fin 18) (v : Word) : PmRegs :=
  if reg = 0 then p.writeCtl v else if reg = 1 then p.writePer v else p.writeSel (Fin.ofNat 16 (reg.val - 2)) v
/-- PMCTL_WRITE. -/
def execPmctlWrite (a : PmArg) (s : State) : Host.Outcome State Fault Refusal := .next (s.modUnit a.u fun x => { x with pm := x.pm.write a.reg a.v })
/-- CARDCTL_WRITE. -/
def execCardctlWrite (v : Word) (s : State) : Host.Outcome State Fault Refusal := .next (s.modDev fun d => d.writeCardctl v)
/-- COUNTER_SET_ROTATE, at every unit whose period has passed. -/
def execCounterSetRotate (s : State) : Host.Outcome State Fault Refusal :=
  .next { s with units := s.units.map fun (x : UnitSt) => if x.pm.rotateDue then { x with pm := x.pm.rotate } else x }

end Sys2Proof.Machine
end

