-- ==== Sys2Proof/Machine/Attest.lean ====
section
/-! DEFINITION. Measurement and attestation (R355–R358): SM2 on the curve sm2p256v1, the mailbox commands, ATTEST messages, and the
signing of reports. -/
namespace Sys2Proof.Machine

/-! ### SM2 (R356, R357). The spec names the algorithm; the curve and its steps are those of GB/T 32918 (log 65). -/
/-- The field prime. -/
def sm2P : Nat := 0xFFFFFFFEFFFFFFFFFFFFFFFFFFFFFFFFFFFFFFFF00000000FFFFFFFFFFFFFFFF
/-- The coefficients of the curve. -/
def sm2A : Nat := sm2P - 3
/-- The constant term of the curve. -/
def sm2B : Nat := 0x28E9FA9E9D9F5E344D5A9E4BCF6509A7F39789F515AB8F92DDBCBD414D940E93
/-- The order of the base point. -/
def sm2N : Nat := 0xFFFFFFFEFFFFFFFFFFFFFFFFFFFFFFFF7203DF6B21C6052B53BBF40939D54123
/-- The base point. -/
def sm2G : Nat × Nat :=
  (0x32C4AE2C1F1981195F9904466A39C9948FE30BBFF2660BE1715A4589334C74C7, 0xBC3736A2F4F6779C59BDCEE36B692153D0A9877CC62A474002DF32E52139F0A0)
/-- A power modulo m of a 256-bit exponent. -/
def powMod (m b e : Nat) : Nat :=
  (List.range 256).foldl (fun r i => let q := r * r % m; if e.testBit (255 - i) then q * b % m else q) 1
/-- The inverse modulo a prime. -/
def invMod (m b : Nat) : Nat := powMod m (b % m) (m - 2)
/-- The sum of two points of the curve; `none` is the point at infinity. -/
def sm2Add : Option (Nat × Nat) → Option (Nat × Nat) → Option (Nat × Nat)
  | none, q => q
  | p, none => p
  | some p, some q =>
    if p.1 = q.1 && (p.2 + q.2) % sm2P = 0 then none
    else
      let l := if p == q then (3 * p.1 * p.1 + sm2A) * invMod sm2P (2 * p.2) % sm2P
        else (q.2 + sm2P - p.2) * invMod sm2P (q.1 + sm2P - p.1) % sm2P
      let x := (l * l + 2 * sm2P - p.1 - q.1) % sm2P
      some (x, (l * (p.1 + sm2P - x) + sm2P - p.2) % sm2P)
/-- A multiple of the base point. -/
def sm2Mul (k : Nat) : Nat × Nat :=
  ((List.range 256).foldl (fun r i => let d := sm2Add r r; if k.testBit (255 - i) then sm2Add d (some sm2G) else d) none).getD (0, 0)
/-- A number as 32 bytes, the highest first. -/
def be32 (n : Nat) : List Byte := (leBytes 32 n).reverse
/-- The number of a byte string, the highest byte first. -/
def beNat (l : List Byte) : Nat := leNat l.reverse
/-- The private key d, 1 to n − 2. -/
def sm2Priv : Nat := 1 + Config.idPriv % (sm2N - 2)
/-- IDPUB: x in the low half, y in the high half (R356). -/
def idPub : BitVec 512 := let q := sm2Mul sm2Priv; BitVec.ofNat 512 (q.1 + q.2 * 2 ^ 256)
/-- The user identity of R357. -/
def sm2Id : List Byte := "LEREANOV-CEZONTO".toList.map fun c => BitVec.ofNat 8 c.toNat
/-- The hash e of a message, after that of the user identity, the curve and the public key. -/
def sm2Hash (msg : List Byte) : Nat :=
  let q := sm2Mul sm2Priv
  let z := sm3 (([0, 128] : List Byte) ++ sm2Id ++ be32 sm2A ++ be32 sm2B ++ be32 sm2G.1 ++ be32 sm2G.2 ++ be32 q.1 ++ be32 q.2)
  beNat (sm3 (z ++ msg))
/-- The signature of a hash with the random number k, or `none` where SM2 takes another k. -/
def sm2Try (e k : Nat) : Option (Nat × Nat) :=
  let k := 1 + k % (sm2N - 1)
  let r := (e + (sm2Mul k).1) % sm2N
  let s := invMod sm2N (1 + sm2Priv) * (k + (sm2N - r * sm2Priv % sm2N)) % sm2N
  if r = 0 || r + k = sm2N || s = 0 then none else some (r, s)
/-- THE SIGNATURE of a report, r then s, each as a number in the byte order of R4; `n` is the number of the signature. Of the random
numbers the first that SM2 accepts among 64 is taken. -/
def signReport (n : Nat) (msg : List Byte) : List Byte :=
  let rs := ((List.range 64).findSome? fun i => sm2Try (sm2Hash msg) (Config.sigNonce n i)).getD (0, 0)
  leBytes 32 rs.1 ++ leBytes 32 rs.2

/-- Bytes 0 to 0x1BF of a report (Table 15.5). -/
def State.reportBytes (s : State) (nonce : BitVec 256) : List Byte :=
  let d := s.dev
  leBytes 8 (1 + d.myid.toNat * 2 ^ 16 + d.surv * 2 ^ 32) ++ leBytes 32 nonce.toNat ++ (d.att.meas.toList.flatMap fun m => leBytes 32 m.toNat) ++
    ((List.range 8).flatMap fun k => leBytes 8 (if d.surv.testBit k then (s.unit (crownUnit k)).cfg.bmap.toNat else 0)) ++
    leBytes 8 d.hbmcfg.toNat ++ (d.part.toList.flatMap fun w => leBytes 8 w.toNat) ++ leBytes 16 Config.fwVersion.toNat
/-- The oldest request begins signing when none is being signed; the report takes its values now (R358). -/
def State.signNext (s : State) : State :=
  match s.dev.att.signing, s.dev.att.queue with
  | none, r :: t => s.modDev fun d => { d with att := { d.att with queue := t, signing := some (r.1, r.2, s.reportBytes r.2) } }
  | _, _ => s
/-- Requests that the device holds. -/
def Attest.held (a : Attest) : Nat := a.queue.length + (if a.signing.isSome then 1 else 0)
/-- A request for a report from the mailbox (`none`) or from a peer: a seventeenth is answered with BUSY (R357). -/
def State.attestReq (s : State) (src : Option (BitVec 14)) (nonce : BitVec 256) : State :=
  if 16 ≤ s.dev.att.held then
    match src with
    | none => s.modDev fun d => { d with att := { d.att with status := 3 } }
    | some m => s.send (.report (some m) true [])
  else
    (s.modDev fun d => { d with att := { d.att with
      queue := d.att.queue ++ [(src, nonce)], status := if src.isNone then 1 else d.att.status } }).signNext
/-- REPORT. -/
def execReport (s : State) : Host.Outcome State Fault Refusal := .next (s.attestReq none s.dev.att.data)
/-- ATTEST. -/
def execAttest (a : AttestArg) (s : State) : Host.Outcome State Fault Refusal := .next (s.attestReq (some a.src) a.nonce)
/-- A measurement register extended with a digest (R355). -/
def measExtend (m d : BitVec 256) : BitVec 256 := BitVec.ofNat 256 (leNat (sm3 (leBytes 32 m.toNat ++ leBytes 32 d.toNat)))
/-- MEAS[i] extended. -/
def Attest.extend (a : Attest) (i : Fin 8) (d : BitVec 256) : Attest := { a with meas := a.meas.set i (measExtend a.meas[i] d) }
/-- A mailbox request for a report is held. -/
def Attest.mailBusy (a : Attest) : Bool := (a.queue.any fun r => r.1.isNone) || (match a.signing with | some (none, _) => true | _ => false)
/-- Mailbox command EXTEND; ARG above 2 extends nothing (Table 15.6). -/
def Attest.cmdExtend (a : Attest) : Attest :=
  if 2 < a.arg.toNat then { a with status := 5 }
  else { a.extend (Fin.ofNat 8 (5 + a.arg.toNat)) a.data with status := if a.mailBusy then 1 else 2 }
/-- EXTEND. -/
def execExtend (s : State) : Host.Outcome State Fault Refusal := .next (s.modDev fun d => { d with att := d.att.cmdExtend })
/-- ATTESTATION_REPORT_SIGNED: the report is returned, and the next request starts signing. -/
def execAttestationReportSigned (s : State) : Host.Outcome State Fault Refusal :=
  .next (match s.dev.att.signing with
    | none => s
    | some (src, _, bs) =>
      let rep := bs ++ signReport s.free bs
      let s := { s with free := s.free + 1 }.modDev fun d => { d with att := { d.att with signing := none } }
      (match src with
        | none => s.modDev fun d => { d with att := { d.att with report := rep, status := 2 } }
        | some m => s.send (.report (some m) false rep)).signNext)

end Sys2Proof.Machine
end

