-- ==== Sys2Proof/Machine/HostIf.lean ====
section
/-! DEFINITION. The host link (R305, R321, R322): the registers of BAR0 (Tables 12.2, 12.7, 12.8, 13.2–13.5, 15.6, 19.1,
20.3–20.5, 21.2–21.6), revocation of windows (R333), and HDM reads and writes. -/
namespace Sys2Proof.Machine

/-! ### Windows, ports and groups -/
/-- A window entry. -/
def Dev.win (d : Dev) (i : Nat) : Win := smGet {} d.fab.wins i
/-- A window entry replaced. -/
def Dev.setWin (d : Dev) (i : Nat) (w : Win) : Dev := { d with fab := { d.fab with wins := smSet {} d.fab.wins i w } }
/-- A write of V or KEY of a window: the requests that it has accepted and not answered now hold DRAIN (R333). -/
def Dev.markDrain (d : Dev) (i : Nat) : Dev :=
  let l := d.fab.unanswered.map fun (r : FabReq × Bool × Nat) => if r.1.rwin.toNat = i then (r.1, true, r.2.2) else r
  { d with fab := { d.fab with unanswered := l } }
/-- DRAIN of a window. -/
def Dev.drain (d : Dev) (i : Nat) : Bool := d.fab.unanswered.any fun r => r.2.1 && r.1.rwin.toNat = i
/-- Word n of WIN[i] written. -/
def Dev.writeWin (d : Dev) (i n : Nat) (v : Word) : Dev :=
  let w := d.win i
  match n with
  | 0 => (d.setWin i { w with w0 := v &&& 0x00003FFFFFFFFFFF#64 }).markDrain i
  | 1 => (d.setWin i { w with key := v }).markDrain i
  | 2 => d.setWin i { w with w2 := v &&& 0x000FFFFFFFFF0000#64 }
  | _ => d.setWin i { w with w3 := v &&& 0x00000000FFFFFFFF#64 }
/-- WINDOW_REVOKE: V, and a new KEY, of a window. -/
def execWindowRevoke (a : RevokeArg) (s : State) : Host.Outcome State Fault Refusal :=
  .next (s.modDev fun d =>
    let w := d.win a.i.toNat
    let d := d.writeWin a.i.toNat 0 (if a.v then w.w0 ||| 1#64 else w.w0 &&& ~~~(1#64))
    match a.key with
    | some k => d.writeWin a.i.toNat 1 k
    | none => d)
/-- FPSTAT[j] (Table 21.6). -/
def FPort.csr (p : FPort) : Word :=
  BitVec.ofNat 64 ((if p.up then 2 ^ 63 else 0) + (if p.storm then 2 ^ 62 else 0) + p.storms.toNat * 2 ^ 32 + p.retries.toNat)
/-- A port replaced. -/
def Dev.setPort (d : Dev) (j : Fin 24) (p : FPort) : Dev := { d with fab := { d.fab with ports := d.fab.ports.set j p } }
/-- RETRAIN written: a down port starts to retrain (R455). -/
def FPort.retrain (p : FPort) (w : Bool) : FPort := if w && !p.up then { p with retraining := true } else p
/-- FPSTAT_RETRAIN. -/
def execFpstatRetrain (a : PortArg) (s : State) : Host.Outcome State Fault Refusal :=
  .next (s.modDev fun d => d.setPort a.j ((d.fab.ports[a.j]).retrain a.ok))
/-- An all-reduce group's registers. -/
def Dev.grp (d : Dev) (g : Nat) : ArGrp := smGet {} d.fab.grps g
/-- An all-reduce group replaced. -/
def Dev.setGrp (d : Dev) (g : Nat) (x : ArGrp) : Dev := { d with fab := { d.fab with grps := smSet {} d.fab.grps g x } }
/-- A half of FABTIME or FABRETRY in which 0 is stored as 1. -/
def nonZero (n : Nat) : Nat := if n = 0 then 1 else n

/-! ### Writes -/
/-- A word of the pool descriptors written. -/
def State.writePool (s : State) (p : Fin 16) (n : Nat) (v : Word) : State :=
  let x := s.dev.sched.desc[p]
  let y : PoolDesc := match n with
    | 0 => { x with w0 := v }
    | 1 => { x with w1 := v &&& 0x0001FFFFFFFFFFFF#64 }
    | 2 => { x with w2 := v }
    | _ => { x with w3 := v &&& 0x00FFFFFFFFFFFFFF#64 }
  s.modDev fun d => { d with sched := { d.sched with desc := d.sched.desc.set p y } }
/-- A word of MOTHCFG[q] written (Table 19.1). -/
def Moth.write (m : Moth) (n : Nat) (v : Word) : Moth :=
  match n with
  | 0 => { m with base := v &&& 0x000FFFFFFFFFFFFF#64 }
  | 1 => { m with tail := fld v 32 32 }
  | _ => m
/-- MHSTAT: ALERT clears on 1. -/
def MemCtl.write1 (m : MemCtl) (v : Word) : MemCtl := if v.getLsbD 63 then { m with alert := false } else m
/-- A register of the scheduler block written. -/
def State.schedWrite (s : State) (o : Nat) (v : Word) : State :=
  if o = 0 then s.modDev fun d => { d with sched := { d.sched with ctl := v &&& 0x0000FFFFFFFFFFFF#64 } }
  else if 0x100 ≤ o ∧ o < 0x300 then s.writePool (Fin.ofNat 16 ((o - 0x100) / 32)) ((o - 0x100) / 8 % 4) v
  else if 0x400 ≤ o ∧ o < 0x480 then
    s.modDev fun d => { d with sched := { d.sched with weight := d.sched.weight.set (Fin.ofNat 16 ((o - 0x400) / 8)) (v.setWidth 32) } }
  else if 0x800 ≤ o ∧ o < 0x900 then
    let q : Fin 8 := Fin.ofNat 8 ((o - 0x800) / 32)
    s.modDev fun d => { d with moth := d.moth.set q ((d.moth[q]).write ((o - 0x800) / 8 % 4) v) }
  else if 0x1000 ≤ o ∧ o < 0x1400 then s.slotWrite (Fin.ofNat 16 ((o - 0x1000) / 64)) ((o - 0x1000) % 64) 8 v
  else if 0x20000 ≤ o ∧ o < 0x20200 then
    let c : Fin 16 := Fin.ofNat 16 ((o - 0x20000) / 32)
    match (o - 0x20000) / 8 % 4 with
    | 0 => s.modDev fun d => d.writeMhcfg c v
    | 1 => s.modDev fun d => { d with hl := { d.hl with hbm := d.hl.hbm.set c ((d.hl.hbm[c]).write1 v) } }
    | _ => s
  else s
/-- A register of the fabric block written. -/
def Dev.fabWrite (d : Dev) (o : Nat) (v : Word) : Dev :=
  if o = 0 then { d with fab := { d.fab with cfg := v &&& 0x0000FFFFFF003FFF#64 } }
  else if o = 8 then
    { d with fab := { d.fab with time := BitVec.ofNat 64 (nonZero (bitsOf v.toNat 32 32) * 2 ^ 32 + nonZero (bitsOf v.toNat 0 32)) } }
  else if o = 0x10 then
    { d with fab := { d.fab with retry := BitVec.ofNat 64 (nonZero (bitsOf v.toNat 32 16) * 2 ^ 32 + nonZero (bitsOf v.toNat 0 32)) } }
  else if 0x100 ≤ o ∧ o < 0x1C0 then
    let j : Fin 24 := Fin.ofNat 24 ((o - 0x100) / 8)
    let p := (d.fab.ports[j]).retrain (v.getLsbD 61)
    d.setPort j (if v.getLsbD 62 then { p with storm := false } else p)
  else if 0x10000 ≤ o ∧ o < 0x30000 then d.writeWin ((o - 0x10000) / 32) ((o - 0x10000) / 8 % 4) v
  else if 0x40000 ≤ o ∧ o < 0x40400 then
    let g := (o - 0x40000) / 16
    let x := d.grp g
    d.setGrp g (if o % 16 = 0 then { x with w0 := v &&& 0x7FFFFFFFFFFFFFFF#64 } else { x with w1 := v &&& 0x0000FFFFFFFFFFFF#64 })
  else d
/-- A register of the attestation mailbox written (Table 15.6). -/
def State.mailWrite (s : State) (o : Nat) (v : Word) : State :=
  if o = 0 then
    match bitsOf v.toNat 0 4 with
    | 1 => s.attestReq none s.dev.att.data
    | 2 => s.modDev fun d => { d with att := d.att.cmdExtend }
    | _ => s
  else if o = 8 then s.modDev fun d => { d with att := { d.att with arg := v } }
  else if 0x20 ≤ o ∧ o < 0x40 then
    s.modDev fun d => { d with att := { d.att with data := BitVec.ofNat 256 (setBits d.att.data.toNat (64 * ((o - 0x20) / 8)) 64 v.toNat) } }
  else s
/-- An aligned 8-byte write of a register of BAR0; an offset that names none changes nothing. -/
def State.barWrite (s : State) (o : Nat) (v : Word) : State :=
  if o % 8 != 0 then s
  else if o < 0x100000 then s.schedWrite o v
  else if o < 0x180000 then s.modDev fun d => d.fabWrite (o - 0x100000) v
  else if o < 0x180040 then s.modDev fun d => { d with part := d.part.set (Fin.ofNat 8 ((o - 0x180000) / 8)) (v &&& 0x1FFFFF#64) }
  else if 0x1C0000 ≤ o then s.mailWrite (o - 0x1C0000) v
  else s
/-- REGISTER_WRITE. -/
def execRegisterWrite (a : BarWriteArg) (s : State) : Host.Outcome State Fault Refusal := .next (s.barWrite a.off.toNat a.v)

/-! ### Reads -/
/-- MHCFG (Table 20.3). -/
def MemCtl.cfg (m : MemCtl) : Word := BitVec.ofNat 64 (m.sridle.toNat * 2 ^ 32 + m.mth.toNat)
/-- MHSTAT, LPSTAT or CXSTAT (Table 20.4). -/
def MemCtl.stat (m : MemCtl) : Word :=
  BitVec.ofNat 64 ((if m.alert then 2 ^ 63 else 0) + m.nrfm.toNat * 2 ^ 32 + m.ce.toNat * 2 ^ 16 + m.ue.toNat)
/-- The counts of a status register cleared by a read. -/
def MemCtl.clear (m : MemCtl) : MemCtl := { m with nrfm := 0, ce := 0, ue := 0 }
/-- Word n of a launch slot as the host reads it (R305, R388). -/
def LaunchSlot.read (l : LaunchSlot) (n : Fin 8) : Word :=
  if n = 7 then BitVec.ofNat 64 ((if l.pending then 1 else 0) + (if l.refused then 2 else 0)) else l.w[n]
/-- A word of a pool descriptor. -/
def PoolDesc.word (p : PoolDesc) (n : Nat) : Word :=
  match n with
  | 0 => p.w0
  | 1 => p.w1
  | 2 => p.w2
  | _ => p.w3
/-- A word of MOTHCFG. -/
def Moth.word (m : Moth) (n : Nat) : Word :=
  match n with
  | 0 => m.base
  | 1 => m.tail ++ m.head
  | 2 => m.lost.setWidth 64
  | _ => 0
/-- A register of the scheduler block. -/
def Dev.schedRead (d : Dev) (o : Nat) : Word :=
  if o = 0 then d.sched.ctl
  else if 0x100 ≤ o ∧ o < 0x300 then (d.sched.desc[Fin.ofNat 16 ((o - 0x100) / 32)]).word ((o - 0x100) / 8 % 4)
  else if 0x400 ≤ o ∧ o < 0x480 then (d.sched.weight[Fin.ofNat 16 ((o - 0x400) / 8)]).setWidth 64
  else if 0x800 ≤ o ∧ o < 0x900 then (d.moth[Fin.ofNat 8 ((o - 0x800) / 32)]).word ((o - 0x800) / 8 % 4)
  else if 0x1000 ≤ o ∧ o < 0x1400 then (d.sched.slots[Fin.ofNat 16 ((o - 0x1000) / 64)]).read (Fin.ofNat 8 ((o - 0x1000) / 8 % 8))
  else if 0x20000 ≤ o ∧ o < 0x20200 then
    let m := d.hl.hbm[Fin.ofNat 16 ((o - 0x20000) / 32)]
    match (o - 0x20000) / 8 % 4 with
    | 0 => m.cfg
    | 1 => m.stat
    | 2 => m.last
    | _ => 0
  else if 0x20400 ≤ o ∧ o < 0x20440 then (d.hl.lp[Fin.ofNat 8 ((o - 0x20400) / 8)]).stat
  else if 0x20600 ≤ o ∧ o < 0x20620 then (d.hl.cxl[Fin.ofNat 4 ((o - 0x20600) / 8)]).stat
  else 0
/-- A word of WIN[i]; KEY reads zero on every path (R327, R328). -/
def Dev.winRead (d : Dev) (i n : Nat) : Word :=
  match n with
  | 0 => (d.win i).w0 ||| (if d.drain i then 1#64 <<< 63 else 0)
  | 1 => 0
  | 2 => (d.win i).w2
  | _ => (d.win i).w3
/-- A register of the fabric block. -/
def Dev.fabRead (d : Dev) (o : Nat) : Word :=
  if o = 0 then d.fab.cfg
  else if o = 8 then d.fab.time
  else if o = 0x10 then d.fab.retry
  else if 0x100 ≤ o ∧ o < 0x1C0 then (d.fab.ports[Fin.ofNat 24 ((o - 0x100) / 8)]).csr
  else if 0x10000 ≤ o ∧ o < 0x30000 then d.winRead ((o - 0x10000) / 32) ((o - 0x10000) / 8 % 4)
  else if 0x40000 ≤ o ∧ o < 0x40400 then (if o % 16 = 0 then (d.grp ((o - 0x40000) / 16)).w0 else (d.grp ((o - 0x40000) / 16)).w1)
  else if 0x50000 ≤ o ∧ o < 0x58000 then smGet 0 d.fab.werr ((o - 0x50000) / 8)
  else 0
/-- A register of the attestation mailbox. -/
def Dev.mailRead (d : Dev) (o : Nat) : Word :=
  if o = 0 then BitVec.ofNat 64 (d.att.status.toNat * 16)
  else if o = 8 then d.att.arg
  else if 0x20 ≤ o ∧ o < 0x40 then d.att.data.extractLsb' (64 * ((o - 0x20) / 8)) 64
  else if 0x100 ≤ o ∧ o < 0x300 then BitVec.ofNat 64 (leNat ((d.att.report.drop (o - 0x100)).take 8))
  else 0
/-- A register of BAR0; an offset that names none reads zero. -/
def Dev.barRead (d : Dev) (o : Nat) : Word :=
  if o % 8 != 0 then 0
  else if o < 0x100000 then d.schedRead o
  else if o < 0x180000 then d.fabRead (o - 0x100000)
  else if o < 0x180040 then d.part[Fin.ofNat 8 ((o - 0x180000) / 8)]
  else if 0x1C0000 ≤ o then d.mailRead (o - 0x1C0000)
  else 0
/-- What a read of an RC field clears. -/
def Dev.barClear (d : Dev) (o : Nat) : Dev :=
  if o % 8 != 0 then d
  else if 0x800 ≤ o ∧ o < 0x900 ∧ (o - 0x800) / 8 % 4 = 2 then
    let q : Fin 8 := Fin.ofNat 8 ((o - 0x800) / 32)
    { d with moth := d.moth.set q { d.moth[q] with lost := 0 } }
  else if 0x20000 ≤ o ∧ o < 0x20200 ∧ (o - 0x20000) / 8 % 4 = 1 then
    let c : Fin 16 := Fin.ofNat 16 ((o - 0x20000) / 32)
    { d with hl := { d.hl with hbm := d.hl.hbm.set c (d.hl.hbm[c]).clear } }
  else if 0x20400 ≤ o ∧ o < 0x20440 then
    let c : Fin 8 := Fin.ofNat 8 ((o - 0x20400) / 8)
    { d with hl := { d.hl with lp := d.hl.lp.set c (d.hl.lp[c]).clear } }
  else if 0x20600 ≤ o ∧ o < 0x20620 then
    let c : Fin 4 := Fin.ofNat 4 ((o - 0x20600) / 8)
    { d with hl := { d.hl with cxl := d.hl.cxl.set c (d.hl.cxl[c]).clear } }
  else if 0x100100 ≤ o ∧ o < 0x1001C0 then
    let j : Fin 24 := Fin.ofNat 24 ((o - 0x100100) / 8)
    d.setPort j { d.fab.ports[j] with storms := 0, retries := 0 }
  else if 0x150000 ≤ o ∧ o < 0x158000 then
    let i := (o - 0x150000) / 8
    { d with fab := { d.fab with werr := smSet 0 d.fab.werr i (smGet 0 d.fab.werr i &&& 0x00003FFFF0000000#64) } }
  else d
/-- RC_READ. -/
def execRcRead (a : BarReadArg) (s : State) : Host.Outcome State Fault Refusal :=
  .next (s.modDev fun d => { (d.barClear a.off.toNat) with hostRead := d.barRead a.off.toNat })

/-! ### HDM (R322, R441) -/
/-- An address that the HDM decoder reaches and that no memory stands behind. -/
def Dev.unbacked (d : Dev) (pa : Nat) : Bool := d.tier pa == .none
/-- HDM_READ: reserved bytes return all ones, with the poison indication (R322, R420). -/
def execHdmRead (a : HdmReadArg) (s : State) : Host.Outcome State Fault Refusal :=
  let pa := a.pa.toNat
  .next (if s.dev.hl.link != .cxl || 2 ^ 44 < pa + a.len then s
    else s.modDev fun d =>
      let data := (List.range a.len).map fun i => if d.unbacked (pa + i) then 0xFF else d.rdByte (pa + i)
      let bad := (List.range a.len).any (fun i => d.unbacked (pa + i)) || d.loadPoison pa a.len
      { ((d.loadAct pa a.len).touch (d.home pa) a.len) with hdmData := data, hdmPoison := bad })
/-- HDM_WRITE: bytes for reserved addresses are dropped. -/
def execHdmWrite (a : HdmWriteArg) (s : State) : Host.Outcome State Fault Refusal :=
  let pa := a.pa.toNat
  .next (if s.dev.hl.link != .cxl || 2 ^ 44 < pa + a.bytes.length then s
    else s.modDev fun d => ((pieces pa a.bytes).foldl (fun d x => if d.unbacked x.1 then d else d.store1 x.1 x.2) d).touch (d.home pa) a.bytes.length)

end Sys2Proof.Machine
end

