-- ==== Sys2Proof/Machine/Carding.lean ====
section
/-! DEFINITION. The carder (R149–R160, R438–R440): the start of a move, its passes, cutover, shootdown, completion records
and the halving of the hotness counters. A move is named by the address of its leaf entry. -/
namespace Sys2Proof.Machine

/-- The move of a leaf entry. -/
def Dev.moveOf (d : Dev) (leaf : Nat) : Option Move := d.card.moves.find? fun m => m.leaf = leaf

/-! ### Completion records (R151, R152, Table 6.9) -/
/-- A record written at TAIL by strong writes, which then advances, and its counters raised. -/
def Dev.putCq (d : Dev) (r : CqRec) : Dev :=
  let c := d.card
  let tail := bitsOf c.cq.toNat 32 10
  let w := r.w.set 3 (r.w[3] ||| BitVec.ofNat 64 ((c.mck - r.accepted) % 2 ^ 32 * 2 ^ 32))
  let d := d.write (brimPa (bitsOf c.cq.toNat 15 9 * 2 ^ 15 + 32 * tail)) (w.toList.flatMap fun x => leBytes 8 x.toNat)
  let d := { d with card := { c with cq := BitVec.ofNat 64 (setBits c.cq.toNat 32 10 (tail + 1)) } }
  r.cnts.foldl (fun d n => d.raise n.toNat 1) d
/-- A move ends with a status: the source frame's hotness counter becomes 0, and the record that it reserved is written
(R159, R438). -/
def Dev.endMove (d : Dev) (m : Move) (status : Nat) : Dev :=
  let d := { d with card := { d.card with moves := d.card.moves.filter fun x => x.leaf != m.leaf } }
  (d.setHot m.src 0).putCq
    { w := cqRec status m.pass m.src m.part.toNat m.dst m.leaf m.hot.toNat (if m.byMigr then 1 else 0), accepted := m.accepted, cnts := m.cnt.toList ++ m.also }
/-- DECLINE_RECORD_WRITE: the oldest decline, once a record is free. -/
def execDeclineRecordWrite (s : State) : Host.Outcome State Fault Refusal :=
  .next (match s.dev.card.declines with
    | r :: t => if 0 < s.dev.card.cqRoom then s.modDev fun d => ({ d with card := { d.card with declines := t } } : Dev).putCq r else s
    | [] => s)

/-! ### The start of a move -/
/-- A pending request can start. -/
def Carder.startable (c : Carder) (r : MigReq) : Bool :=
  !c.pause && decide (c.moves.length < c.maxAct) && !(c.moves.any fun m => m.leaf = r.leaf) && (r.dst.isSome || !c.fqEmpty) && decide (0 < c.cqRoom)
/-- MIGRATION_START: the first request, in order of acceptance, that can start. A frame outside the HBM, LP6 and CXL tiers is
accepted and copied like any other: the model's choice, where R151 gives no response (log 58). -/
def execMigrationStart (s : State) : Host.Outcome State Fault Refusal :=
  .next (match s.dev.card.reqs.find? s.dev.card.startable with
    | none => s
    | some r => s.modDev fun d =>
      let t := match r.dst with
        | some f => (f, d)
        | none => d.takeFrame
      let m : Move := { src := r.src, dst := t.1, leaf := r.leaf, leafVal := r.leafVal, part := r.part, hot := r.hot, byMigr := true, cnt := r.cnt, accepted := r.accepted }
      { t.2 with card := { t.2.card with reqs := t.2.card.reqs.erase r, moves := t.2.card.moves ++ [m] } })

/-! ### Passes (R154) -/
/-- Cells bound in a 4 KiB chunk of a frame that the carder overwrites go: its DRAM then holds what the carder wrote (R366). -/
def Dev.dropCells (d : Dev) (pa : Nat) : Dev := { d with mem := { d.mem with red := d.mem.red.filter fun c => c.pa / 4096 != pa / 4096 } }
/-- The carder's read of a chunk at one frame and its write at the other; poison goes with the blocks (R438), and what an expander
indicates of it counts (R425). -/
def Dev.copyChunk (d : Dev) (src dst : Nat) : Dev :=
  let bs := d.bytes src 4096
  let bad := (List.range 64).filter fun i => d.poisoned (src + 64 * i) 64
  let d := ((((d.actRange src 4096).noteCxl src 4096).actRange dst 4096).dropCells dst).write dst bs
  bad.foldl (fun d i => d.taint (dst + 64 * i) 64) d
/-- The controller reports a retired row for a write into a range. -/
def Dev.retiredIn (d : Dev) (pa n : Nat) : Bool := (List.range (n / 256)).any fun i => d.retiredAt (pa + 256 * i)
/-- A move abandoned (R438). -/
def Dev.abandon (d : Dev) (m : Move) : Dev := d.endMove m 3
/-- CARDER_CHUNK_READ: the next chunk of the pass becomes COPIED. -/
def execCarderChunkRead (leaf : Nat) (s : State) : Host.Outcome State Fault Refusal :=
  .next (match s.dev.moveOf leaf with
    | none => s
    | some m =>
      match m.st, m.todo with
      | .moving, c :: t => s.modDev fun d =>
        let i : Fin 16 := Fin.ofNat 16 c
        if m.bad || d.retiredIn (m.dst + 4096 * c) 4096 then d.abandon m
        else (d.copyChunk (m.src + 4096 * c) (m.dst + 4096 * c)).setMove { m with todo := t, chunks := m.chunks.set i .copied }
      | _, _ => s)
/-- The chunks that are DIRTY, in ascending order. -/
def Move.dirties (m : Move) : List Nat := (List.range 16).filter fun c => m.chunks[Fin.ofNat 16 c] = .dirty
/-- The exact cells of a chunk carried to another frame: value, state and format as they are (R116, R157, R366). -/
def Dev.carryCells (d : Dev) (src dst : Nat) : Dev :=
  let gone := (d.mem.red.filter fun c => c.pa / 4096 = src / 4096).map fun c =>
    let p := dst / 4096 * 4096 + c.pa % 4096
    { c with pa := p, ctl := (d.ctl p).getD c.ctl }
  gone.reverse.foldl Dev.useCell ((d.dropCells src).dropCells dst)
/-- The switch of the next chunk (R157): a DIRTY one is copied once more while later arrivals wait, and its cells go with it. -/
def Dev.switchChunk (d : Dev) (m : Move) : Dev :=
  let i : Fin 16 := Fin.ofNat 16 m.sw
  let src := m.src + 4096 * m.sw
  let dst := m.dst + 4096 * m.sw
  let d := if m.chunks[i] = .dirty then d.copyChunk src dst else d
  (d.carryCells src dst).setMove { m with sw := m.sw + 1, chunks := m.chunks.set i .copied }
/-- The switch of the next chunk back to the source: its bytes and its cells return (R439). -/
def Dev.switchBack (d : Dev) (m : Move) : Dev :=
  let src := m.src + 4096 * m.sw
  let dst := m.dst + 4096 * m.sw
  ((d.copyChunk dst src).carryCells dst src).setMove { m with sw := m.sw + 1 }
/-- The entry write of R157, a strong CAS: the shootdown goes out, or the chunks begin to switch back (R439). -/
def Dev.entryWrite (d : Dev) (m : Move) : Dev :=
  let new := BitVec.ofNat 64 (setBits m.leafVal.toNat 16 36 (m.dst / 65536))
  let r := d.amo m.leaf .cas .n64 false false [m.leafVal, new]
  let ok := r.2.2 = 0 && r.2.1 = m.leafVal.toNat
  r.1.setMove { m with st := if ok then .shooting else .returning, sw := 0 }
/-- PASS_END: another pass, the end of the move after pass 4, or cutover, of which each row carries out one step. -/
def execPassEnd (leaf : Nat) (s : State) : Host.Outcome State Fault Refusal :=
  .next (match s.dev.moveOf leaf with
    | none => s
    | some m =>
      match m.st, m.todo with
      | .moving, [] => s.modDev fun d =>
        if m.bad then d.abandon m
        else if m.dirties.isEmpty then d.setMove { m with st := .cutting, sw := 0 }
        else if 4 ≤ m.pass then d.abandon m
        else d.setMove { m with pass := m.pass + 1, todo := m.dirties }
      | .cutting, _ => s.modDev fun d =>
        if m.bad && m.sw = 0 then d.abandon m
        else if m.sw < 16 then d.switchChunk m
        else d.entryWrite m
      | .returning, _ => s.modDev fun d => if m.sw < 16 then d.switchBack m else d.setMove { m with st := .back }
      | _, _ => s)

/-! ### Shootdown (R158, R159) -/
/-- Number of an engine of the package. -/
def engIndex (u : UnitId) (e : EngId) : Nat := 12 * u.val + e.val
/-- The shootdown of a move is out. -/
def Move.out (m : Move) : Bool := m.st == .shooting || m.st == .back
/-- TLB entries of an engine, and of its unit's victim TLB, that a leaf entry gave. -/
def UnitSt.shoot (x : UnitSt) (e : EngId) (leaf : Nat) : UnitSt :=
  let g := x.es.eng[e]
  { x with es := { x.es with eng := x.es.eng.set e { g with tlb := g.tlb.filter fun t => t.leaf != leaf },
                             victim := x.es.victim.filter fun y => y.t.leaf != leaf } }
/-- SHOOTDOWN at an engine: every shootdown that it has not acknowledged. Its accesses inside the device are performed as
they are sent, and a walk in progress has read no entry yet. -/
def execShootdown (a : EngArg) (s : State) : Host.Outcome State Fault Refusal :=
  let n := engIndex a.u a.e
  let l := s.dev.card.moves.filter fun m => m.out && !m.acks.contains n
  .next (l.foldl (fun s m => (s.modUnit a.u fun x => x.shoot a.e m.leaf).modDev fun d => d.setMove { m with acks := m.acks ++ [n] }) s)
/-- The engines that a shootdown goes to: those of the brim core and of every crown in service. -/
def State.allAcked (s : State) (m : Move) : Bool :=
  (List.range 9).all fun u => (s.unit (Fin.ofNat 9 u)).status = .absent || (List.range 12).all fun e => m.acks.contains (12 * u + e)
/-- SHOOTDOWN_ACK: with the last one the move ends, DONE or, after a failed CAS, ABANDONED. -/
def execShootdownAck (s : State) : Host.Outcome State Fault Refusal :=
  .next (match s.dev.card.moves.find? fun m => m.out && s.allAcked m with
    | none => s
    | some m => s.modDev fun d => d.endMove m (if m.st = .back then 3 else 0))

/-! ### Hotness -/
/-- Frames that have a hotness counter (R149). -/
def Dev.hotFrames (d : Dev) : Nat := 25165824 + d.hl.cxlCap.toList.sum / 65536
/-- HOTNESS_HALVE: every counter of the table becomes ⌊c / 2⌋; none while HALVE_INTERVAL is 0. -/
def execHotnessHalve (s : State) : Host.Outcome State Fault Refusal :=
  .next (s.modDev fun d =>
    let b := bitsOf d.card.hot.toNat 16 36 * 65536
    if bitsOf d.card.ctl.toNat 32 32 = 0 || d.tier b != .lp6 then d
    else
      let l := d.mem.cells.filterMap fun c =>
        if b ≤ c.1 && c.1 < b + d.hotFrames then (if c.2.toNat / 2 = 0 then none else some (c.1, BitVec.ofNat 8 (c.2.toNat / 2))) else some c
      { d with mem := { d.mem with cells := l } })

end Sys2Proof.Machine
end

