-- ==== Sys2Proof/Machine/FabricOps.lean ====
section
/-! DEFINITION. The fabric as a home device and as a link (R325–R335, R449–R456, R460): ingress checks and accesses, retries,
storms and training of ports, and the small-message all-reduce. -/
namespace Sys2Proof.Machine

/-! ### Ingress (R330, R333, R449–R451) -/
/-- The status of an ingress check: 0, or the first refusal in the order of R449. -/
def Dev.ingressCheck (d : Dev) (r : FabReq) : Nat :=
  let w := d.win r.rwin.toNat
  let own := w.f 8 12 == r.owner.toNat
  if own && (w.f 0 1 = 0 || w.key != r.key) then 0x50
  else if w.f 1 1 = 1 || !own || !d.winSound w then 0x52
  else if !(w.f 2 3).testBit (remPerm r.op) then 0x53
  else if w.size < r.off + remLen r.op then 0x54
  else 0
/-- WINERR of the named window (Table 21.2). -/
def Dev.winError (d : Dev) (r : FabReq) (st : Nat) : Dev :=
  let i := r.rwin.toNat
  let n := Nat.min (bitsOf (smGet 0 d.fab.werr i).toNat 0 28 + 1) (2 ^ 28 - 1)
  { d with fab := { d.fab with werr := smSet 0 d.fab.werr i (BitVec.ofNat 64 (r.src.toNat * 2 ^ 32 + st % 16 * 2 ^ 28 + n)) } }
/-- The response to a request; one of this device itself passes inside the bridge. -/
def State.fabRespond (s : State) (r : FabReq) (st : Nat) (data : List Byte) : State :=
  let st : BitVec 8 := BitVec.ofNat 8 st
  if r.src = s.dev.myid then { s with agenda := s.agenda ++ [.fabricResponse { id := r.id, status := st, data := data }] }
  else s.send (.resp r.src r.id st data)
/-- The local address of a request. -/
def Dev.ingressPa (d : Dev) (r : FabReq) : Nat := (d.win r.rwin.toNat).base + r.off
/-- An accepted request performed at its ordering point, with status and data. -/
def Dev.ingressDo (d : Dev) (pa : Nat) : RemoteOp → Dev × Nat × List Byte
  | .read n => ((d.loadAct pa n).touch (d.home pa) n, if d.loadPoison pa n then 0x40 else 0, d.load pa n)
  | .write bs p =>
    let d := (d.store pa bs).touch (d.home pa) bs.length
    (if p then d.storePoison pa bs.length else d, 0, [])
  | .amo op fmt wide red ops =>
    let r := d.amo pa op fmt wide red ops
    (r.1, r.2.2, leBytes 16 r.2.1)
  | .flush => (d.flush pa, 0, [])
/-- An accepted request performed and answered; one for memory that is not there is answered with PA_RANGE. -/
def State.ingressPerform (s : State) (r : FabReq) (pa : Nat) : State :=
  if s.dev.unbacked pa then s.fabRespond r 0x43 []
  else
    let x := s.dev.ingressDo pa r.op
    ({ s with dev := x.1 }).fabRespond r x.2.1 x.2.2
/-- A request for another device passes on unchanged (R330). -/
def State.forward (s : State) (r : FabReq) : State :=
  match s.dev.route r.dest with
  | some j => s.send (.req { r with port := j })
  | none => s.fabRespond r 0x55 []
/-- The requester port of a row that is an agent's access (Table 5.6). -/
def reqPort : Instr → Option Nat
  | .copyElement a => some (16 * a.u.val + a.e.val)
  | .carderChunkRead _ => some 144
  | .hdmRead _ | .hdmWrite _ => some 145
  | .fabricIngress r => some (146 + r.port.val)
  | _ => none
/-- Of the accesses that stand next in the agenda, which reach the memory in one clock, the first of the lowest port below p (R122). -/
def State.ahead (s : State) (p : Nat) : Option Instr :=
  ((s.agenda.takeWhile fun i => (reqPort i).isSome).foldl (fun b i =>
    let q := (reqPort i).getD p
    if q < b.2 then (some i, q) else b) (none, p)).1
/-- FABRIC_INGRESS: behind the accesses of the same clock from requesters of lower ports (R122). -/
def execFabricIngress (r : FabReq) (s : State) : Host.Outcome State Fault Refusal :=
  .next (match s.ahead (146 + r.port.val) with
  | some i => { s with agenda := i :: .fabricIngress r :: s.agenda.erase i }
  | none =>
    if r.dest != s.dev.myid then s.forward r
    else
      let st := s.dev.ingressCheck r
      if st != 0 then (s.modDev fun d => d.winError r st).fabRespond r st []
      else
        let pa := s.dev.ingressPa r
        if s.dev.asleep (s.dev.home pa) then s.modDev fun d => { d with fab := { d.fab with unanswered := d.fab.unanswered ++ [(r, false, pa)] } }
        else s.ingressPerform r pa)
/-- Requests that waited for a pseudo-channel which is awake now, at the address that their check gave (R330, R437). -/
def State.wakeIngress (s : State) : State :=
  let ready := s.dev.fab.unanswered.filter fun r => !s.dev.asleep (s.dev.home r.2.2)
  let s := s.modDev fun d => { d with fab := { d.fab with unanswered := d.fab.unanswered.filter fun r => !ready.contains r } }
  ready.foldl (fun s r => s.ingressPerform r.1 r.2.2) s

/-! ### Links (R454–R456) -/
/-- STORM_N. -/
def Dev.stormN (d : Dev) : Nat := bitsOf d.fab.retry.toNat 32 16
/-- WINDOW. -/
def Dev.flitWindow (d : Dev) : Nat := bitsOf d.fab.retry.toNat 0 32
/-- A retry storm on a port: it leaves service and retrains, and recorders freeze. -/
def State.storm (s : State) (j : Fin 24) : State :=
  let p := s.dev.fab.ports[j]
  if !p.up || p.winRetries < s.dev.stormN then s
  else
    let s := s.modDev fun d => d.setPort j { p with up := false, storm := true, storms := sat16 p.storms, retraining := true }
    let us := brim :: (s.dev.fab.out.filter fun r => r.port == some j).map OutReq.u
    us.foldl (fun s u => s.modUnit u UnitSt.freeze) s
/-- LINK_RETRY: a retry is counted; the flits sent since the last one are not stated, and may begin a new window (log 15). -/
def execLinkRetry (j : Fin 24) (s : State) : Host.Outcome State Fault Refusal :=
  let p := s.dev.fab.ports[j]
  let f := p.flits + (Config.freeValue s.free).toNat
  let w := s.dev.flitWindow
  let p := { p with retries := if p.retries = 0xFFFFFFFF then p.retries else p.retries + 1, flits := f % w,
                    winRetries := if w ≤ f then 1 else p.winRetries + 1 }
  .next (({ s with free := s.free + 1 }.modDev fun d => d.setPort j p).storm j)
/-- RETRY_STORM. -/
def execRetryStorm (j : Fin 24) (s : State) : Host.Outcome State Fault Refusal := .next (s.storm j)
/-- The requests of this device that wait on a port, messages to gang leaders among them, sent again, each once (log 51). -/
def State.resend (s : State) (j : Fin 24) : State :=
  (s.dev.fab.out.filter fun r => r.port == some j).foldl (fun s o =>
    match o.gmsg with
    | some g => s.send (.gang g.1 g.2.1 g.2.2)
    | none =>
      match s.dev.fab.sent.find? fun m => match m with | .req r => r.id = o.id && r.src == s.dev.myid | _ => false with
      | some m => s.send m
      | none => s) s
/-- PORT_RETRAIN_COMPLETE: on success the port is in service and its waiting requests are resent; else it stays down. -/
def execPortRetrainComplete (a : PortArg) (s : State) : Host.Outcome State Fault Refusal :=
  let p := s.dev.fab.ports[a.j]
  .next (if !p.retraining then s
    else
      let s := s.modDev fun d => d.setPort a.j { p with retraining := false, up := a.ok, flits := 0, winRetries := 0 }
      if a.ok then s.resend a.j else s)
/-- FABRIC_PORT_TRAINING. -/
def execFabricPortTraining (a : PortArg) (s : State) : Host.Outcome State Fault Refusal :=
  .next (s.modDev fun d => d.setPort a.j { d.fab.ports[a.j] with up := a.ok })

/-! ### All-reduce (R334, R335, R460) -/
/-- EN, with an FMT that is not reserved. -/
def ArGrp.on (g : ArGrp) : Bool := g.w0.getLsbD 0 && g.f 1 2 != 3
/-- Width of an element in bytes. -/
def ArGrp.width (g : ArGrp) : Nat := if g.f 1 2 = 1 then 8 else 4
/-- PARENT. -/
def ArGrp.parent (g : ArGrp) : BitVec 14 := BitVec.ofNat 14 (g.f 12 14)
/-- An element as the sum takes it. -/
def arLoad (fmt x : Nat) : ArVal :=
  if fmt = 2 then
    let c := ({ ctl := 0, pa := 0, fmt := .f32, st := .finite, val := 0, z0 := false } : RedCell).load x
    { st := c.st, val := c.val, z0 := c.z0 }
  else { st := .finite, val := x, z0 := false }
/-- Two states joined: those of infinities of both signs give NaN (R115). -/
def arState : CellSt → CellSt → CellSt
  | .nan, _ | _, .nan => .nan
  | .posInf, .negInf | .negInf, .posInf => .nan
  | .posInf, _ | _, .posInf => .posInf
  | .negInf, _ | _, .negInf => .negInf
  | .satPos, _ | _, .satPos => .satPos
  | .satNeg, _ | _, .satNeg => .satNeg
  | .finite, .finite => .finite
/-- Two elements added: modulo 2^w, or exactly. -/
def arAdd (fmt : Nat) (a b : ArVal) : ArVal :=
  if fmt = 2 then { st := arState a.st b.st, val := a.val + b.val, z0 := a.z0 && b.z0 }
  else { st := .finite, val := wrapNat (if fmt = 1 then 64 else 32) (a.val + b.val), z0 := false }
/-- The word that the root makes of a sum: f32 rounded once with RNE. -/
def arRound (fmt : Nat) (a : ArVal) : ArVal :=
  if fmt = 2 then
    { st := .finite, val := (({ ctl := 0, pa := 0, fmt := .f32, st := a.st, val := a.val, z0 := a.z0 } : RedCell).read : Nat), z0 := false }
  else a
/-- This member's own contribution. -/
def Dev.arOwn (d : Dev) (g : ArGrp) : List ArVal :=
  (List.range (g.len / g.width)).map fun i => arLoad (g.f 1 2) (d.rdNat (brimPa (g.bufs.1 + g.width * i)) g.width)
/-- A message of a group to another member. -/
def State.arSend (s : State) (down : Bool) (dest : BitVec 14) (m : ArMsg) : State :=
  if dest = s.dev.myid then { s with agenda := s.agenda ++ [if down then .allreduceResult m else .allreducePartial m] } else s.send (.ar down dest m)
/-- The result at a member: written to RBUF, sent down the tree, and DCNTR raised after the write. -/
def State.arResult (s : State) (i : Fin 64) (vals : List ArVal) : State :=
  let g := s.dev.grp i.val
  let s := s.modDev fun d => d.write (brimPa g.bufs.2) (vals.flatMap fun v => leBytes g.width v.val.toNat)
  let s := g.got.foldl (fun s c =>
    s.arSend true c.1 { g := i, round := g.round, owner := BitVec.ofNat 12 (g.f 27 12), src := s.dev.myid, vals := vals }) s
  s.modDev fun d => (d.setGrp i.val { g with round := g.round + 1, running := false, got := [], sent := false }).raise (g.f 51 12) 1
/-- With the partials of all children, the member combines and sends to its parent; the root has the result. -/
def State.arCombine (s : State) (i : Fin 64) : State :=
  let g := s.dev.grp i.val
  if !g.running || g.sent || g.got.length < g.f 8 4 then s
  else
    let t := g.got.foldl (fun a c => List.zipWith (arAdd (g.f 1 2)) a c.2) (s.dev.arOwn g)
    if g.f 26 1 = 1 then s.arResult i (t.map (arRound (g.f 1 2)))
    else
      (s.modDev fun d => d.setGrp i.val { g with sent := true }).arSend false g.parent
        { g := i, round := g.round, owner := BitVec.ofNat 12 (g.f 27 12), src := s.dev.myid, vals := t }
/-- A partial of the present round enters. -/
def ArGrp.take (g : ArGrp) (m : ArMsg) : ArGrp := if g.got.any fun c => c.1 == m.src then g else { g with got := g.got ++ [(m.src, m.vals)] }
/-- ALLREDUCE_ROUND_START: TCNTR has reached the round. -/
def execAllreduceRoundStart (i : Fin 64) (s : State) : Host.Outcome State Fault Refusal :=
  let g := s.dev.grp i.val
  .next (if !g.on || g.running || signedOf 32 ((s.dev.counter (g.f 39 12)) - g.round).toNat < 0 then s
    else
      let now := g.early.filter fun m => m.round == g.round
      let g := now.foldl ArGrp.take { g with running := true, early := g.early.filter fun m => m.round != g.round }
      (s.modDev fun d => d.setGrp i.val g).arCombine i)
/-- A message names an enabled group of its OWNER (R335); one that does not is dropped and answered (R460). -/
def State.arCheck (s : State) (m : ArMsg) (f : ArGrp → State) : State :=
  let g := s.dev.grp m.g.val
  if g.on && g.f 27 12 == m.owner.toNat then f g else s.send (.refusedGroup m)
/-- ALLREDUCE_PARTIAL: one for a round that has not started is kept. -/
def execAllreducePartial (m : ArMsg) (s : State) : Host.Outcome State Fault Refusal :=
  .next (s.arCheck m fun g =>
    if g.running && m.round == g.round then (s.modDev fun d => d.setGrp m.g.val (g.take m)).arCombine m.g
    else if 0 ≤ signedOf 32 (m.round - g.round).toNat then s.modDev fun d => d.setGrp m.g.val { g with early := g.early ++ [m] }
    else s)
/-- ALLREDUCE_RESULT. -/
def execAllreduceResult (m : ArMsg) (s : State) : Host.Outcome State Fault Refusal :=
  .next (s.arCheck m fun g => if g.running && g.sent && m.round == g.round then s.arResult m.g m.vals else s)
/-- GROUP_REFUSED at the sender: one RANGE entry that names RBUF, in the partition of the group's OWNER (R460). -/
def execGroupRefused (m : ArMsg) (s : State) : Host.Outcome State Fault Refusal :=
  let g := s.dev.grp m.g.val
  .next (match (List.range 8).find? fun q => (s.dev.part[Fin.ofNat 8 q]).getLsbD 20 && bitsOf (s.dev.part[Fin.ofNat 8 q]).toNat 8 12 == g.f 27 12 with
    | none => s
    | some q => s.modDev fun d =>
        d.mothPut q (0x57 * 2 ^ 48 + g.f 27 12 * 2 ^ 36 + 8 * 2 ^ 20) (BitVec.ofNat 64 (2 * 2 ^ 60 + g.bufs.2)) (BitVec.ofNat 64 g.len)
          (BitVec.ofNat 64 ((s.unit brim).ck.scyc % 2 ^ 48)))

end Sys2Proof.Machine
end

