-- ==== Sys2Proof/Machine/PowerBoot.lean ====
section
/-! DEFINITION. Bring-up (R349–R351), links (R321, R324), crown clocks and coolant (R352–R354), the duty-cycle governor
(R409–R414), and BMAP failure (R408). -/
namespace Sys2Proof.Machine

/-! ### Boot (R349–R351, Table 15.1) -/
/-- The working physical positions of a crown in ascending order. -/
def workingBatts (fail : BitVec 9) : List Nat := (List.range 9).filter fun j => !fail.getLsbD j
/-- BMAP that the ROM writes and locks (R350). -/
def bootBmap (fail : BitVec 9) : Word :=
  let w := workingBatts fail
  BitVec.ofNat 64 (2 ^ 63 + fail.toNat * 2 ^ 36 + (w[8]?).getD 0xF * 2 ^ 32 + ((w.take 8).zipIdx.map fun p => p.1 * 2 ^ (4 * p.2)).sum)
/-- FAIL of a crown. -/
def bootFail (a : BootArg) (k : Nat) : BitVec 9 := a.failed.getD k 0
/-- A crown works (R351): its base die, its stacks, its router, its link to the brim die, and at least eight batts. -/
def bootWorks (a : BootArg) (k : Nat) : Bool :=
  a.dieOk.getLsbD k && a.stackOk.getLsbD k && a.routerOk.getLsbD k && a.brimLinkOk.getLsbD k && 8 ≤ (workingBatts (bootFail a k)).length
/-- SURV. -/
def bootSurv (a : BootArg) : List Nat := (List.range 8).filter (bootWorks a)
/-- SURV as a bit mask. -/
def bootMask (a : BootArg) : Nat := ((bootSurv a).map fun k => 2 ^ k).sum

/-! ### The felt (R15, R16, R351) -/
/-- The number of the crown-to-crown link between two neighbours: 0 to 5 along the rows, 6 to 9 between them. -/
def feltLink (a b : Nat) : Nat := if a / 4 = b / 4 then a / 4 * 3 + Nat.min (a % 4) (b % 4) else 6 + a % 4
/-- The coordinates from one to another, both ends included. -/
def fromTo (a b : Nat) : List Nat :=
  if a ≤ b then (List.range (b - a + 1)).map (a + ·) else (List.range (a - b + 1)).map (a - ·)
/-- The crowns of the route between two crowns in an order of dimensions (R16). -/
def feltPath (o : RouteOrder) (a b : Nat) : List Nat :=
  match o with
  | .cxFirst => ((fromTo (a % 4) (b % 4)).map fun x => a / 4 * 4 + x) ++ ((fromTo (a / 4) (b / 4)).drop 1).map fun y => y * 4 + b % 4
  | .cyFirst => ((fromTo (a / 4) (b / 4)).map fun y => y * 4 + a % 4) ++ ((fromTo (a % 4) (b % 4)).drop 1).map fun x => b / 4 * 4 + x
/-- Every link and router of a route passed BIST. -/
def Felt.sound (f : Felt) (l : List Nat) : Bool :=
  l.all (fun k => f.routers.getLsbD k) && (l.zip (l.drop 1)).all fun p => f.links.getLsbD (feltLink p.1 p.2)
/-- The route that the ROM fixes for an ordered pair of crowns: cx-first, otherwise cy-first (R351). -/
def Felt.choose (f : Felt) (a b : Nat) : Option RouteOrder :=
  if f.sound (feltPath .cxFirst a b) then some .cxFirst else if f.sound (feltPath .cyFirst a b) then some .cyFirst else none
/-- The crowns that traffic passes from a working crown to another, for the life of the boot (R16). -/
def Felt.route (f : Felt) (a b : Fin 8) : Option (List Nat) :=
  (f.routes.toList.getD (8 * a.val + b.val) none).map fun o => feltPath o a.val b.val
/-- The felt after step 3: BIST results, and the route of each ordered pair of working crowns. -/
def bootFelt (a : BootArg) : Felt :=
  let f : Felt := { links := a.linkOk, routers := a.routerOk, brimLinks := a.brimLinkOk }
  { f with routes := Vector.ofFn fun i : Fin 64 =>
      let x := i.val / 8
      let y := i.val % 8
      if x != y && bootWorks a x && bootWorks a y then f.choose x y else none }
/-- Boot completes step 3: at least six crowns, and a route for each ordered pair of them (R351). -/
def bootOk (a : BootArg) : Bool :=
  6 ≤ (bootSurv a).length && (bootSurv a).all fun x => (bootSurv a).all fun y => x = y || ((bootFelt a).choose x y).isSome

/-! ### What boot leaves -/
/-- A unit after boot step 2, or with `on` after step 3: BMAP of a working crown is written and locked, then the crown is enabled; the
brim core runs from power-on. -/
def bootUnit (a : BootArg) (on : Bool) (u : Nat) : UnitSt :=
  if u = 8 then { status := if on then .idle else .absent }
  else if bootWorks a u then
    { status := if on then .idle else .absent, cfg := { bmap := bootBmap (bootFail a u), bmapShadow := bootBmap (bootFail a u) } }
  else {}
/-- The SM3 digest of measured bytes. -/
def digest (bs : List Byte) : BitVec 256 := BitVec.ofNat 256 (leNat (sm3 bs))
/-- The contents of the fabric and partition blocks as stage 2 measures them; window keys read zero (R328, log 66). -/
def blockBytes (d : Dev) : List Byte :=
  let words := fun (lo n : Nat) => (List.range n).flatMap fun i => leBytes 8 (d.fabRead (lo + 8 * i)).toNat
  words 0 3 ++ words 0x100 24 ++ words 0x10000 16384 ++ words 0x40000 128 ++ words 0x50000 4096 ++ d.part.toList.flatMap fun w => leBytes 8 w.toNat
/-- The contents of BMAP of every crown, HBMCFG and CIT (R109, log 66). -/
def mapBytes (a : BootArg) (h : Word) : List Byte :=
  ((List.range 8).flatMap fun k => leBytes 8 (if bootWorks a k then bootBmap (bootFail a k) else 0).toNat) ++ leBytes 8 h.toNat ++
    (List.range 4096).map fun i => BitVec.ofNat 8 ((bootSurv a).getD (i % Nat.max 1 (bootSurv a).length) 0)
/-- What steps 3 to 6 of boot write and measure (Table 15.1). Stage 1 stands at the start of brim scratch (log 66). -/
def bootDev (a : BootArg) (d : Dev) : Dev :=
  let h : Word := BitVec.ofNat 64 (bootMask a * 2 ^ 24 + (bootSurv a).length * 2 ^ 36)
  let cfg := writeHbmcfg h (BitVec.ofNat 64 (a.ixsize.toNat * 2 ^ 8 + 1))
  let d := d.write (brimPa 0) (a.stage1.take (2 ^ 24))
  let d : Dev := { d with
    hbmcfg := cfg,
    hl := { d.hl with spill := (List.range 24).foldl (fun m i => smSet 0 m i (a.spill.getD i 0 ||| 1#64)) d.hl.spill,
                      remap := a.repair.map fun e => ⟨e.1.val, e.2.1.val, e.2.2.1.val, e.2.2.2.1.toNat, e.2.2.2.2, e.2.2.2.2⟩ },
    card := { d.card with hot := BitVec.ofNat 64 (a.hotBase.toNat * 2 ^ 16 + 1) },
    part := Vector.ofFn fun q : Fin 8 => a.part.getD q.val 0 &&& BitVec.ofNat 64 (0x1FFF00 + bootMask a),
    felt := bootFelt a,
    pow := { d.pow with mhz := Vector.ofFn fun k : Fin 8 => if bootWorks a k.val then d.pow.target[k] else 0 } }
  let d := a.fab.foldl (fun d p => d.fabWrite p.1 p.2) d
  { d with att := { (((((d.att.extend 0 (digest a.stage1)).extend 1 (digest a.stage2)).extend 2 (digest a.microcode)).extend 4
      (digest (blockBytes d))).extend 3 (digest (mapBytes a cfg))) with idpub := idPub, step := 6 } }
/-- The device when the ROM has stopped at step 3 (R351): of step 3's own writes none stands, and the mailbox goes on serving commands
(log 47: the model's choices). -/
def bootFailed (a : BootArg) (d : Dev) : Dev :=
  { d with felt := { bootFelt a with routes := Vector.replicate 64 none },
           att := { d.att with idpub := idPub, status := 4, step := 3, failed := true } }
/-- POWER_ON_RESET: boot steps 1 to 6; what is still to come from outside stays on the agenda. -/
def execPowerOnReset (a : BootArg) (s : State) : Host.Outcome State Fault Refusal :=
  let r := State.reset
  .next { r with
    agenda := s.agenda, cur := s.cur, free := s.free,
    units := Vector.ofFn fun u : Fin 9 => bootUnit a (bootOk a) u.val,
    dev := if bootOk a then bootDev a r.dev else bootFailed a r.dev }

/-! ### Links -/
/-- HOST_LINK_TRAINING (R321). -/
def execHostLinkTraining (m : LinkMode) (s : State) : Host.Outcome State Fault Refusal :=
  .next (s.modDev fun d => { d with hl := { d.hl with link := m } })
/-- CXL_PORT_TRAINING: a port that does not train contributes no range (R324). -/
def execCxlPortTraining (a : CxlArg) (s : State) : Host.Outcome State Fault Refusal :=
  .next (s.modDev fun d => { d with hl := { d.hl with cxlCap := d.hl.cxlCap.set a.p (if a.ok then a.cap else 0) } })

/-! ### Clocks and coolant -/
/-- The frequency that a crown runs at, or changes to. -/
def State.nextMhz (s : State) (k : Fin 8) : BitVec 10 :=
  let c := (s.unit (crownUnit k.val)).ck
  if 0 < c.gateRun then c.nextMhz else s.dev.pow.mhz[k]
/-- The clock of a crown set: a change stalls it for 32 clocks at the old frequency, and the new one counts from then on (R352). -/
def State.setMhz (s : State) (k : Fin 8) (f : BitVec 10) : State :=
  if s.nextMhz k = f then s else s.modUnit (crownUnit k.val) fun x => { x with ck := { x.ck with gateRun := 32, nextMhz := f } }
/-- A crown that boot enabled. -/
def State.enabled (s : State) (k : Fin 8) : Bool := (s.unit (crownUnit k.val)).status != .absent
/-- Every enabled crown's clock set by a rule. -/
def State.setClocks (s : State) (f : Fin 8 → BitVec 10 → BitVec 10) : State :=
  (List.range 8).foldl (fun s i =>
    let k : Fin 8 := Fin.ofNat 8 i
    if s.enabled k then s.setMhz k (f k (s.nextMhz k)) else s) s
/-- One step down. -/
def clkDown (f : BitVec 10) : BitVec 10 := if f ≤ 425 then 400 else f - 25
/-- The controller's step after a window (R353). -/
def clkStep (lim watts : Nat) (target f : BitVec 10) : BitVec 10 :=
  if lim < watts then clkDown f else if watts + 100 < lim && f < target then f + 25 else f
/-- COOL of PWRSTAT. -/
def Power.cool (p : Power) : Bool := p.stat.getLsbD 56
/-- POWER_WINDOW: AVGW and PEAKW, and the clocks unless coolant holds them; with a governor's request the lower is used. -/
def execPowerWindow (a : PowerArg) (s : State) : Host.Outcome State Fault Refusal :=
  let p := s.dev.pow
  let w := a.watts.toNat
  let stat := setBits (setBits p.stat.toNat 16 16 w) 0 16 (Nat.max (bitsOf p.stat.toNat 0 16) w)
  let s := s.modDev fun d => { d with pow := { d.pow with stat := BitVec.ofNat 64 stat } }
  .next (if p.cool then s
    else s.setClocks fun k f =>
      let c := clkStep p.lim.toNat w p.target[k] f
      if a.gov.getLsbD k.val && clkDown f < c then clkDown f else c)
/-- COOL and INLET. -/
def Power.coolant (p : Power) (out : Bool) (inlet : BitVec 8) : Power :=
  { p with stat := BitVec.ofNat 64 (setBits p.stat.toNat 48 9 (inlet.toNat + (if out then 256 else 0))) }
/-- The coolant is out of limits: above 40 °C at the inlet, or below 1.5 L/min (R354). -/
def coolOut (a : CoolArg) : Bool := 40 < a.inlet.toNat || a.flow < 15
/-- A reading of the coolant: out of limits it sets COOL and holds every crown at 400 MHz; within them it clears COOL, and the windows
raise the clocks again. -/
def State.readCoolant (s : State) (a : CoolArg) : State :=
  let s := s.modDev fun d => { d with pow := d.pow.coolant (coolOut a) a.inlet }
  if coolOut a then s.setClocks fun _ _ => 400 else s
/-- COOLANT_LIMIT. -/
def execCoolantLimit (a : CoolArg) (s : State) : Host.Outcome State Fault Refusal := .next (s.readCoolant a)
/-- COOLANT_WITHIN_LIMITS. -/
def execCoolantWithinLimits (a : CoolArg) (s : State) : Host.Outcome State Fault Refusal := .next (s.readCoolant a)

/-! ### The duty-cycle governor (R409, R410, R414) -/
/-- PER. -/
def dcgPer (c : Word) : Nat := bitsOf c.toNat 32 16
/-- A temperature at or below TW − HYST. -/
def dcgCool (c : Word) (t : BitVec 8) : Bool := t.toNat + bitsOf c.toNat 24 4 ≤ bitsOf c.toNat 0 8
/-- The sample algorithm of R410. -/
def Dcg.step410 (c : Word) (t : BitVec 8) (d : Dcg) : Dcg :=
  let tw := bitsOf c.toNat 0 8
  let d := { d with temp := t, trip := d.trip || decide (bitsOf c.toNat 16 8 ≤ t.toNat) }
  if tw < t.toNat then
    let atw := sat16 d.atw
    let st := if atw.toNat % dcgPer c = 0 then Nat.min (d.step.toNat + 1) 7 else d.step.toNat
    let st := if bitsOf c.toNat 8 8 ≤ t.toNat then Nat.max st 4 else st
    { d with btw := 0, atw := atw, step := BitVec.ofNat 3 st }
  else if dcgCool c t then
    let btw := sat16 d.btw
    { d with atw := 0, btw := btw, step := if btw.toNat % dcgPer c = 0 then BitVec.ofNat 3 (d.step.toNat - 1) else d.step }
  else { d with atw := 0, btw := 0 }
/-- A sample, with the return of a batt that has tripped: PER cool samples, then STEP 7 (R414). -/
def Dcg.sample (c : Word) (t : BitVec 8) (d : Dcg) : Dcg :=
  let was := d.trip
  let d := d.step410 c t
  let n := if was && dcgCool c t then d.cool + 1 else 0
  if was && dcgPer c ≤ n then { d with trip := false, step := 7, cool := 0 } else { d with cool := n }
/-- A crown's batts sampled; a crown whose last tripped batt is powered again returns to dispatch. -/
def CrownCfg.govern (x : CrownCfg) (c : Word) (temps : Vector (BitVec 8) 8) : CrownCfg :=
  let l := Vector.ofFn fun b : Fin 8 => (x.dcg[b]).sample c temps[b]
  { x with dcg := l, tripped := x.tripped && l.toList.any fun d => d.trip }
/-- GOVERNOR_SAMPLE. -/
def execGovernorSample (a : GovArg) (s : State) : Host.Outcome State Fault Refusal :=
  .next (s.modUnit (crownUnit a.k.val) fun x =>
    if x.status = .absent then x else { x with cfg := (x.cfg.govern s.dev.pow.dcgcfg a.temps).newSteps x.ck.clk })
/-- A crown owes a trip: a batt with TRIP, at an 8-clock boundary. -/
def UnitSt.tripDue (x : UnitSt) : Bool := (x.cfg.dcg.toList.any Dcg.trip) && x.ck.clk % 8 = 0 && !x.cfg.tripped
/-- A crown whose batt is unpowered stops. -/
def State.tripCrown (s : State) (k : Nat) : State :=
  let u := crownUnit k
  if (s.unit u).tripDue then (s.modUnit u fun x => { x with cfg := { x.cfg with tripped := true } }).killUnit u 0x63 else s
/-- BATT_TRIP: every crown that owes it. -/
def execBattTrip (s : State) : Host.Outcome State Fault Refusal := .next ((List.range 8).foldl State.tripCrown s)

/-! ### BMAP (R408) -/
/-- An entry keeps state on a crown (R48, R408). -/
def PoolEnt.keptOn (e : PoolEnt) (k : Nat) : Bool := (e.st == .stopped || e.st == .stopping) && !recSave e.tr && e.keep.contains k
/-- A crown fails: its contexts die, and it takes no more (R408). -/
def State.failCrown (s : State) (k : CrownId) : State :=
  let u := crownUnit k.val
  let s := (s.modUnit u fun x => { x with cfg := { x.cfg with failed := true } }).killUnit u 0x63
  (s.dev.sched.ents.filter fun e => e.keptOn k.val).foldl (fun s e => if e.st == .stopped then s.killKept e 0x63 else s.killCtx e.pool e.ent 0x63) s
/-- BMAP_SCRUB: a copy with an uncorrectable error is reloaded from the other; with both lost the crown fails. -/
def execBmapScrub (a : BmapArg) (s : State) : Host.Outcome State Fault Refusal :=
  let u := crownUnit a.k.val
  .next (
    if (s.unit u).status = .absent || (s.unit u).cfg.failed then s
    else if a.prim = .uncorrectable && a.shadow = .uncorrectable then s.failCrown a.k
    else s.modUnit u fun x => { x with cfg :=
      if a.prim = .uncorrectable then { x.cfg with bmap := x.cfg.bmapShadow }
      else if a.shadow = .uncorrectable then { x.cfg with bmapShadow := x.cfg.bmap } else x.cfg })

end Sys2Proof.Machine
end

