-- ==== Sys2Proof/Machine/Health.lean ====
section
/-! DEFINITION. The health of memories (20): errors found by the patrol scrub or a read (R419–R422), lost remap entries
(R424), row-hammer management and refresh (R443, R444, R468), and self-refresh (R437). -/
namespace Sys2Proof.Machine

/-! ### Errors (R419–R422, R438) -/
/-- The spilled cells whose entries stand in a 64-byte block. -/
def Dev.spillWords (d : Dev) (block : Nat) : List RedCell :=
  d.mem.red.filter fun c => match c.entry with | some i => (d.spillPa c.ctl i).any fun p => p / 64 = block | none => false
/-- An error in a 64-byte block of DRAM: counted once, and poisoned when it is not corrected, with the words of the spill entries in it
(R420); an expander's own error is counted by the responses that carry it. -/
def Dev.dramError (d : Dev) (pa : Nat) (e : Ecc) : Dev :=
  match d.ctl pa, e with
  | some c, .correctable => { d with hl := d.hl.modCtl c fun m => { m with ce := sat16 m.ce } }
  | some c, .uncorrectable =>
    if d.mem.poison.contains (pa / 64) then d
    else
      let d := (d.spillWords (pa / 64)).foldl (fun d c => d.taint c.pa c.bytes) (d.taint pa 1)
      if 24 ≤ c then d else { d with hl := d.hl.modCtl c fun m => { m with ue := sat16 m.ue } }
  | _, _ => d
/-- The controller of a destination frame reports an uncorrectable error for a write into it: the move is abandoned, unless a chunk has
switched (R438). -/
def Dev.spoil (d : Dev) (pa : Nat) : Dev :=
  let hit : Move → Bool := fun m => frameOf m.dst = frameOf pa && (m.st == .moving || (m.st == .cutting && m.sw = 0))
  { d with card := { d.card with moves := d.card.moves.map fun m => if hit m then { m with bad := true } else m } }
/-- An accumulator word found uncorrectable: in phase mode the phase is cancelled, else the word is poison (Table 20.2). -/
def State.accError (s : State) (u : UnitId) (word : Nat) : State :=
  if (s.unit u).phase.on then s.cancelPhase u 0x40 [] none
  else s.modUnit u fun x => { x with st := { x.st with accPoison := setIns x.st.accPoison word } }
/-- A word of an accumulator: row × 128 + column. -/
def accWord (n : Nat) (row col : BitVec 7) : Nat := n * 16384 + row.toNat * 128 + col.toNat
/-- The fate of an error (R419–R421, R438, Table 20.2). A corrected one changes nothing but a count. -/
def State.eccError (s : State) (a : ScrubWhat) : State :=
  match a with
  | .face k addr e =>
    if e = .uncorrectable && regionOf addr.toNat != .reserved then
      s.modUnit (crownUnit k.val) fun x => { x with st := setPoison x.st [addr.toNat / 16] false }
    else s
  | .dram pa e => s.modDev fun d => d.dramError pa.toNat e
  | .dramWrite pa => s.modDev fun d => (d.dramError pa.toNat .uncorrectable).spoil pa.toNat
  | .acc k slot row col => s.accError (crownUnit k.val) (accWord slot.toNat row col)
  | .committed k slot row col =>
    s.modUnit (crownUnit k.val) fun x => { x with st := { x.st with committedPoison := setIns x.st.committedPoison (accWord slot.toNat row col) } }
  | .plane k b row col =>
    s.modUnit (crownUnit k.val) fun x => { x with st := { x.st with planePoison := setIns x.st.planePoison (accWord b.val row col) } }
  | .cell pa => s.modDev fun d => match d.mem.cellOf pa.toNat with | some c => d.taint c.pa c.bytes | none => d
  | .regs u => s.killUnit u 0x49
  | .tlb u e i => s.modEng u e fun g => { g with tlb := g.tlb.eraseIdx i }
  | .victim u i => s.modUnit u fun x => { x with es := { x.es with victim := x.es.victim.eraseIdx i } }
  | .icache u i => s.modUnit u fun x => { x with es := { x.es with icache := x.es.icache.eraseIdx i } }
/-- PATROL_SCRUB: one error found, by the scrub or in a read made for a unit, whose recorder freezes (R422). -/
def execPatrolScrub (a : ScrubArg) (s : State) : Host.Outcome State Fault Refusal :=
  .next ((match a.reader with | some u => s.modUnit u UnitSt.freeze | none => s).eccError a.what)

/-! ### Rows retired (R424) -/
/-- The DRAM offset of a row's block of 256 bytes (R423). -/
def rowOffset (pc bank row i : Nat) : Nat := row * 2 ^ 21 + (bank ^^^ row % 16) * 2 ^ 17 + i * 2 ^ 15 + pc * 2 ^ 8
/-- The 64 KiB pages that hold a byte of a row, in ascending order. -/
def Dev.rowPages (d : Dev) (k pc bank row : Nat) : List Nat :=
  ((List.range 4).filterMap fun i => (d.offsetPa k (rowOffset pc bank row i)).map frameOf).foldl setIns []
/-- The entries of the row-remap tables with one changed, or dropped. -/
def Dev.modRemap (d : Dev) (a : RemapArg) (f : RemapEnt → Option RemapEnt) : Dev :=
  let hit : RemapEnt → Bool := fun e => e.k = a.k.val && e.pc = a.pc.val && e.bank = a.bank.val && e.row = a.row.toNat
  { d with hl := { d.hl with remap := d.hl.remap.filterMap fun e => if hit e then f e else some e } }
/-- REMAP_RELOAD: the entry that a lookup finds is reloaded from its other copy; with both lost the row that it mapped is retired, and
each of its pages is named in the moth map. -/
def execRemapReload (a : RemapArg) (s : State) : Host.Outcome State Fault Refusal :=
  let r := (a.k.val, a.pc.val, a.bank.val, a.row.toNat)
  .next (if (s.dev.remapOf a.k.val a.pc.val a.bank.val a.row.toNat).isNone then s
    else if a.prim != .uncorrectable || a.shadow != .uncorrectable then
      s.modDev fun d => d.modRemap a fun e =>
        some (if a.prim == .uncorrectable then { e with spare := e.copy } else if a.shadow == .uncorrectable then { e with copy := e.spare } else e)
    else
      let s := s.modDev fun d => d.modRemap a fun _ => none
      let q := (s.dev.partOfCrown a.k.val).getD 0
      let pages := s.dev.rowPages a.k.val a.pc.val a.bank.val a.row.toNat
      let s := s.modDev fun d => { d with mem := { d.mem with retired := d.mem.retired ++ [r] } }
      pages.foldl (fun s p => s.modDev fun d =>
        d.mothPut q (0x48 * 2 ^ 48 + 8 * 2 ^ 20) (BitVec.ofNat 64 (4 * 2 ^ 60 + p * 65536)) 65536
          (BitVec.ofNat 64 ((s.unit brim).ck.scyc % 2 ^ 48))) s)

/-! ### Row-hammer management and refresh (R443, R444, R468) -/
/-- A bank changed. -/
def Dev.modBank (d : Dev) (key : Nat) (f : Bank → Bank) : Dev := { d with hl := { d.hl with banks := setBank d.hl.banks (f (d.hl.bank key)) } }
/-- RFM: of the banks that owe one, at the lowest; what waited for the bank goes on. -/
def execRfm (s : State) : Host.Outcome State Fault Refusal :=
  .next (match s.dev.hl.banks.find? fun b => !b.rfm.isEmpty with
    | none => s
    | some b => (s.modDev fun d => d.serveRfm b.key).wakeIngress)
/-- PER_BANK_REFRESH: the bank's row closes; no count and no value changes, and none is issued in self-refresh. -/
def execPerBankRefresh (a : BankArg) (s : State) : Host.Outcome State Fault Refusal :=
  .next (if s.dev.hl.selfRef.contains (128 * a.k.val + a.pc.val) then s
    else s.modDev fun d => d.modBank (bankKey a.k.val a.pc.val a.bank.val) fun b => { b with row := none })
/-- The banks of a pseudo-channel changed. -/
def Health.modPch (h : Health) (k pc : Nat) (f : Bank → Bank) : Health :=
  { h with banks := h.banks.map fun b => if b.key / 16 = k * 128 + pc then f b else b }
/-- REFRESH_WINDOW_START: every count of the pseudo-channel's banks is cleared; the entries keep their rows. -/
def execRefreshWindowStart (a : PchArg) (s : State) : Host.Outcome State Fault Refusal :=
  .next (s.modDev fun d => { d with hl := d.hl.modPch a.k.val a.pc.val Bank.clear })
/-- HBM_TEMPERATURE_RANGE_CHANGE. -/
def execHbmTemperatureRangeChange (a : RangeArg) (s : State) : Host.Outcome State Fault Refusal :=
  .next (s.modDev fun d => { d with hl := d.hl.modCtl a.c.val fun m => { m with extended := a.extended } })

/-! ### Self-refresh (R437) -/
/-- SELF_REFRESH_ENTRY: none while SRIDLE is 0. -/
def execSelfRefreshEntry (a : PchArg) (s : State) : Host.Outcome State Fault Refusal :=
  .next (if (s.dev.hl.hbm[hbmCtl a.k.val a.pc.val]).sridle = 0 then s
    else s.modDev fun d => { d with hl := { (d.hl.modPch a.k.val a.pc.val fun b => { b with row := none }) with
      selfRef := setIns d.hl.selfRef (128 * a.k.val + a.pc.val) } })
/-- SELF_REFRESH_EXIT: what waited for the pseudo-channel goes on. -/
def execSelfRefreshExit (a : PchArg) (s : State) : Host.Outcome State Fault Refusal :=
  .next ((s.modDev fun d => { d with hl := { d.hl with selfRef := setDel d.hl.selfRef (128 * a.k.val + a.pc.val) } }).wakeIngress)

end Sys2Proof.Machine
end

