-- ==== Sys2Proof/Machine/Agenda.lean ====
section
/-! DEFINITION. The order in which the agents of the package act, as plain data (log 3): after a clock of one unit the rows
that are due for the next one, then its clock. Units take their turns in the order of the requester ports of Table 5.6: crown k
with its engines (16k + e), the brim core (128 + e), after its engines the carder (144). Requests of the host (145) and of the
fabric (146 + j) come as rows of their own (log 3, R122). -/
namespace Sys2Proof.Machine

/-- A row when its condition holds. -/
def when_ (c : Bool) (i : Instr) : List Instr := if c then [i] else []
/-- The rows of an engine's accesses: its walk or replay, and one element of one command, or the writes that wait for a port. -/
def State.engRows (s : State) (u : UnitId) (e : EngId) : List Instr :=
  let g := (s.unit u).es.eng[e]
  when_ (g.walk.isSome || g.replay) (.pageWalk { u := u, e := e }) ++
    (match g.q.find? fun c => s.canStart u e c c.next with
     | some c => [.copyElement { u := u, e := e, cmd := c.id, elt := c.next }]
     | none => g.stage.head?.toList.map fun t => .copyElement { u := u, e := e, cmd := t.cmd, elt := 0 })
/-- A command that may complete in the present clock: the clock of its last write (R134). -/
def QEnt.nearEnd (q : QEnt) : Bool := q.kind == .cmd && (q.ended || decide (cElems q.word q.snap ≤ q.next + 1))
/-- The rows of an engine: its accesses, then the completions that they bring, a marker. -/
def State.engDue (s : State) (u : UnitId) (e : EngId) : List Instr :=
  let g := (s.unit u).es.eng[e]
  s.engRows u e ++ ((g.q.filter QEnt.nearEnd).map fun _ => .copyComplete { u := u, e := e }) ++
    when_ (g.q.any fun c => c.kind != .cmd && s.markerDone u e c.kind) (.fenceMarkerComplete { u := u, e := e })
/-- The rows of a crown's cube: first the commands whose last write has been made, then what falls due in the present clock, f64's
second reads among the steps (R245). -/
def UnitSt.cubeDue (x : UnitSt) (u : UnitId) : List Instr :=
  let c := x.cube
  if c.cmds.isEmpty && c.caps.isEmpty && c.writes.isEmpty && c.planes.isEmpty && c.deliv.isEmpty then []
  else
    List.replicate c.cmds.length (.cubeCommandComplete { u := u }) ++
      ((List.range 8).flatMap fun b => when_ (x.planeDue (Fin.ofNat 8 b)).isSome (.planeWrite { k := Fin.ofNat 8 u.val, b := Fin.ofNat 8 b })) ++
      when_ (!c.deliv.isEmpty) (.deliveredCommandStart { u := u }) ++
      List.replicate (c.cmds.length + c.caps.length + (c.cmds.filter fun k => k.second.isSome).length + 1) (.cubeStep { u := u }) ++
      [.tjoinDrain { u := u }]
/-- What stands before a unit's engines: its fetch, its phase and the cause that waits for its next instance. -/
def State.fetchDue (s : State) (u : UnitId) : List Instr :=
  let x := s.unit u
  when_ x.es.fetchMiss.isSome (.icacheFill { u := u }) ++ when_ x.phase.cancelling (.refetchComplete { u := u }) ++
    when_ (x.atBoundary && x.causeDue) (.deferredCauseTaken { u := u })
/-- The sequencer's commands that wait for markers: one row for each EVINC and each TPOST, which acts if the markers have then
completed. -/
def UnitSt.syDue (x : UnitSt) (u : UnitId) : List Instr :=
  x.es.sy.flatMap fun o => match o with
    | .evinc .. => [.evincIncrement { u := u }]
    | .tpost .. => [.tpostRecordWrite { u := u }]
    | .tlbi .. => [.tlbiRemoval { u := u }]
/-- The rows of a precise stop: an injection, the dump, a GO that waits for the dump. -/
def UnitSt.stopDue (x : UnitSt) (u : UnitId) : List Instr :=
  when_ (x.stop.stopped && x.stop.inj.isSome) (.injectionComplete { u := u }) ++
    when_ (x.stop.stopped && (!x.stop.dumped || x.stop.going)) (.dumpComplete { u := u })
/-- The rows of a unit's own state. -/
def State.selfDue (s : State) (u : UnitId) : List Instr :=
  let x := s.unit u
  let a : UnitArg := { u := u }
  x.syDue u ++ x.stopDue u ++
    when_ (x.status = .saving) (.saveRecordComplete a) ++
    when_ (x.status = .exiting) (.exitComplete a) ++
    when_ (x.ctx.isSome && decide (x.imax + 2048 ≤ x.ck.reqClks)) (.watchdog a)
/-- The rows that are due before the next clock of a unit: none at a unit that holds no context. A unit whose save record has been
written has nothing left but to be released, and a killed one nothing but what it had started (R377). The static charge of the clock
that has ended comes first: whatever holds the crown pays it (R320). -/
def State.unitDue (s : State) (u : UnitId) : List Instr :=
  let x := s.unit u
  if x.ctx.isNone && !x.stop.stopped then []
  else
    when_ (x.ctx.isSome && x.ck.clk % 4096 = 0) (.staticCharge { u := u }) ++
    match x.status with
    | .stored | .reloading => x.stopDue u ++ [.saveRecordComplete { u := u }]
    | .killed => x.cubeDue u ++ ((List.range 12).flatMap fun e => s.engRows u (Fin.ofNat 12 e)) ++ x.stopDue u ++ [.killEnd { u := u }]
    | _ => s.fetchDue u ++ x.cubeDue u ++ ((List.range 12).flatMap fun e => s.engDue u (Fin.ofNat 12 e)) ++ s.selfDue u
/-- An engine waits for memory that may be in self-refresh. -/
def State.memWaits (s : State) : Bool :=
  !s.dev.fab.unanswered.isEmpty || s.units.toList.any fun x => x.es.fetchMiss.isSome || x.status = .saving || x.status = .stored ||
    x.es.eng.toList.any fun g => !g.q.isEmpty || !g.log.isEmpty
/-- The rows of the carder. -/
def State.carderDue (s : State) : List Instr :=
  let c := s.dev.card
  when_ (!c.declines.isEmpty) .declineRecordWrite ++ when_ (!c.reqs.isEmpty) .migrationStart ++
    (c.moves.flatMap fun m =>
      if m.out then
        ((List.range 9).flatMap fun u => (List.range 12).flatMap fun e =>
          when_ (!m.acks.contains (12 * u + e)) (.shootdown { u := Fin.ofNat 9 u, e := Fin.ofNat 12 e })) ++ [.shootdownAck]
      else if m.todo.isEmpty then [.passEnd m.leaf] else [.carderChunkRead m.leaf])
/-- The halving of the hotness counters, before every increment of its clock of MCK (R149): that clock begins with the turn of crown 0. -/
def State.halveDue (s : State) : List Instr :=
  let c := s.dev.card
  let iv := bitsOf c.ctl.toNat 32 32
  when_ (iv != 0 && c.mck % iv = 0) .hotnessHalve
/-- The rows of the device that come before the brim core's at its turn. -/
def State.devDue (s : State) : List Instr :=
  let d := s.dev
  (match d.pkg with | some p => if p.done then [] else [.decompositionAction, .packageCommandComplete] | none => []) ++
    (if d.sched.ctl.getLsbD 0 && !d.sched.ents.isEmpty then (List.range 8).map fun q => .dispatchDecision (Fin.ofNat 8 q) else []) ++
    (d.fab.grps.flatMap fun g => when_ (g.2.on && !g.2.running) (.allreduceRoundStart (Fin.ofNat 64 g.1))) ++
    when_ d.att.signing.isSome .attestationReportSigned ++
    when_ (s.units.toList.any fun x => x.pm.rotateDue) .counterSetRotate ++
    when_ (d.hl.banks.any fun b => !b.rfm.isEmpty) .rfm ++
    when_ (s.units.toList.any UnitSt.tripDue) .battTrip ++
    (if s.memWaits then d.hl.selfRef.map fun n => .selfRefreshExit { k := Fin.ofNat 8 (n / 128), pc := Fin.ofNat 128 n } else [])
/-- The rows that are due before the next clock of a unit; those of the device come with the brim core's. -/
def State.due (s : State) (u : UnitId) : List Instr :=
  if isBrim u then s.devDue ++ s.unitDue u ++ s.carderDue else if u = 0 then s.halveDue ++ s.unitDue u else s.unitDue u
/-- The brim core's clock is the carder's MCK. -/
def State.countMck (s : State) : State :=
  if isBrim s.cur then s.modDev fun d => { d with card := { d.card with mck := d.card.mck + 1 } } else s
/-- The turn passes to the next unit, after the rows that are due for it; past the brim core a clock ends. -/
def State.rotate (s : State) : State :=
  let s := if isBrim s.cur then s.relaunch else s
  let t := { s.countMck with cur := s.cur + 1 }
  { t with agenda := t.agenda ++ t.due t.cur }

/-! ### Placing one instruction where a unit fetches -/
/-- The bytes of one bundle of 112 bytes, w in its low bits, at an address of the I-cache: the lines that cover it. -/
def UnitSt.placeBundle (x : UnitSt) (pc w : Nat) : List ILine :=
  let asid := asidOf x.ck.xlbase
  let lines := (List.range 3).map fun k =>
    let la := (pc / 64 * 64 + 64 * k) % 2 ^ 56
    ({ asid := asid, va := la, bytes := (List.range 64).map fun i =>
        let o := (la + i + 2 ^ 56 - pc) % 2 ^ 56
        if o < 112 then BitVec.ofNat 8 (w / 2 ^ (8 * o)) else (x.icByte (la + i)).getD 0 } : ILine)
  lines ++ x.es.icache.filter fun l => !(l.asid == asid && lines.any fun m => m.va == l.va)
/-- A context on crown 0 for a machine that has none: the record that is all zeros (log 13). -/
def loaderCtx : Ctx := { pool := 0, ent := 0, dx := 0, dy := 0, org := 0, tr := Vector.replicate 8 0 }

end Sys2Proof.Machine
end

