-- ==== Sys2Proof/Machine/Dispatch.lean ====
section
/-! DEFINITION. The dispatch of every row of spec/opcode_table.json to its meaning. -/
namespace Sys2Proof.Machine

def exec (i : Instr) (s : State) : Host.Outcome State Fault Refusal :=
  match i with
  | .powerOnReset a => Sys2Proof.Machine.execPowerOnReset a s
  | .hostLinkTraining a => Sys2Proof.Machine.execHostLinkTraining a s
  | .cxlPortTraining a => Sys2Proof.Machine.execCxlPortTraining a s
  | .bundleInstance a => Sys2Proof.Machine.execBundleInstance a s
  | .dumpComplete a => Sys2Proof.Machine.execDumpComplete a s
  | .segmentBegin => Sys2Proof.Machine.execSegmentBegin s
  | .segmentEnd a => Sys2Proof.Machine.execSegmentEnd a s
  | .marker a => Sys2Proof.Machine.execMarker a s
  | .refetchComplete a => Sys2Proof.Machine.execRefetchComplete a s
  | .nop a => Sys2Proof.Machine.execNop a s
  | .bT a => Sys2Proof.Machine.execBT a s
  | .bF a => Sys2Proof.Machine.execBF a s
  | .j a => Sys2Proof.Machine.execJ a s
  | .jx a => Sys2Proof.Machine.execJx a s
  | .call a => Sys2Proof.Machine.execCall a s
  | .ret a => Sys2Proof.Machine.execRet a s
  | .loop a => Sys2Proof.Machine.execLoop a s
  | .loopp a => Sys2Proof.Machine.execLoopp a s
  | .lexit a => Sys2Proof.Machine.execLexit a s
  | .commit a => Sys2Proof.Machine.execCommit a s
  | .squash a => Sys2Proof.Machine.execSquash a s
  | .exit a => Sys2Proof.Machine.execExit a s
  | .trapi a => Sys2Proof.Machine.execTrapi a s
  | .tret a => Sys2Proof.Machine.execTret a s
  | .waitn a => Sys2Proof.Machine.execWaitn a s
  | .add a => Sys2Proof.Machine.execAdd a s
  | .sub a => Sys2Proof.Machine.execSub a s
  | .mul a => Sys2Proof.Machine.execMul a s
  | .mulh a => Sys2Proof.Machine.execMulh a s
  | .mulhn a => Sys2Proof.Machine.execMulhn a s
  | .div a => Sys2Proof.Machine.execDiv a s
  | .divn a => Sys2Proof.Machine.execDivn a s
  | .rem a => Sys2Proof.Machine.execRem a s
  | .remn a => Sys2Proof.Machine.execRemn a s
  | .and a => Sys2Proof.Machine.execAnd a s
  | .andi a => Sys2Proof.Machine.execAndi a s
  | .or a => Sys2Proof.Machine.execOr a s
  | .ori a => Sys2Proof.Machine.execOri a s
  | .xor a => Sys2Proof.Machine.execXor a s
  | .xori a => Sys2Proof.Machine.execXori a s
  | .andn a => Sys2Proof.Machine.execAndn a s
  | .addi a => Sys2Proof.Machine.execAddi a s
  | .shl a => Sys2Proof.Machine.execShl a s
  | .shli a => Sys2Proof.Machine.execShli a s
  | .shr a => Sys2Proof.Machine.execShr a s
  | .shri a => Sys2Proof.Machine.execShri a s
  | .sar a => Sys2Proof.Machine.execSar a s
  | .sari a => Sys2Proof.Machine.execSari a s
  | .rotl a => Sys2Proof.Machine.execRotl a s
  | .min a => Sys2Proof.Machine.execMin a s
  | .minn a => Sys2Proof.Machine.execMinn a s
  | .max a => Sys2Proof.Machine.execMax a s
  | .maxn a => Sys2Proof.Machine.execMaxn a s
  | .clz a => Sys2Proof.Machine.execClz a s
  | .ctz a => Sys2Proof.Machine.execCtz a s
  | .popc a => Sys2Proof.Machine.execPopc a s
  | .brev a => Sys2Proof.Machine.execBrev a s
  | .bext a => Sys2Proof.Machine.execBext a s
  | .bins a => Sys2Proof.Machine.execBins a s
  | .sext a => Sys2Proof.Machine.execSext a s
  | .zext a => Sys2Proof.Machine.execZext a s
  | .movi a => Sys2Proof.Machine.execMovi a s
  | .sel a => Sys2Proof.Machine.execSel a s
  | .cmp a => Sys2Proof.Machine.execCmp a s
  | .pset a => Sys2Proof.Machine.execPset a s
  | .plog a => Sys2Proof.Machine.execPlog a s
  | .fadd a => Sys2Proof.Machine.execFadd a s
  | .fsub a => Sys2Proof.Machine.execFsub a s
  | .fmul a => Sys2Proof.Machine.execFmul a s
  | .ffma a => Sys2Proof.Machine.execFfma a s
  | .fdiv a => Sys2Proof.Machine.execFdiv a s
  | .fsqrt a => Sys2Proof.Machine.execFsqrt a s
  | .fmin a => Sys2Proof.Machine.execFmin a s
  | .fmax a => Sys2Proof.Machine.execFmax a s
  | .fcmp a => Sys2Proof.Machine.execFcmp a s
  | .fcvt a => Sys2Proof.Machine.execFcvt a s
  | .fclass a => Sys2Proof.Machine.execFclass a s
  | .movcb a => Sys2Proof.Machine.execMovcb a s
  | .movq a => Sys2Proof.Machine.execMovq a s
  | .csrr a => Sys2Proof.Machine.execCsrr a s
  | .csrw a => Sys2Proof.Machine.execCsrw a s
  | .ximm a => Sys2Proof.Machine.execXimm a s
  | .aadd a => Sys2Proof.Machine.execAadd a s
  | .aaddi a => Sys2Proof.Machine.execAaddi a s
  | .amov a => Sys2Proof.Machine.execAmov a s
  | .aget a => Sys2Proof.Machine.execAget a s
  | .amode a => Sys2Proof.Machine.execAmode a s
  | .lds a => Sys2Proof.Machine.execLds a s
  | .sts a => Sys2Proof.Machine.execSts a s
  | .xadr a => Sys2Proof.Machine.execXadr a s
  | .vadd a => Sys2Proof.Machine.execVadd a s
  | .vsub a => Sys2Proof.Machine.execVsub a s
  | .vmul a => Sys2Proof.Machine.execVmul a s
  | .vmulh a => Sys2Proof.Machine.execVmulh a s
  | .vmad a => Sys2Proof.Machine.execVmad a s
  | .vmin a => Sys2Proof.Machine.execVmin a s
  | .vmax a => Sys2Proof.Machine.execVmax a s
  | .vabs a => Sys2Proof.Machine.execVabs a s
  | .vneg a => Sys2Proof.Machine.execVneg a s
  | .vand a => Sys2Proof.Machine.execVand a s
  | .vor a => Sys2Proof.Machine.execVor a s
  | .vxor a => Sys2Proof.Machine.execVxor a s
  | .vnot a => Sys2Proof.Machine.execVnot a s
  | .vshl a => Sys2Proof.Machine.execVshl a s
  | .vshr a => Sys2Proof.Machine.execVshr a s
  | .vsar a => Sys2Proof.Machine.execVsar a s
  | .vclmp a => Sys2Proof.Machine.execVclmp a s
  | .vfadd a => Sys2Proof.Machine.execVfadd a s
  | .vfsub a => Sys2Proof.Machine.execVfsub a s
  | .vfmul a => Sys2Proof.Machine.execVfmul a s
  | .vfma a => Sys2Proof.Machine.execVfma a s
  | .vfmin a => Sys2Proof.Machine.execVfmin a s
  | .vfmax a => Sys2Proof.Machine.execVfmax a s
  | .vfabs a => Sys2Proof.Machine.execVfabs a s
  | .vfneg a => Sys2Proof.Machine.execVfneg a s
  | .vcmp a => Sys2Proof.Machine.execVcmp a s
  | .vfcmp a => Sys2Proof.Machine.execVfcmp a s
  | .vsel a => Sys2Proof.Machine.execVsel a s
  | .vmov a => Sys2Proof.Machine.execVmov a s
  | .vbcast a => Sys2Proof.Machine.execVbcast a s
  | .vext a => Sys2Proof.Machine.execVext a s
  | .viota a => Sys2Proof.Machine.execViota a s
  | .vperm a => Sys2Proof.Machine.execVperm a s
  | .vrot a => Sys2Proof.Machine.execVrot a s
  | .vshuf a => Sys2Proof.Machine.execVshuf a s
  | .vred a => Sys2Proof.Machine.execVred a s
  | .vscan a => Sys2Proof.Machine.execVscan a s
  | .vcvt a => Sys2Proof.Machine.execVcvt a s
  | .vpack a => Sys2Proof.Machine.execVpack a s
  | .vunpk a => Sys2Proof.Machine.execVunpk a s
  | .vrns a => Sys2Proof.Machine.execVrns a s
  | .vcrt a => Sys2Proof.Machine.execVcrt a s
  | .vexp2 a => Sys2Proof.Machine.execVexp2 a s
  | .vlog2 a => Sys2Proof.Machine.execVlog2 a s
  | .vrcp a => Sys2Proof.Machine.execVrcp a s
  | .vrsq a => Sys2Proof.Machine.execVrsq a s
  | .vtanh a => Sys2Proof.Machine.execVtanh a s
  | .vld a => Sys2Proof.Machine.execVld a s
  | .vldFeC a => Sys2Proof.Machine.execVldFeC a s
  | .vldFeK a => Sys2Proof.Machine.execVldFeK a s
  | .vst a => Sys2Proof.Machine.execVst a s
  | .vstF a => Sys2Proof.Machine.execVstF a s
  | .vstE a => Sys2Proof.Machine.execVstE a s
  | .vlds a => Sys2Proof.Machine.execVlds a s
  | .vsts a => Sys2Proof.Machine.execVsts a s
  | .vgth a => Sys2Proof.Machine.execVgth a s
  | .vsct a => Sys2Proof.Machine.execVsct a s
  | .accrd a => Sys2Proof.Machine.execAccrd a s
  | .accwr a => Sys2Proof.Machine.execAccwr a s
  | .feset a => Sys2Proof.Machine.execFeset a s
  | .feclr a => Sys2Proof.Machine.execFeclr a s
  | .feprob a => Sys2Proof.Machine.execFeprob a s
  | .tmma a => Sys2Proof.Machine.execTmma a s
  | .tmmaPkg a => Sys2Proof.Machine.execTmmaPkg a s
  | .tmmaGang a => Sys2Proof.Machine.execTmmaGang a s
  | .tmmas a => Sys2Proof.Machine.execTmmas a s
  | .tmmaP a => Sys2Proof.Machine.execTmmaP a s
  | .tzero a => Sys2Proof.Machine.execTzero a s
  | .tdrain a => Sys2Proof.Machine.execTdrain a s
  | .tload a => Sys2Proof.Machine.execTload a s
  | .ttrn a => Sys2Proof.Machine.execTtrn a s
  | .tjoin a => Sys2Proof.Machine.execTjoin a s
  | .tjoinSum a => Sys2Proof.Machine.execTjoinSum a s
  | .tstop a => Sys2Proof.Machine.execTstop a s
  | .tres a => Sys2Proof.Machine.execTres a s
  | .tprog a => Sys2Proof.Machine.execTprog a s
  | .scw a => Sys2Proof.Machine.execScw a s
  | .scs a => Sys2Proof.Machine.execScs a s
  | .scz a => Sys2Proof.Machine.execScz a s
  | .scsel a => Sys2Proof.Machine.execScsel a s
  | .cpy a => Sys2Proof.Machine.execCpy a s
  | .cpyw a => Sys2Proof.Machine.execCpyw a s
  | .cpyx a => Sys2Proof.Machine.execCpyx a s
  | .cpyf a => Sys2Proof.Machine.execCpyf a s
  | .amoAdd a => Sys2Proof.Machine.execAmoAdd a s
  | .amoMin a => Sys2Proof.Machine.execAmoMin a s
  | .amoMax a => Sys2Proof.Machine.execAmoMax a s
  | .amoAnd a => Sys2Proof.Machine.execAmoAnd a s
  | .amoOr a => Sys2Proof.Machine.execAmoOr a s
  | .amoXor a => Sys2Proof.Machine.execAmoXor a s
  | .amoSwp a => Sys2Proof.Machine.execAmoSwp a s
  | .amoCas a => Sys2Proof.Machine.execAmoCas a s
  | .amoFaddx a => Sys2Proof.Machine.execAmoFaddx a s
  | .flushx a => Sys2Proof.Machine.execFlushx a s
  | .pfh a => Sys2Proof.Machine.execPfh a s
  | .migr a => Sys2Proof.Machine.execMigr a s
  | .cpq a => Sys2Proof.Machine.execCpq a s
  | .cpstop a => Sys2Proof.Machine.execCpstop a s
  | .cpres a => Sys2Proof.Machine.execCpres a s
  | .bari a => Sys2Proof.Machine.execBari a s
  | .bara a => Sys2Proof.Machine.execBara a s
  | .barx a => Sys2Proof.Machine.execBarx a s
  | .barw a => Sys2Proof.Machine.execBarw a s
  | .phaseCommit a => Sys2Proof.Machine.execPhaseCommit a s
  | .phaseOn a => Sys2Proof.Machine.execPhaseOn a s
  | .phaseOff a => Sys2Proof.Machine.execPhaseOff a s
  | .cbwait a => Sys2Proof.Machine.execCbwait a s
  | .fenceAcq a => Sys2Proof.Machine.execFenceAcq a s
  | .fenceRel a => Sys2Proof.Machine.execFenceRel a s
  | .fenceFull a => Sys2Proof.Machine.execFenceFull a s
  | .fenceq a => Sys2Proof.Machine.execFenceq a s
  | .tpost a => Sys2Proof.Machine.execTpost a s
  | .evinc a => Sys2Proof.Machine.execEvinc a s
  | .evwait a => Sys2Proof.Machine.execEvwait a s
  | .tlbi a => Sys2Proof.Machine.execTlbi a s
  | .sldrain a => Sys2Proof.Machine.execSldrain a s
  | .trcon a => Sys2Proof.Machine.execTrcon a s
  | .trcoff a => Sys2Proof.Machine.execTrcoff a s
  | .pmrd a => Sys2Proof.Machine.execPmrd a s
  | .enrd a => Sys2Proof.Machine.execEnrd a s
  | .gangc a => Sys2Proof.Machine.execGangc a s
  | .yield a => Sys2Proof.Machine.execYield a s
  | .vseedWrite a => Sys2Proof.Machine.execVseedWrite a s
  | .preqWrite a => Sys2Proof.Machine.execPreqWrite a s
  | .stopctlStop a => Sys2Proof.Machine.execStopctlStop a s
  | .stopctlGo a => Sys2Proof.Machine.execStopctlGo a s
  | .injhdrWrite a => Sys2Proof.Machine.execInjhdrWrite a s
  | .injectionComplete a => Sys2Proof.Machine.execInjectionComplete a s
  | .mhcfgWrite a => Sys2Proof.Machine.execMhcfgWrite a s
  | .pmctlWrite a => Sys2Proof.Machine.execPmctlWrite a s
  | .cardctlWrite a => Sys2Proof.Machine.execCardctlWrite a s
  | .windowRevoke a => Sys2Proof.Machine.execWindowRevoke a s
  | .fpstatRetrain a => Sys2Proof.Machine.execFpstatRetrain a s
  | .launchWord7Write a => Sys2Proof.Machine.execLaunchWord7Write a s
  | .launchSlotWrite a => Sys2Proof.Machine.execLaunchSlotWrite a s
  | .report => Sys2Proof.Machine.execReport s
  | .extend => Sys2Proof.Machine.execExtend s
  | .attest a => Sys2Proof.Machine.execAttest a s
  | .registerWrite a => Sys2Proof.Machine.execRegisterWrite a s
  | .rcRead a => Sys2Proof.Machine.execRcRead a s
  | .dispatchDecision a => Sys2Proof.Machine.execDispatchDecision a s
  | .saveRecordComplete a => Sys2Proof.Machine.execSaveRecordComplete a s
  | .exitComplete a => Sys2Proof.Machine.execExitComplete a s
  | .staticCharge a => Sys2Proof.Machine.execStaticCharge a s
  | .icacheFill a => Sys2Proof.Machine.execIcacheFill a s
  | .copyElement a => Sys2Proof.Machine.execCopyElement a s
  | .pageWalk a => Sys2Proof.Machine.execPageWalk a s
  | .copyComplete a => Sys2Proof.Machine.execCopyComplete a s
  | .fenceMarkerComplete a => Sys2Proof.Machine.execFenceMarkerComplete a s
  | .evincIncrement a => Sys2Proof.Machine.execEvincIncrement a s
  | .tpostRecordWrite a => Sys2Proof.Machine.execTpostRecordWrite a s
  | .tlbiRemoval a => Sys2Proof.Machine.execTlbiRemoval a s
  | .deferredCauseTaken a => Sys2Proof.Machine.execDeferredCauseTaken a s
  | .killEnd a => Sys2Proof.Machine.execKillEnd a s
  | .watchdog a => Sys2Proof.Machine.execWatchdog a s
  | .cubeStep a => Sys2Proof.Machine.execCubeStep a s
  | .cubeCommandComplete a => Sys2Proof.Machine.execCubeCommandComplete a s
  | .planeWrite a => Sys2Proof.Machine.execPlaneWrite a s
  | .tjoinDrain a => Sys2Proof.Machine.execTjoinDrain a s
  | .decompositionAction => Sys2Proof.Machine.execDecompositionAction s
  | .deliveredCommandStart a => Sys2Proof.Machine.execDeliveredCommandStart a s
  | .packageCommandComplete => Sys2Proof.Machine.execPackageCommandComplete s
  | .migrationStart => Sys2Proof.Machine.execMigrationStart s
  | .declineRecordWrite => Sys2Proof.Machine.execDeclineRecordWrite s
  | .carderChunkRead a => Sys2Proof.Machine.execCarderChunkRead a s
  | .passEnd a => Sys2Proof.Machine.execPassEnd a s
  | .shootdown a => Sys2Proof.Machine.execShootdown a s
  | .shootdownAck => Sys2Proof.Machine.execShootdownAck s
  | .hotnessHalve => Sys2Proof.Machine.execHotnessHalve s
  | .hdmRead a => Sys2Proof.Machine.execHdmRead a s
  | .hdmWrite a => Sys2Proof.Machine.execHdmWrite a s
  | .fabricIngress a => Sys2Proof.Machine.execFabricIngress a s
  | .fabricResponse a => Sys2Proof.Machine.execFabricResponse a s
  | .noResponse a => Sys2Proof.Machine.execNoResponse a s
  | .linkRetry a => Sys2Proof.Machine.execLinkRetry a s
  | .retryStorm a => Sys2Proof.Machine.execRetryStorm a s
  | .portRetrainComplete a => Sys2Proof.Machine.execPortRetrainComplete a s
  | .gangStartAck a => Sys2Proof.Machine.execGangStartAck a s
  | .gangVote a => Sys2Proof.Machine.execGangVote a s
  | .gangCommit a => Sys2Proof.Machine.execGangCommit a s
  | .gangTimeout a => Sys2Proof.Machine.execGangTimeout a s
  | .gangAbort a => Sys2Proof.Machine.execGangAbort a s
  | .killReport a => Sys2Proof.Machine.execKillReport a s
  | .gangRefused a => Sys2Proof.Machine.execGangRefused a s
  | .heldAckTimeout a => Sys2Proof.Machine.execHeldAckTimeout a s
  | .abortDecisionExpiry a => Sys2Proof.Machine.execAbortDecisionExpiry a s
  | .allreduceRoundStart a => Sys2Proof.Machine.execAllreduceRoundStart a s
  | .allreducePartial a => Sys2Proof.Machine.execAllreducePartial a s
  | .allreduceResult a => Sys2Proof.Machine.execAllreduceResult a s
  | .groupRefused a => Sys2Proof.Machine.execGroupRefused a s
  | .powerWindow a => Sys2Proof.Machine.execPowerWindow a s
  | .coolantLimit a => Sys2Proof.Machine.execCoolantLimit a s
  | .governorSample a => Sys2Proof.Machine.execGovernorSample a s
  | .battTrip => Sys2Proof.Machine.execBattTrip s
  | .bmapScrub a => Sys2Proof.Machine.execBmapScrub a s
  | .patrolScrub a => Sys2Proof.Machine.execPatrolScrub a s
  | .remapReload a => Sys2Proof.Machine.execRemapReload a s
  | .rfm => Sys2Proof.Machine.execRfm s
  | .perBankRefresh a => Sys2Proof.Machine.execPerBankRefresh a s
  | .refreshWindowStart a => Sys2Proof.Machine.execRefreshWindowStart a s
  | .selfRefreshEntry a => Sys2Proof.Machine.execSelfRefreshEntry a s
  | .selfRefreshExit a => Sys2Proof.Machine.execSelfRefreshExit a s
  | .counterSetRotate => Sys2Proof.Machine.execCounterSetRotate s
  | .coolantWithinLimits a => Sys2Proof.Machine.execCoolantWithinLimits a s
  | .attestationReportSigned => Sys2Proof.Machine.execAttestationReportSigned s
  | .fabricPortTraining a => Sys2Proof.Machine.execFabricPortTraining a s
  | .hostLinkCompletion a => Sys2Proof.Machine.execHostLinkCompletion a s
  | .hbmTemperatureRangeChange a => Sys2Proof.Machine.execHbmTemperatureRangeChange a s

end Sys2Proof.Machine
end

