-- ==== Sys2Proof/Machine/Step.lean ====
section
/-! DEFINITION. One step: the next row of the agenda, else one clock of the present unit; and the placing of one
instruction where the next step fetches it. -/
namespace Sys2Proof.Machine

/-- The bundle that the present unit issues holds one slot word, and nothing re-issues beside it: its operation, with its
header, trailer and word. A prefix alone is not an operation (R178). -/
def State.soleIssue (s : State) : Option (Instr × Header × Word × Issued) :=
  let x := s.me
  if x.seq.rix != 0 then none
  else
    match x.fetch x.seq.pc.toNat with
    | .miss _ => none
    | .ok h ws tr =>
      match soleOp ws, issueWords x h ws with
      | some (sl, w), [_] =>
        if headerBad (isBrim s.cur) h ws || segmentBad x h then none
        else
          match decodeSlot sl w with
          | .ok (.ximm _) | .ok (.xadr _) | .error _ => none
          | .ok i => some (i, h, tr, { slot := sl, word := w, j := 0, op := opOf i none none s })
      | _, _ => none
/-- An outcome with its next state changed. -/
def andThen (o : Host.Outcome State Fault Refusal) (f : State → State) : Host.Outcome State Fault Refusal :=
  match o with
  | .next s => .next (f s)
  | .fault e => .fault e
  | .refused r => .refused r
/-- A clock of the present unit whose bundle is not a single slot operation. -/
def State.stepClock (s : State) : Host.Outcome State Fault Refusal :=
  andThen (exec (.bundleInstance { u := s.cur }) s) State.rotate
/-- ONE STEP. -/
def step (s : State) : Host.Outcome State Fault Refusal :=
  match s.agenda with
  | i :: rest => exec i { s with agenda := rest }
  | [] =>
    if s.dev.att.failed then .fault .bootStopped
    else if s.me.canIssue then
      match s.startClock.soleIssue with
      | some (i, h, tr, w) => andThen (exec i s.startClock) fun t => (s.startClock.finish t h tr w).rotate
      | none => s.stepClock
    else s.stepClock
/-- The machine with the bundle of at most 112 bytes whose bits are `w` at the PC of crown 0, which is about to issue it
(log 13). -/
def State.withFetchWord (s : State) (_nbits w : Nat) : State :=
  let x := s.unit 0
  let y := { x with
    status := .running, ctx := some (x.ctx.getD loaderCtx),
    seq := { x.seq with rix := 0, stall := 0, runDown := false, skip := false },
    ck := { x.ck with gateRun := 0 },
    phase := { x.phase with closing := none, refetching := none },
    stop := { x.stop with stopped := false },
    es := { x.es with icache := x.placeBundle x.seq.pc.toNat w } }
  { s.setUnit 0 y with agenda := [], cur := 0 }

end Sys2Proof.Machine
end

