-- ==== Sys2Proof/Safety.lean ====
section
/-! DEFINITION. The words of the claims: a run that proceeds, an operation that is performed, what a result put in
flight is, and the exact arithmetic of the S slots as the spec's tables give it. -/
namespace Sys2Proof

/-- The outcome of a step is a next state. -/
def Proceeds (o : Host.Outcome Machine.State Machine.Fault Machine.Refusal) : Prop := ∃ t, o = .next t

namespace Machine

/-- A boosted operation finds room at its level (R384). -/
def State.room (s : State) (b : Boost) : Prop := ∀ l, Boost.lvl b = some l → s.me.boostCount l < 8
/-- The operation is performed and not nullified: its guard is on (R166), and a boosted one finds room at its level. -/
def State.performs (s : State) (b : Boost) (g : Guard) : Prop := s.me.guardOn b g = true ∧ s.room b
/-- The machine with a result in flight and one charge of an energy class. -/
def State.sends (s : State) (c : Fin 16) (r : Result) : State := (s.emit r).charge s.cur c 1
/-- The result of an S operation that writes s[n]: its slot's latch takes it too (R89). -/
def scalarTo (h : SHd) (n : BitVec 6) (lat : Nat) (v : Word) : Result :=
  { slot := if h.slot1 then 2 else 1, bst := h.bst, nw := h.nw, dst := .s (r6 n), lat := lat, val := v.setWidth 4096,
    latch := some (if h.slot1 then .ls1 else .ls0) }
/-- The result of an S operation that writes p[n]: no latch takes it. -/
def predTo (h : SHd) (n : PReg) (lat : Nat) (v : Mask) : Result :=
  { slot := if h.slot1 then 2 else 1, bst := h.bst, nw := h.nw, dst := .p n, lat := lat, val := v.setWidth 4096 }

/-- The result of an S operation that writes s[n] and sets VCTL flags (R68, R211). -/
def scalarFlags (h : SHd) (n : BitVec 6) (lat : Nat) (v : Nat) (fl : FFlags) : Result :=
  { scalarTo h n lat (BitVec.ofNat 64 v) with flags := fl }

/-- The result of a V operation that writes v[n] in the lanes of a mask; its slot's latch takes it too (R89). -/
def vectorTo (s : State) (h : VHd) (n : BitVec 6) (lat : Nat) (m : Mask) (v : VecVal) (fl : FFlags := 0) : Result :=
  { slot := if h.slot1 then 6 else 5, bst := h.bst, nw := h.nw, dst := .v (s.me.phys n), lat := lat, mask := m, val := v,
    latch := some (if h.slot1 then .lv1 else .lv0), flags := fl }
/-- The result of a V operation that writes p[n]. -/
def maskTo (h : VHd) (n : PReg) (lat : Nat) (m : Mask) (v : Mask) (fl : FFlags := 0) : Result :=
  { slot := if h.slot1 then 6 else 5, bst := h.bst, nw := h.nw, dst := .p n, lat := lat, mask := m, val := v.setWidth 4096,
    flags := fl }
/-- Element e of a register in w-bit elements (R219). -/
def el (w : Nat) (v : VecVal) (e : Nat) : BitVec w := v.extractLsb' (w * e) w
/-- A vector value with the given w-bit elements. -/
def HasElements (w : Nat) (v : VecVal) (f : Nat → BitVec w) : Prop := ∀ e < 4096 / w, el w v e = f e
/-- The flags that the active elements of an operation raise (R68). -/
def activeFlags (w : Nat) (m : Mask) (f : Nat → FFlags) : FFlags :=
  (List.range (4096 / w)).foldr (fun e t => if m.getLsbD (eltLane w e) then t ||| f e else t) 0
/-- R80: the fixed pairwise tree; level L combines adjacent results of level L − 1, and `j` counts the results. -/
def pairTree (g : Nat → Nat → Nat × FFlags) (x : Nat → Nat) : Nat → Nat → Nat
  | 0, j => x j
  | l + 1, j => (g (pairTree g x l (2 * j)) (pairTree g x l (2 * j + 1))).1
/-- The flags of every combination of that tree below result `j` of level `l` (R68, R80). -/
def treeFlags (g : Nat → Nat → Nat × FFlags) (x : Nat → Nat) : Nat → Nat → FFlags
  | 0, _ => 0
  | l + 1, j => (g (pairTree g x l (2 * j)) (pairTree g x l (2 * j + 1))).2 ||| treeFlags g x l (2 * j) ||| treeFlags g x l (2 * j + 1)
/-- R81: inclusive prefixes in ascending order, the first combined with the identity. -/
def prefixAt (g : Nat → Nat → Nat × FFlags) (id : Nat) (x : Nat → Nat) : Nat → Nat
  | 0 => (g id (x 0)).1
  | j + 1 => (g (prefixAt g id x j) (x (j + 1))).1
/-- The flags of the combinations up to prefix `j` (R68, R81). -/
def prefixFlags (g : Nat → Nat → Nat × FFlags) (id : Nat) (x : Nat → Nat) : Nat → FFlags
  | 0 => (g id (x 0)).2
  | j + 1 => prefixFlags g id x j ||| (g (prefixAt g id x j) (x (j + 1))).2
/-- An RNS16 element channel by channel (R78): the residues mod 31, 32 and 63. -/
def rnsChannels (f : Nat → Nat → Nat → Nat) (x y : BitVec 16) : BitVec 16 :=
  let c := fun (m : Nat) (a b : Nat) => f m (a % m) (b % m) % m
  BitVec.ofNat 6 (c 63 (fld x 10 6).toNat (fld y 10 6).toNat) ++ BitVec.ofNat 5 (c 32 (fld x 5 5).toNat (fld y 5 5).toNat) ++
    BitVec.ofNat 5 (c 31 (fld x 0 5).toNat (fld y 0 5).toNat)

/-- A w-bit operand read as signed or unsigned (R205). -/
def operandInt (u : Bool) {w : Nat} (x : BitVec w) : Int := if u then x.toNat else x.toInt
/-- The value closest to `r` in the range of a w-bit format (R83). -/
def clampInt (u : Bool) (w : Nat) (r : Int) : Int := max (intMin w u) (min (intMax w u) r)
/-- A w-bit result extended to 64 bits (R205). -/
def extend64 (u : Bool) {w : Nat} (x : BitVec w) : Word := if u then x.setWidth 64 else x.signExtend 64
/-- The low w bits of a source of an S operation. -/
def State.opnd (s : State) (b : Boost) (w : IWidth) (a : SSrc) : BitVec (wBits w) := (s.me.srcS b a).setWidth (wBits w)
/-- The trap of the present unit that a synchronous fault of an operation alone in its bundle takes. -/
def State.traps (s : State) (c : BitVec 8) (slot : Fin 12) (v : Word) : State :=
  s.takeTrap s.cur { code := c, slot := slot.val, tval := v }
/-- The trap of the present unit that a cause of its bundle as a whole takes: SLOT 15 (Table 18.2). -/
def State.bundleTrap (s : State) (c : BitVec 8) (v : Word) : State := s.takeTrap s.cur { code := c, slot := 15, tval := v }
/-- The slot index of an S operation. -/
def scalarSlot (h : SHd) : Fin 12 := if h.slot1 then 2 else 1

/-- The result of an A operation: its slot's latch takes it where `latch` says so (R89). -/
def addrTo (h : SHd) (d : FDest) (lat : Nat) (v : BitVec 32) (latch : Bool := true) : Result :=
  { slot := if h.slot1 then 4 else 3, bst := h.bst, nw := h.nw, dst := d, lat := lat, val := v.setWidth 4096,
    latch := if latch then some (if h.slot1 then .la1 else .la0) else none }
/-- A 16-bit displacement, or the 32-bit one that XADR makes of it (R177, R215). -/
def displacement (d : BitVec 16) : Option (BitVec 16) → BitVec 32
  | none => d.signExtend 32
  | some hi => hi ++ d
/-- An access of a scratch address of the present unit in its own reservation, aligned (R92, R217). -/
def State.mayAccess (s : State) (x n : Nat) : Prop := x % n = 0 ∧ s.me.inRes (isBrim s.cur) x n = true
/-- The clocks that the south face adds on a crown (Table 7.11). -/
def State.southLag (s : State) (x : Nat) : Nat := if s.cur = brim then 0 else if regionOf x = .south then 1 else 0

/-! ### VM accesses (R232–R236) -/
/-- The mask of a VM operation. -/
def State.vmMask (s : State) (h : MHd) : Mask := s.me.rdP h.bst h.pred
/-- x: the effective address of a[AR] at issue (R232). -/
def State.vmBase (s : State) (h : MHd) : Nat := ((s.me.rdA h.bst (r5 h.ar)).ea).toNat
/-- The active lanes with the addresses of their elements, lowest lane first. -/
def laneAddrs (m : Mask) (f : Nat → Int) : List (Nat × Nat) :=
  ((List.range 128).filter fun i => m.getLsbD i).map fun i => (i, (f i % 4294967296).toNat)
/-- The lanes of a row: x + 4i. -/
def State.vmRow (s : State) (h : MHd) : List (Nat × Nat) := laneAddrs (s.vmMask h) fun i => (s.vmBase h : Int) + 4 * i
/-- R232: aligned elements whose bytes lie in face scratch of the reservation, or in the weight buffer for a form that may
read it. -/
def State.bytesOk (s : State) (wb : Bool) (w : Nat) (l : List (Nat × Nat)) : Prop :=
  ∀ e ∈ l, e.2 % w = 0 ∧ ∀ b < w, s.me.inRes false (e.2 + b) 1 = true ∨
    (wb = true ∧ (regionOf (e.2 + b) = .wb0 ∨ regionOf (e.2 + b) = .wb1))
/-- R232 for VLD, VST, FESET, FECLR and FEPROB: nothing is asked of an operation with no active lane. -/
def State.rowOk (s : State) (wb : Bool) (h : MHd) : Prop :=
  s.vmRow h = [] ∨ (s.vmBase h % 16 = 0 ∧ s.bytesOk wb 4 (s.vmRow h) ∧
    ∀ b < 512, regionOf ((s.vmBase h + b) % 2 ^ 32) = regionOf (s.vmBase h))
/-- The post-modification of a VM operation (R232). -/
def State.vmPost (s : State) (h : MHd) : State := if h.pm then s.modMe fun y => y.postMod 7 h.bst (r5 h.ar) else s
/-- The lanes of an access in the south face. -/
def southLanes (l : List (Nat × Nat)) : List (Nat × Nat) := l.filter fun e => regionOf e.2 = .south
/-- The other lanes. -/
def northLanes (l : List (Nat × Nat)) : List (Nat × Nat) := l.filter fun e => regionOf e.2 ≠ .south
/-- An access of lanes queued for `n` clocks from now, if there are any. -/
def UnitSt.laterIf (y : UnitSt) (l : List (Nat × Nat)) (n : Nat) (op : SOp) : UnitSt := if l = [] then y else y.later n op
/-- A VM load (R233): its result lands at `lat`, or two cycles later with a lane in the south face; each lane is read in
the clock of its region, after 2 clocks or, in the south face, 3. -/
def State.vmLoad (s : State) (h : MHd) (dst : BitVec 6) (lat : Nat) (l : List (Nat × Nat)) (w : Nat) (sg : Bool) : State :=
  s.modMe fun y =>
    let r : Result := { slot := 7, bst := h.bst, nw := h.nw, dst := .v (s.me.phys dst), latch := some .lvm, mask := s.vmMask h,
                        lat := if southLanes l = [] then lat else lat + 2 }
    ((y.emit r).laterIf (northLanes l) 2 (.load y.seq.nextId (northLanes l) w sg)).laterIf (southLanes l) 3
      (.load y.seq.nextId (southLanes l) w sg)
/-- The bytes that the lanes of a store write, the lowest lane first. -/
def laneBytes (l : List (Nat × Nat)) (w : Nat) (data : VecVal) : List (Nat × Byte) :=
  l.flatMap fun e => (List.range w).map fun b => (e.2 + b, (el 32 data e.1).extractLsb' (8 * b) 8)
/-- A VM store (R233): each lane is written in the clock of its region, after 3 clocks or, in the south face, 4. -/
def State.vmStore (s : State) (l : List (Nat × Nat)) (w : Nat) (data : VecVal) (fe : Option Bool) : State :=
  let op := fun k => SOp.store (laneBytes k w data) fe (gransOf (k.map Prod.snd))
  s.modMe fun y => (y.laterIf (northLanes l) 3 (op (northLanes l))).laterIf (southLanes l) 4 (op (southLanes l))

/-- What a captured step writes in place of element `l` of row `i` of its slot (R73, R245): its terms added to the incoming
element, or to 0 where the header starts from 0. -/
def ChunkCap.elem (c : ChunkCap) (old : VecVal) (i l : Nat) : BitVec 32 :=
  BitVec.ofNat 32 (chunkSum c.fmtA c.fmtB (termsOf (c.a.getD i []) (c.b.getD l [])) (if c.zero then 0 else (el 32 old l).toNat))

end Machine
end Sys2Proof
end

