-- ==== Sys2Proof/Certificates/Slice0/Obligations.lean ====
section
/-! DEFINITION. The statements. -/
open Sys2Proof Sys2Proof.Machine

/-! ### Scalar slots (R205–R213) -/

/-- R205, Table 8.6: ADD, SUB and MUL compute exactly, saturate when SAT = 1, are reduced to w bits and extended by U; MIN, MAX and
their twins give the lesser and the greater operand.
R205, R207: MULH and MULHN give the floor of the product over 2^w; DIV, DIVN, REM and REMN round the quotient towards zero
when the divisor is not 0. A zero divisor raises DIV_ZERO with the dividend as TVAL when the divide is not boosted; a boosted
divide is issued and holds the fault. -/
def Obligations.ScalarArithmeticAndDivision : Prop :=
  ((∀ (s : State) (a : SArith), s.performs a.h.bst a.h.g →
    let x := operandInt a.u (s.opnd a.h.bst a.w a.a)
    let y := operandInt a.u (s.opnd a.h.bst a.w a.b)
    let res := fun (r : Int) => extend64 a.u (BitVec.ofInt (wBits a.w) (if a.sat then clampInt a.u (wBits a.w) r else r))
    exec (.add a) s = .next (s.sends 1 (scalarTo a.h a.dst 1 (res (x + y)))) ∧
    exec (.sub a) s = .next (s.sends 1 (scalarTo a.h a.dst 1 (res (x - y)))) ∧
    exec (.mul a) s = .next (s.sends 1 (scalarTo a.h a.dst 3 (res (x * y))))) ∧
  (∀ (s : State) (a : STwin) (u : Bool), s.performs a.h.bst a.h.g →
    let x := operandInt u (s.opnd a.h.bst a.w a.a)
    let y := operandInt u (s.opnd a.h.bst a.w a.b)
    let res := fun (r : Int) => Host.Outcome.next (s.sends 1 (scalarTo a.h a.dst 1 (extend64 u (BitVec.ofInt (wBits a.w) r))))
    exec (if u then .minn a else .min a) s = res (if x ≤ y then x else y) ∧
    exec (if u then .maxn a else .max a) s = res (if x ≤ y then y else x))) ∧
  ((∀ (s : State) (a : STwin) (u : Bool), s.performs a.h.bst a.h.g →
    let w := wBits a.w
    let x := operandInt u (s.opnd a.h.bst a.w a.a)
    let y := operandInt u (s.opnd a.h.bst a.w a.b)
    let res := fun (lat : Nat) (r : Int) => Host.Outcome.next (s.sends 1 (scalarTo a.h a.dst lat (extend64 u (BitVec.ofInt w r))))
    exec (if u then .mulhn a else .mulh a) s = res 3 ((x * y) / 2 ^ w) ∧
    (y ≠ 0 → exec (if u then .divn a else .div a) s = res 18 (x.tdiv y) ∧
      exec (if u then .remn a else .rem a) s = res 18 (x.tmod y))) ∧
  (∀ (s : State) (a : STwin) (u : Bool) (i : Instr), i = (if u then .divn a else .div a) ∨ i = (if u then .remn a else .rem a) →
    s.performs a.h.bst a.h.g → s.opnd a.h.bst a.w a.b = 0 →
    let v := extend64 u (s.opnd a.h.bst a.w a.a)
    (a.h.bst = .none → exec i s = .next (s.traps cDIV_ZERO (scalarSlot a.h) v)) ∧
    (a.h.bst ≠ .none → ∃ r : Result, r.held = some (cDIV_ZERO, v) ∧ exec i s = .next (s.sends 1 r))))

/-- R205, R206: the bitwise forms and the shifts; U sets only the extension.
Table 8.6: CLZ and CTZ count leading and trailing zero bits (w for 0), POPC counts the ones, BREV reverses w bits. -/
def Obligations.ScalarLogicShiftsAndCounts : Prop :=
  (∀ (s : State) (a : SLogic), s.performs a.h.bst a.h.g →
    let x := s.opnd a.h.bst a.w a.a
    let y := s.opnd a.h.bst a.w a.b
    let d := (s.me.srcS a.h.bst a.b).toNat % 64
    let res := fun (v : BitVec (wBits a.w)) => Host.Outcome.next (s.sends 1 (scalarTo a.h a.dst 1 (extend64 a.u v)))
    exec (.and a) s = res (x &&& y) ∧ exec (.or a) s = res (x ||| y) ∧ exec (.xor a) s = res (x ^^^ y) ∧
    exec (.andn a) s = res (x &&& ~~~y) ∧ exec (.shl a) s = res (x <<< d) ∧ exec (.shr a) s = res (x >>> d) ∧
    exec (.sar a) s = res (x.sshiftRight d) ∧ exec (.rotl a) s = res (x.rotateLeft (s.me.srcS a.h.bst a.b).toNat)) ∧
  (∀ (s : State) (a : SUn), s.performs a.h.bst a.h.g →
    let w := wBits a.w
    let x := s.opnd a.h.bst a.w a.a
    let res := fun (v : BitVec w) => Host.Outcome.next (s.sends 1 (scalarTo a.h a.dst 1 (extend64 a.u v)))
    (∃ n, exec (.clz a) s = res (BitVec.ofNat w n) ∧ n ≤ w ∧ (∀ j < n, x.getMsbD j = false) ∧ (n < w → x.getMsbD n = true)) ∧
    (∃ n, exec (.ctz a) s = res (BitVec.ofNat w n) ∧ n ≤ w ∧ (∀ j < n, x.getLsbD j = false) ∧ (n < w → x.getLsbD n = true)) ∧
    exec (.popc a) s = res (BitVec.ofNat w ((List.range w).countP fun j => x.getLsbD j)) ∧
    exec (.brev a) s = res x.reverse)

/-- R208, Table 8.8: the immediate forms are 64-bit operations on the sign-extended immediate, or on the 64-bit value of R176 beside
an XIMM; shifts by an immediate and the bit-field forms. -/
def Obligations.ScalarImmediatesAndBitFields : Prop :=
  (∀ (s : State) (a : SImm) (m : SMovi) (x : Option (BitVec 44)), s.performs a.h.bst a.h.g → s.performs m.h.bst m.h.g →
    let y := s.me.srcS a.h.bst a.a
    let imm := fun (i : BitVec 20) => match x with
      | none => i.signExtend 64
      | some hi => hi ++ i
    let res := fun (v : Word) => Host.Outcome.next (s.sends 1 (scalarTo a.h a.dst 1 v))
    (x = none → exec (.addi a) s = res (y + imm a.imm) ∧ exec (.andi a) s = res (y &&& imm a.imm) ∧
      exec (.ori a) s = res (y ||| imm a.imm) ∧ exec (.xori a) s = res (y ^^^ imm a.imm) ∧
      exec (.movi m) s = .next (s.sends 1 (scalarTo m.h m.dst 1 (imm m.imm)))) ∧
    runOp (opAddi a x s) s = res (y + imm a.imm) ∧ runOp (opAndi a x s) s = res (y &&& imm a.imm) ∧
    runOp (opOri a x s) s = res (y ||| imm a.imm) ∧ runOp (opXori a x s) s = res (y ^^^ imm a.imm) ∧
    runOp (opMovi m x s) s = .next (s.sends 1 (scalarTo m.h m.dst 1 (imm m.imm)))) ∧
  (∀ (s : State) (i : SShI) (e : SBext) (b : SBins) (x : SExt),
    (s.performs i.h.bst i.h.g →
      let v := s.me.srcS i.h.bst i.a
      let res := fun (v : Word) => Host.Outcome.next (s.sends 1 (scalarTo i.h i.dst 1 v))
      exec (.shli i) s = res (v <<< i.d.toNat) ∧ exec (.shri i) s = res (v >>> i.d.toNat) ∧
      exec (.sari i) s = res (v.sshiftRight i.d.toNat)) ∧
    (s.performs e.h.bst e.h.g →
      exec (.bext e) s = .next (s.sends 1 (scalarTo e.h e.dst 1
        (((s.me.srcS e.h.bst e.a).extractLsb' e.pos.toNat (e.len1.toNat + 1)).setWidth 64)))) ∧
    (s.performs b.h.bst b.h.g →
      ∃ v : Word, exec (.bins b) s = .next (s.sends 1 (scalarTo b.h b.dst 1 v)) ∧
        ∀ j < 64, v.getLsbD j = if b.pos.toNat ≤ j ∧ j ≤ b.pos.toNat + b.len1.toNat
          then (s.me.srcS b.h.bst b.a).getLsbD (j - b.pos.toNat) else (s.me.srcS b.h.bst b.b).getLsbD j) ∧
    (s.performs x.h.bst x.h.g →
      let v := (s.me.srcS x.h.bst x.a).setWidth (x.len1.toNat + 1)
      exec (.sext x) s = .next (s.sends 1 (scalarTo x.h x.dst 1 (v.signExtend 64))) ∧
      exec (.zext x) s = .next (s.sends 1 (scalarTo x.h x.dst 1 (v.setWidth 64)))))

/-- R209, R210, Table 8.9: CMP gives its relation in every lane, PSET the lanes from L to L + N, PLOG its operation lane
by lane; SEL chooses by bit 0 of p[k]. -/
def Obligations.ScalarPredicates : Prop :=
  ∀ (s : State) (c : SCmp) (p : SPset) (l : SPlog) (e : SSel),
    (s.performs c.h.bst c.h.g →
      let x := s.opnd c.h.bst c.w c.a
      let y := s.opnd c.h.bst c.w c.b
      let rel : Bool := match c.cond with
        | .eq => x == y | .ne => x != y | .lt => x.slt y | .ge => y.sle x | .ltn => x.ult y | .gen => y.ule x
        | .le => x.sle y | .gt => y.slt x | .len => x.ule y | .gtn => y.ult x
      exec (.cmp c) s = .next (s.sends 1 (predTo c.h c.dst 1 (if rel then BitVec.allOnes 128 else 0)))) ∧
    (s.performs p.h.bst p.h.g →
      ∃ m : Mask, exec (.pset p) s = .next (s.sends 1 (predTo p.h p.dst 1 m)) ∧
        let lo := (s.me.srcS p.h.bst p.a).toNat + p.lo.toNat
        let n := (s.me.srcS p.h.bst p.b).toNat + p.ni.toNat
        ∀ i < 128, m.getLsbD i = decide (lo ≤ i ∧ i < lo + n)) ∧
    (s.performs l.h.bst l.h.g →
      ∃ m : Mask, exec (.plog l) s = .next (s.sends 1 (predTo l.h l.dst 1 m)) ∧
        ∀ i < 128, let x := (s.me.rdP l.h.bst l.a).getLsbD i
          let y := (s.me.rdP l.h.bst l.b).getLsbD i
          m.getLsbD i = match l.op with
            | .and => x && y | .or => x || y | .xor => x ^^ y | .andn => x && !y | .not => !x | .mov => x) ∧
    (s.performs e.h.bst e.h.g →
      exec (.sel e) s = .next (s.sends 1 (scalarTo e.h e.dst 1
        (if (s.me.rdP e.h.bst e.k).getLsbD 0 then s.me.srcS e.h.bst e.a else s.me.srcS e.h.bst e.b))))

/-- R82, R211, Table 8.10: the scalar floating-point forms round once in the mode in effect and set their flags; the
operand is the low bits of its register. DYN with VCTL.DRM = SR is illegal (R62). Every form but FCLASS applies VCTL.FTZ; a widening
FCVT whose result is subnormal is flushed too (the model's choice, log 57). -/
def Obligations.ScalarFloat : Prop :=
  ∀ (s : State) (a : SFp2) (c : SFp3) (q : SFp1) (m : SFmm) (p : SFcmp) (v : SFcvt) (k : SFclass),
    let opd := fun (b : Boost) (f : Fmt) (r : SSrc) => (s.me.srcS b r).toNat % 2 ^ f.bits
    let res := fun (h : SHd) (d : BitVec 6) (lat : Nat) (r : Nat × FFlags) =>
      Host.Outcome.next (s.sends 1 (scalarFlags h d lat r.1 r.2))
    (s.performs a.h.bst a.h.g → s.me.drmBad a.rm = false →
      let x := opd a.h.bst a.fmt a.a
      let y := opd a.h.bst a.fmt a.b
      let e := s.me.env a.rm
      exec (.fadd a) s = res a.h a.dst 4 (fAdd a.fmt e x y) ∧ exec (.fsub a) s = res a.h a.dst 4 (fSub a.fmt e x y) ∧
      exec (.fmul a) s = res a.h a.dst 6 (fMul a.fmt e x y) ∧ exec (.fdiv a) s = res a.h a.dst 18 (fDiv a.fmt e x y)) ∧
    (s.performs a.h.bst a.h.g → s.me.drmBad a.rm = true → a.h.bst = .none → ∀ i, i = .fadd a ∨ i = .fsub a ∨ i = .fmul a ∨ i = .fdiv a →
      exec i s = .next (s.traps cILLEGAL_OPERAND (scalarSlot a.h) (wordOf i))) ∧
    (s.performs c.h.bst c.h.g → s.me.drmBad c.rm = false → exec (.ffma c) s = res c.h c.dst 6
      (fFma c.fmt (s.me.env c.rm) (opd c.h.bst c.fmt c.a) (opd c.h.bst c.fmt c.b) (opd c.h.bst c.fmt c.c))) ∧
    (s.performs q.h.bst q.h.g → s.me.drmBad q.rm = false →
      exec (.fsqrt q) s = res q.h q.dst 18 (fSqrt q.fmt (s.me.env q.rm) (opd q.h.bst q.fmt q.a))) ∧
    (s.performs m.h.bst m.h.g →
      exec (.fmin m) s = res m.h m.dst 4 (fMinMax m.fmt s.me.ftz false (opd m.h.bst m.fmt m.a) (opd m.h.bst m.fmt m.b)) ∧
      exec (.fmax m) s = res m.h m.dst 4 (fMinMax m.fmt s.me.ftz true (opd m.h.bst m.fmt m.a) (opd m.h.bst m.fmt m.b))) ∧
    (s.performs p.h.bst p.h.g →
      let r := fCompare p.fmt p.cond (opd p.h.bst p.fmt p.a) (opd p.h.bst p.fmt p.b)
      exec (.fcmp p) s = .next (s.sends 1 { predTo p.h p.dst 4 (if r.1 then BitVec.allOnes 128 else 0) with flags := r.2 })) ∧
    (s.performs v.h.bst v.h.g → s.me.drmBad v.rm = false →
      let r := convert v.dfmt v.sfmt (s.me.rmOf v.rm) v.sat s.me.ftz 0 (opd v.h.bst v.sfmt v.a)
      exec (.fcvt v) s = .next (s.sends 1 { scalarTo v.h v.dst 4 (if v.dfmt.isSigned
        then (BitVec.ofNat v.dfmt.bits r.1).signExtend 64 else BitVec.ofNat 64 r.1) with flags := r.2 })) ∧
    (s.performs k.h.bst k.h.g → exec (.fclass k) s = res k.h k.dst 2 (fClass k.fmt (opd k.h.bst k.fmt k.a), 0))

/-! ### Vector slots (R219–R230) -/

/-- R222, Table 9.2: integer element arithmetic, exact before reduction or saturation; rns16 works channel by channel
(R78). -/
def Obligations.VectorInteger : Prop :=
  ∀ (s : State) (a : VInt2S) (b : VInt2) (c : VInt3S) (d : VInt3) (e : VInt1S),
    let src := fun (h : VHd) (x : VSrc) => s.me.srcV h.bst x
    let gives := fun (i : Instr) (h : VHd) (dst : BitVec 6) (lat w : Nat) (f : Nat → BitVec w) =>
      ∃ v, exec i s = .next (s.sends 2 (vectorTo s h dst lat (s.me.rdP h.bst h.pred) v)) ∧ HasElements w v f
    (s.room a.h.bst → a.fmt.inIW = true →
      let w := a.fmt.bits
      let u := a.fmt.isUnsigned
      let x := fun e => operandInt u (el w (src a.h a.a) e)
      let y := fun e => operandInt u (el w (src a.h a.b) e)
      let r := fun (z : Int) => BitVec.ofInt w (if a.sat then clampInt u w z else z)
      gives (.vadd a) a.h a.dst 3 w (fun e => r (x e + y e)) ∧ gives (.vsub a) a.h a.dst 3 w (fun e => r (x e - y e)) ∧
      gives (.vmul a) a.h a.dst 6 w (fun e => r (x e * y e))) ∧
    (s.room a.h.bst → a.fmt = .rns16 →
      let x := el 16 (src a.h a.a)
      let y := el 16 (src a.h a.b)
      gives (.vadd a) a.h a.dst 3 16 (fun e => rnsChannels (fun _ p q => p + q) (x e) (y e)) ∧
      gives (.vsub a) a.h a.dst 3 16 (fun e => rnsChannels (fun m p q => p + m - q) (x e) (y e)) ∧
      gives (.vmul a) a.h a.dst 6 16 (fun e => rnsChannels (fun _ p q => p * q) (x e) (y e))) ∧
    (s.room b.h.bst → b.fmt.inIW = true →
      let w := b.fmt.bits
      let u := b.fmt.isUnsigned
      let x := el w (src b.h b.a)
      let y := el w (src b.h b.b)
      let xi := fun e => operandInt u (x e)
      let yi := fun e => operandInt u (y e)
      gives (.vmulh b) b.h b.dst 6 w (fun e => BitVec.ofInt w (xi e * yi e / 2 ^ w)) ∧
      gives (.vmin b) b.h b.dst 3 w (fun e => BitVec.ofInt w (min (xi e) (yi e))) ∧
      gives (.vmax b) b.h b.dst 3 w (fun e => BitVec.ofInt w (max (xi e) (yi e))) ∧
      gives (.vshl b) b.h b.dst 3 w (fun e => x e <<< (y e).toNat) ∧ gives (.vshr b) b.h b.dst 3 w (fun e => x e >>> (y e).toNat) ∧
      gives (.vsar b) b.h b.dst 3 w (fun e => (x e).sshiftRight (y e).toNat)) ∧
    (s.room c.h.bst → c.fmt.inIW = true →
      let w := c.fmt.bits
      let u := c.fmt.isUnsigned
      let v := fun (r : VSrc) e => operandInt u (el w (src c.h r) e)
      gives (.vmad c) c.h c.dst 6 w (fun e =>
        BitVec.ofInt w (let z := v c.a e * v c.b e + v c.c e; if c.sat then clampInt u w z else z))) ∧
    (s.room d.h.bst → d.fmt.inIW = true →
      let w := d.fmt.bits
      let v := fun (r : VSrc) e => operandInt d.fmt.isUnsigned (el w (src d.h r) e)
      gives (.vclmp d) d.h d.dst 3 w (fun e => BitVec.ofInt w (min (max (v d.a e) (v d.b e)) (v d.c e)))) ∧
    (s.room e.h.bst → e.fmt.inIW = true →
      let w := e.fmt.bits
      let u := e.fmt.isUnsigned
      let x := fun i => operandInt u (el w (src e.h e.a) i)
      let r := fun (z : Int) => BitVec.ofInt w (if e.sat then clampInt u w z else z)
      gives (.vabs e) e.h e.dst 3 w (fun i => r (|x i|)) ∧ gives (.vneg e) e.h e.dst 3 w (fun i => r (-x i)))

/-- R222, R224, R225, Tables 9.2, 9.5, 9.6: whole-lane logic, selection and movement, lane by lane. -/
def Obligations.VectorLogicAndMovement : Prop :=
  ∀ (s : State) (a : VLane2) (n : VLane1) (c : VSel) (b : VBcast) (x : VExt) (i : VIota) (r : VRot) (f : VShuf),
    let src := fun (h : VHd) (x : VSrc) => s.me.srcV h.bst x
    let ln := fun (h : VHd) (x : VSrc) (k : Nat) => el 32 (src h x) k
    let gives := fun (i : Instr) (h : VHd) (dst : BitVec 6) (lat w : Nat) (m : Mask) (f : Nat → BitVec w) =>
      ∃ v, exec i s = .next (s.sends 2 (vectorTo s h dst lat m v)) ∧ HasElements w v f
    let pred := fun (h : VHd) => s.me.rdP h.bst h.pred
    (s.room a.h.bst →
      gives (.vand a) a.h a.dst 3 32 (pred a.h) (fun k => ln a.h a.a k &&& ln a.h a.b k) ∧
      gives (.vor a) a.h a.dst 3 32 (pred a.h) (fun k => ln a.h a.a k ||| ln a.h a.b k) ∧
      gives (.vxor a) a.h a.dst 3 32 (pred a.h) (fun k => ln a.h a.a k ^^^ ln a.h a.b k) ∧
      gives (.vperm a) a.h a.dst 5 32 (pred a.h) (fun k => ln a.h a.a ((ln a.h a.b k).toNat % 128))) ∧
    (s.room n.h.bst → gives (.vnot n) n.h n.dst 3 32 (pred n.h) (fun k => ~~~ln n.h n.a k) ∧
      gives (.vmov n) n.h n.dst 3 32 (pred n.h) (ln n.h n.a)) ∧
    (s.room c.h.bst → gives (.vsel c) c.h c.dst 3 32 (pred c.h) (fun k =>
      if (s.me.rdP c.h.bst c.selp).getLsbD k then ln c.h c.a k else ln c.h c.b k)) ∧
    (s.room b.h.bst → gives (.vbcast b) b.h b.dst 3 b.fmt.bits
      (if b.fmt.bits = 64 then mask64 (pred b.h) else pred b.h) (fun _ => el b.fmt.bits (src b.h b.a) b.idx.toNat)) ∧
    (s.room x.h.bst → gives (.vext x) x.h x.dst 3 32 (pred x.h) (fun k =>
      if k + x.k.toNat < 128 then ln x.h x.a (k + x.k.toNat) else ln x.h x.b (k + x.k.toNat - 128))) ∧
    (s.room i.h.bst → i.fmt.inIW = true →
      gives (.viota i) i.h i.dst 3 i.fmt.bits (pred i.h) (fun e => BitVec.ofNat i.fmt.bits (i.base.toNat + e))) ∧
    (s.room r.h.bst → gives (.vrot r) r.h r.dst 5 32 (pred r.h) (fun k => ln r.h r.a ((k + r.k.toNat) % 128))) ∧
    (s.room f.h.bst → gives (.vshuf f) f.h f.dst 3 32 (pred f.h) (fun k => ln f.h f.a
      (match f.mode with
      | .xor => k / 16 * 16 + (k % 16 ^^^ f.m.toNat)
      | .rot => k / 16 * 16 + (k % 16 + f.m.toNat) % 16
      | .bc => k / 16 * 16 + f.m.toNat
      | .clx => (k / 16 ^^^ f.m.toNat % 8) * 16 + k % 16)))

/-- R223, Table 9.3: floating-point elements, one rounding each, with the flags of the active elements; VFABS and VFNEG clear or
invert the sign bit and raise no flag; every other form applies VCTL.FTZ. R224, Table 9.4: VCMP relates 32-bit lanes, VFCMP f32 or f64 elements (an f64 relation
fills both bits of its element). R230: the special functions, issued in V1, round their exact value once; latency 12
(the exact value as log 5 computes it). -/
def Obligations.VectorFloat : Prop :=
  (∀ (s : State) (a : VFp2) (c : VFp3) (m : VFmm) (g : VFsg),
    let gives := fun (i : Instr) (h : VHd) (dst : BitVec 6) (lat : Nat) (cls : Fin 16) (fmt : Fmt) (f : Nat → Nat × FFlags) =>
      let p := s.me.rdP h.bst h.pred
      ∃ v, exec i s = .next (s.sends cls (vectorTo s h dst lat (if fmt.bits = 64 then mask64 p else p) v
        (activeFlags fmt.bits p fun e => (f e).2))) ∧ HasElements fmt.bits v fun e => BitVec.ofNat fmt.bits (f e).1
    let x := fun (h : VHd) (fmt : Fmt) (r : VSrc) (e : Nat) => (el fmt.bits (s.me.srcV h.bst r) e).toNat
    (s.room a.h.bst → a.fmt.inFA = true → s.me.drmBad a.rm = false →
      let v := s.me.env a.rm
      gives (.vfadd a) a.h a.dst 4 3 a.fmt (fun e => fAdd a.fmt v (x a.h a.fmt a.a e) (x a.h a.fmt a.b e)) ∧
      gives (.vfsub a) a.h a.dst 4 3 a.fmt (fun e => fSub a.fmt v (x a.h a.fmt a.a e) (x a.h a.fmt a.b e)) ∧
      gives (.vfmul a) a.h a.dst 6 3 a.fmt (fun e => fMul a.fmt v (x a.h a.fmt a.a e) (x a.h a.fmt a.b e))) ∧
    (s.room c.h.bst → c.fmt.inFA = true → s.me.drmBad c.rm = false →
      gives (.vfma c) c.h c.dst 6 3 c.fmt (fun e =>
        fFma c.fmt (s.me.env c.rm) (x c.h c.fmt c.a e) (x c.h c.fmt c.b e) (x c.h c.fmt c.c e))) ∧
    (s.room m.h.bst → m.fmt.inFA = true →
      gives (.vfmin m) m.h m.dst 4 3 m.fmt (fun e => fMinMax m.fmt s.me.ftz false (x m.h m.fmt m.a e) (x m.h m.fmt m.b e)) ∧
      gives (.vfmax m) m.h m.dst 4 3 m.fmt (fun e => fMinMax m.fmt s.me.ftz true (x m.h m.fmt m.a e) (x m.h m.fmt m.b e))) ∧
    (s.room g.h.bst → g.fmt.inFA = true →
      gives (.vfabs g) g.h g.dst 3 2 g.fmt (fun e => (x g.h g.fmt g.a e % 2 ^ (g.fmt.bits - 1), 0)) ∧
      gives (.vfneg g) g.h g.dst 3 2 g.fmt (fun e => (x g.h g.fmt g.a e ^^^ 2 ^ (g.fmt.bits - 1), 0)))) ∧
  (∀ (s : State) (a : VCmp) (b : VFcmp),
    (s.room a.h.bst →
      let x := el 32 (s.me.srcV a.h.bst a.a)
      let y := el 32 (s.me.srcV a.h.bst a.b)
      ∃ m, exec (.vcmp a) s = .next (s.sends 2 (maskTo a.h a.dst 3 (s.me.rdP a.h.bst a.h.pred) m)) ∧
        ∀ k < 128, m.getLsbD k = match a.cond with
          | .eq => x k == y k | .ne => x k != y k | .lt => (x k).slt (y k) | .ge => (y k).sle (x k) | .ltn => (x k).ult (y k)
          | .gen => (y k).ule (x k) | .le => (x k).sle (y k) | .gt => (y k).slt (x k) | .len => (x k).ule (y k)
          | .gtn => (y k).ult (x k)) ∧
    (s.room b.h.bst → b.fmt = .f32 ∨ b.fmt = .f64 →
      let w := b.fmt.bits
      let p := s.me.rdP b.h.bst b.h.pred
      let r := fun e => fCompare b.fmt b.cond (el w (s.me.srcV b.h.bst b.a) e).toNat (el w (s.me.srcV b.h.bst b.b) e).toNat
      ∃ m, exec (.vfcmp b) s = .next (s.sends 3 (maskTo b.h b.dst 4 (if w = 64 then mask64 p else p) m
          (activeFlags w p fun e => (r e).2))) ∧
        ∀ k < 128, m.getLsbD k = (r (k * 32 / w)).1)) ∧
  (∀ (s : State) (a : VSpec), s.room a.bst → s.me.drmBad a.rm = false → a.fmt.inSpec = true →
    let h : VHd := { slot1 := true, pred := a.pred, bst := a.bst, nw := a.nw, step := a.step }
    let m := s.me.rdP a.bst a.pred
    let w := a.fmt.bits
    let gives := fun (i : Instr) (g : FVal → FVal × FFlags) =>
      let r := fun e => fSpecial g a.fmt (s.me.env a.rm) (el w (s.me.srcV a.bst a.a) e).toNat
      ∃ v, exec i s = .next (s.sends 4 (vectorTo s h a.dst 12 m v (activeFlags w m fun e => (r e).2))) ∧
        HasElements w v fun e => BitVec.ofNat w (r e).1
    gives (.vexp2 a) exp2V ∧ gives (.vlog2 a) log2V ∧ gives (.vrcp a) rcpV ∧ gives (.vrsq a) rsqV ∧ gives (.vtanh a) tanhV)

/-- R80, R81, R226: VRED combines the lanes of its scope in the fixed pairwise tree and writes the result to every active
lane; VSCAN writes inclusive prefixes to every lane; an inactive lane enters as the identity. Every f32 combination, MIN and MAX among
them, rounds with VCTL.FTZ. R62, R68: the flags are those of all the combinations. -/
def Obligations.VectorReductions : Prop :=
  ∀ (s : State) (a : VRedF), s.room a.h.bst → s.me.drmBad a.rm = false →
    let m := s.me.rdP a.h.bst a.h.pred
    let n := if a.cl then 16 else 128
    let g := redOp a.fmt a.op (s.me.env a.rm)
    let x := fun j => if m.getLsbD j then (el 32 (s.me.srcV a.h.bst a.a) j).toNat else redId a.fmt a.op
    let cls : Fin 16 := if a.fmt = .f32 then 3 else 2
    let all := fun (f : Nat → FFlags) => (List.range (128 / n)).foldr (fun k t => f k ||| t) 0
    (∃ v, exec (.vred a) s = .next (s.sends cls (vectorTo s a.h a.dst
        (if a.fmt = .f32 then (if a.cl then 16 else 28) else (if a.cl then 12 else 21)) m v (all (treeFlags g x (if a.cl then 4 else 7))))) ∧
      HasElements 32 v fun i => BitVec.ofNat 32 (pairTree g x (if a.cl then 4 else 7) (i / n))) ∧
    (∃ v, exec (.vscan a) s = .next (s.sends cls
        { vectorTo s a.h a.dst (if a.cl then 20 else 132) (BitVec.allOnes 128) v
            (all fun k => prefixFlags g (redId a.fmt a.op) (fun j => x (k * n + j)) (n - 1)) with
          latch := if m = 0 then none else some (if a.h.slot1 then .lv1 else .lv0) }) ∧
      HasElements 32 v fun i => BitVec.ofNat 32 (prefixAt g (redId a.fmt a.op) (fun j => x (i / n * n + j)) (i % n)))

/-- R64, R227–R229: VCVT converts every element in the mode in effect, drawing once for each active element under SR; VPACK and
VUNPK move w-bit parts; VRNS and VCRT convert between i32 and residue triples, and VCRT gives back every integer in
[−31,248, 31,247] (R79). With VCTL.FTZ = 1 a widening VCVT whose result is subnormal is flushed (the model's choice, log 57). -/
def Obligations.VectorConversions : Prop :=
  (∀ (s : State) (a : VCvt) (p : VPackF) (u : VUnpkF) (r : VLane1),
    (s.room a.h.bst →
      let m := s.me.rdP a.h.bst a.h.pred
      let wide := a.dfmt.bits = 64 ∨ a.sfmt.bits = 64
      let w := if wide then 64 else 32
      let m' := if wide then mask64 m else m
      let sr := s.me.rmOf a.rm = .sr
      let t := if sr then s.modMe fun y =>
          { y with fp := y.fp.draw fun i => m'.getLsbD i && (decide (w = 32) || i % 2 == 0) } else s
      let cv := fun e => convert a.dfmt a.sfmt (s.me.rmOf a.rm) a.sat s.me.ftz (t.me.fp.rnd (e * w / 32))
        (if a.sfmt.bits = 64 then (el w (s.me.srcV a.h.bst a.a) e).toNat else (el w (s.me.srcV a.h.bst a.a) e).toNat % 2 ^ 32)
      ∃ v, exec (.vcvt a) s = .next (t.sends 3 (vectorTo s a.h a.dst 4 m' v (activeFlags w m fun e => (cv e).2))) ∧
        HasElements w v fun e => if a.dfmt.bits = 64 then BitVec.ofNat w (cv e).1 else
          (if a.dfmt.isSigned then (BitVec.ofNat a.dfmt.bits (cv e).1).signExtend 32 else BitVec.ofNat 32 (cv e).1).setWidth w) ∧
    (s.room p.h.bst →
      let w := p.w.bits
      let n := 32 / w
      let lo := p.q.toNat * (128 / n)
      ∃ v mk, exec (.vpack p) s = .next (s.sends 2 (vectorTo s p.h p.dst 3 mk v)) ∧
        (∀ l < 128, mk.getLsbD l = ((s.me.rdP p.h.bst p.h.pred).getLsbD l && decide (lo ≤ l ∧ l < lo + 128 / n))) ∧
        ∀ i < 128, lo * n + i < 4096 / w → el w v (lo * n + i) =
          (let x := (el 32 (s.me.srcV p.h.bst p.a) i).setWidth p.fmt.bits
           if p.sat && !p.fmt.isFloat && p.fmt != .rns16
           then BitVec.ofInt w (clampInt p.fmt.isUnsigned w (operandInt p.fmt.isUnsigned x)) else x.setWidth w)) ∧
    (s.room u.h.bst →
      ∃ v, exec (.vunpk u) s = .next (s.sends 2 (vectorTo s u.h u.dst 3 (s.me.rdP u.h.bst u.h.pred) v)) ∧
        HasElements 32 v fun i =>
          let x := el u.w.bits (s.me.srcV u.h.bst u.a) (u.q.toNat * 128 + i)
          if u.fmt.isSigned then x.signExtend 32 else x.setWidth 32) ∧
    (s.room r.h.bst →
      (∃ v, exec (.vrns r) s = .next (s.sends 2 (vectorTo s r.h r.dst 6 (s.me.rdP r.h.bst r.h.pred) v)) ∧
        HasElements 32 v fun i => let x := (el 32 (s.me.srcV r.h.bst r.a) i).toInt
          BitVec.ofInt 32 (x % 31 + x % 32 * 32 + x % 63 * 1024)) ∧
      (∃ v, exec (.vcrt r) s = .next (s.sends 2 (vectorTo s r.h r.dst 6 (s.me.rdP r.h.bst r.h.pred) v)) ∧
        HasElements 32 v fun i => let e := el 32 (s.me.srcV r.h.bst r.a) i
          let x : Int := ((fld e 0 5).toNat % 31 * 2016 + (fld e 5 5).toNat * 1953 + (fld e 10 6).toNat % 63 * 58528 : Nat) % 62496
          BitVec.ofInt 32 (if 31248 ≤ x then x - 62496 else x)))) ∧
  (∀ x : Int, -31248 ≤ x → x ≤ 31247 → rnsTo (rnsOf x) = x ∧ rnsOf x < 2 ^ 16)

/-! ### Staging registers, CSRs, address registers and scalar scratch accesses (R212–R217) -/

/-- R176, R177, R190: the prefixes XIMM and XADR are no operations of their own; NOP does nothing, and in a sticky slot it
releases that slot alone (R171).
R212: MOVCB and MOVQ write a staging register, one schedule cycle later; with NW the latch alone takes the value, the slot's own (the
model's reading, logs 6 and 9). R213, R298: CSRR reads the register that its number
names and clears its read-to-clear fields; CSRW puts the write in flight for issue + 1. A number that names no register raises
BAD_CSR; a privileged write without PRIV raises PRIVILEGE; a CSRW of VCTL whose value has DRM 6 or 7 is illegal (R385). When the write
lands, the register that it names holds the fields that its table gives as writable (R68, R109, R350, R374, Tables 3.6, 4.7, 4.9, 4.10, 6.6–6.8, 11.14, 12.3,
14.2–14.12, 15.4, 19.4; ACT of TRGA is not kept: the model's choice, log 68), a locked one what it held, a read-only one is unchanged, and no other
unit, no result, no register file and no memory changes. -/
def Obligations.PrefixesStagingAndCsrAccess : Prop :=
  (∀ (s : State) (x : XimmArg) (y : XadrArg) (n : Fin 12),
    exec (.ximm x) s = .next s ∧ exec (.xadr y) s = .next s ∧
    (stickyIdx n = none → exec (.nop n) s = .next s) ∧
    ∀ k, stickyIdx n = some k → ∃ t : State, exec (.nop n) s = .next t ∧ t.dev = s.dev ∧ t.cur = s.cur ∧
      (∀ u, u ≠ s.cur → t.unit u = s.unit u) ∧
      t.me = { s.me with seq := { s.me.seq with sticky := t.me.seq.sticky } } ∧
      (t.me.seq.sticky[k]).released = true ∧ ∀ j : Fin 4, j ≠ k → t.me.seq.sticky[j] = s.me.seq.sticky[j]) ∧
  ((∀ (s : State) (b : SMovCb) (q : SMovQ),
    let slot := fun (one : Bool) => if one then (2 : Fin 12) else 1
    let latch := fun (one : Bool) => some (if one then Latch.ls1 else .ls0)
    (s.me.guardOn .none b.g = true → exec (.movcb b) s = .next (s.sends 1
      { slot := slot b.slot1, nw := b.nw, dst := .cb (Fin.ofNat 16 b.dst.toNat), lat := 1, val := (s.me.srcS .none b.a).setWidth 4096,
        latch := latch b.slot1 })) ∧
    (s.me.guardOn .none q.g = true → exec (.movq q) s = .next (s.sends 1
      { slot := slot q.slot1, nw := q.nw, dst := .cq (Fin.ofNat 32 q.dst.toNat), lat := 1, val := (s.me.srcS .none q.a).setWidth 4096,
        latch := latch q.slot1 }))) ∧
  (∀ (s : State) (r : SCsrr) (w : SCsrw),
    let brimU := isBrim s.cur
    (s.performs r.h.bst r.h.g →
      let n := r.csr.toNat
      (csrExists brimU n = true → exec (.csrr r) s = .next
        (((s.emit (scalarTo r.h r.dst 2 (s.csrRead s.cur n))).csrClear s.cur n).charge s.cur 1 1)) ∧
      (csrExists brimU n = false → r.h.bst = .none →
        exec (.csrr r) s = .next (s.traps cBAD_CSR (scalarSlot r.h) (BitVec.ofNat 64 n)))) ∧
    (s.me.guardOn .none w.g = true →
      let n := w.csr.toNat
      let v := s.me.srcS .none w.a
      let slot : Fin 12 := if w.slot1 then 2 else 1
      let badDrm := n = 0 ∧ s.cur ≠ brim ∧ 6 ≤ (fld v 0 3).toNat
      (¬badDrm → csrExists brimU n = true → (csrPriv n = true → (s.desc s.cur).priv = true) →
        exec (.csrw w) s = .next (s.sends 1 { slot := slot, dst := .csr w.csr, lat := 1, val := v.setWidth 4096 })) ∧
      (badDrm → exec (.csrw w) s = .next (s.traps cILLEGAL_OPERAND slot (wordOf (.csrw w)))) ∧
      (csrExists brimU n = false → exec (.csrw w) s = .next (s.traps cBAD_CSR slot (BitVec.ofNat 64 n))) ∧
      (n ≠ 0 → csrExists brimU n = true → csrPriv n = true → (s.desc s.cur).priv = false →
        exec (.csrw w) s = .next (s.traps cPRIVILEGE slot (wordOf (.csrw w)))))) ∧
  (∀ (s : State) (u : UnitId) (f : Flight) (n : BitVec 12), f.dst = .csr n → f.latch = none →
    let x := s.unit u
    let t := s.land u f
    let y := t.unit u
    let v : Word := f.val.setWidth 64
    let among := fun (lo hi : Nat) => lo ≤ n.toNat ∧ n.toNat ≤ hi
    (t.agenda = s.agenda ∧ t.cur = s.cur ∧ t.free = s.free ∧ t.dev.mem = s.dev.mem ∧ (∀ w, w ≠ u → t.unit w = s.unit w) ∧
      y.regs = x.regs ∧ y.lat = x.lat ∧ y.seq = x.seq ∧ y.st = x.st ∧ y.es = x.es ∧ y.bars = x.bars ∧ y.cube = x.cube) ∧
    (among 2 3 ∨ among 8 0x10 ∨ among 0x17 0x4B ∨ among 0x58 0x67 ∨ n = 0x104 ∨ n = 0x182 ∨ n = 0x194 ∨ among 0x200 0x240 → t = s) ∧
    ((n = 0 → ∀ i < 32, y.fp.vctl.getLsbD i =
        if i < 4 then v.getLsbD i else decide (11 ≤ i ∧ i < 16) && x.fp.vctl.getLsbD i && !v.getLsbD i) ∧
      (n = 1 → ∀ i : Fin 128, let z := v.setWidth 32 ^^^ (0x9E3779B9#32 * BitVec.ofNat 32 (i.val + 1)); y.fp.gens[i] = if z = 0 then 1 else z) ∧
      (∀ l : Fin 2, (n.toNat = 0x11 + l.val → y.trap.cause[l] = v.setWidth 24) ∧ (n.toNat = 0x13 + l.val → y.trap.epc[l] = v.setWidth 56) ∧
        (n.toNat = 0x15 + l.val → y.trap.tval[l] = v)) ∧
      (n = 0x50 → y.ck.preq = v.getLsbD 0 ∧ y.ck.rprio = 0) ∧ (n = 0x51 → y.ck.pmaxiter = v.setWidth 32) ∧
      (n = 0x52 → y.obs.dthresh = v.setWidth 32) ∧ (n = 0x90 → y.ck.ixsel = v.setWidth 32 &&& 0xC000FFFF#32)) ∧
    ((n = 0x80 → (s.dev.hbmcfg.getLsbD 0 = true → t.dev.hbmcfg = s.dev.hbmcfg) ∧ (s.dev.hbmcfg.getLsbD 0 = false →
        (fld t.dev.hbmcfg 8 8).toNat = Nat.min 128 (fld v 8 8).toNat ∧ t.dev.hbmcfg.getLsbD 0 = v.getLsbD 0 ∧
        fld t.dev.hbmcfg 24 8 = fld s.dev.hbmcfg 24 8 ∧ fld t.dev.hbmcfg 36 4 = fld s.dev.hbmcfg 36 4)) ∧
      (n = 0x81 → y.cfg.qosctl = v.setWidth 32 &&& 0x77FF#32) ∧
      (n = 0x83 → t.dev.card.hot = if s.dev.card.hot.getLsbD 0 then s.dev.card.hot else v &&& 0x000FFFFFFFFF0001#64) ∧
      (n = 0x84 → t.dev.card.fq = (v &&& 0x0FFF000000FF8000#64) ||| (s.dev.card.fq &&& 0x00000FFF00000000#64)) ∧
      (n = 0x85 → t.dev.card.cq = (v &&& 0x03FF000000FF8000#64) ||| (s.dev.card.cq &&& 0x000003FF00000000#64)) ∧
      (n = 0x91 → u ≠ brim → fld x.ck.ixsel 30 2 = 1 → (fld x.ck.ixsel 0 16).toNat < 384 → smWf 0 x.cfg.qostab = true →
        ∀ i, smGet 0 y.cfg.qostab i = if i = (fld x.ck.ixsel 0 16).toNat then v else smGet 0 x.cfg.qostab i) ∧
      (n = 0xA0 → y.cfg.bmap = if x.cfg.bmap.getLsbD 63 then x.cfg.bmap else v &&& 0x80001FFFFFFFFFFF#64)) ∧
    ((n = 0x100 → y.obs.rctl = v &&& 0x00000FFF0003FFFF#64) ∧ (n = 0x101 → y.obs.rxl = v &&& 0xFFFFFFFFFFFF0000#64) ∧
      (n = 0x102 → y.obs.tbuf = v &&& 0x00FFFFFFFFFFFFFF#64) ∧ (n = 0x103 → y.obs.thead = v) ∧
      (n = 0x108 → y.obs.trga = v &&& 0xF0FFFFFFFFFFFFFF#64) ∧ (n = 0x109 → y.obs.trgb = v &&& 0xF3FFFFFFFFFFFFFF#64) ∧
      (n = 0x10A → y.obs.cap = v.getLsbD 0) ∧ (n = 0x180 → y.obs.dlog = v &&& 0x00FFFFFFFFFFFFFF#64) ∧ (n = 0x181 → y.obs.dhead = v) ∧
      (n = 0x110 → y.pm.ctl = v &&& 0xFFF0000F#64 ∧ y.pm.set_ = 0) ∧ (n = 0x111 → y.pm.per = v.setWidth 32 ∧ y.pm.set_ = 0) ∧
      (∀ c : Fin 16, n.toNat = 0x120 + c.val → y.pm.sel[c] = v.setWidth 32)) ∧
    ((n = 0x190 → y.stop.reload = v.getLsbD 2 ∧ y.stop.stopReq = (x.stop.stopReq || (v.getLsbD 0 && !x.stop.stopped))) ∧
      (n = 0x191 → y.stop.dumpva = v.setWidth 56) ∧ (n = 0x193 → y.stop.injsel = v.setWidth 10 &&& 0x3FE#10)) ∧
    ((n = 0x241 → t.dev.pow.lim.toNat = Nat.min 2600 (Nat.max 1000 (fld v 0 16).toNat)) ∧
      (∀ k : Fin 8, n.toNat = 0x248 + k.val → (t.dev.pow.target[k]).toNat = Nat.min 800 (Nat.max 400 ((fld v 16 10).toNat / 25 * 25))) ∧
      (n = 0x250 → let ok := fld v 0 8 < fld v 8 8 ∧ fld v 8 8 < fld v 16 8 ∧ fld v 32 16 ≠ 0
        t.dev.pow.dcgcfg = if ok then v &&& 0x0000FFFF0FFFFFFF#64 else s.dev.pow.dcgcfg))))

/-- R214, R215, Tables 8.11, 8.12: address arithmetic is 32-bit; AGET gives the effective address in the modes of Table 8.11, and a
latch stands for a plain address; the post-modified value of each mode. R216: AMODE sets the mode state of a[DST] from the
values before its issue and changes no latch; a modulo length not greater than |INC| is illegal; mode 3 makes the address 0.
R217, R92: LDS of an aligned address in the reservation puts its result in flight for issue + 9 (+ 11 in the south face) and reads
scratch at issue + 2 (+ 3); STS writes the low bytes of its data at issue + 3 (+ 4), the full/empty bits unchanged; any other
address raises SCRATCH_RANGE with the address. The base is post-modified when PM = 1. -/
def Obligations.AddressRegistersAndScratchAccess : Prop :=
  ((∀ (s : State) (d : AAdd) (i : AAddi) (m : AMov) (x : Option (BitVec 16)),
    let v := fun (h : SHd) (r : ASrc) => s.me.srcA h.bst r
    let res := fun (h : SHd) (dst : BitVec 5) (r : BitVec 32) => Host.Outcome.next (s.sends 1 (addrTo h (.a (r5 dst)) 1 r))
    (s.performs d.h.bst d.h.g → exec (.aadd d) s = res d.h d.dst (v d.h d.a + v d.h d.b)) ∧
    (s.performs i.h.bst i.h.g → (x = none → exec (.aaddi i) s = res i.h i.dst (v i.h i.a + displacement i.disp x)) ∧
      runOp (opAaddi i x s) s = res i.h i.dst (v i.h i.a + displacement i.disp x)) ∧
    (s.performs m.h.bst m.h.g → exec (.amov m) s = res m.h m.dst (v m.h m.a) ∧
      ∃ r, exec (.aget m) s = res m.h m.dst r ∧
        (∀ l, m.a = .latch l → r = v m.h m.a) ∧
        ∀ n, m.a = .reg n →
          let a := s.me.rdA m.h.bst (r5 n)
          (a.md.mode ≠ 3 → r = a.val) ∧
          (a.md.mode = 3 → ∃ b : Nat, r.toNat = (a.md.base.toNat + b * 2 ^ a.md.esh.toNat) % 2 ^ 32 ∧
            ∀ j, b.testBit j = (decide (j < a.md.k.toNat) && a.val.getLsbD (a.md.k.toNat - 1 - j))))) ∧
  (∀ a : AReg,
    (a.md.mode = 0 → a.post = none) ∧ (a.md.mode = 1 → a.post = some (a.val + a.md.inc)) ∧
    (a.md.mode = 2 → a.md.len ≠ 0 → ∃ v d : Nat, a.post = some v ∧ d < a.md.len.toNat ∧
      v = (a.md.base.toNat + d) % 2 ^ 32 ∧ ((a.val.toNat : Int) - a.md.base.toNat + a.md.inc.toInt - d) % a.md.len.toNat = 0) ∧
    (a.md.mode = 3 → a.md.k.toNat ≤ 24 → ∃ v : BitVec 32, a.post = some v ∧ v.toNat = (a.val.toNat + 1) % 2 ^ a.md.k.toNat)) ∧
  (∀ (s : State) (m : AMode), s.performs m.h.bst m.h.g →
    let x := s.me
    let b := m.h.bst
    let sets := fun (d : AMd) => exec (.amode m) s = .next (s.sends 1 (addrTo m.h (.am (r5 m.dst) d) 1 0 false))
    (m.arg = .plain → sets {}) ∧
    (∀ inc, m.arg = .incr inc → sets { mode := 1, inc := inc.signExtend 32 }) ∧
    (∀ len inc, m.arg = .modulo len inc →
      (inc.toInt.natAbs < (x.srcA b len).toNat → sets { mode := 2, inc := inc.signExtend 32, base := (x.rdA b (r5 m.dst)).val, len := x.srcA b len }) ∧
      ((x.srcA b len).toNat ≤ inc.toInt.natAbs → b = .none →
        exec (.amode m) s = .next (s.traps cILLEGAL_OPERAND (if m.h.slot1 then 4 else 3) (wordOf (.amode m))))) ∧
    (∀ base k esh, m.arg = .bitrev base k esh → sets { mode := 3, base := x.srcA b base, k := k.setWidth 8, esh := esh.setWidth 8 }) ∧
    ∀ (a : AReg) (d : AMd), (a.setMode d).md = d ∧ (a.setMode d).val = if d.mode = 3 then 0 else a.val)) ∧
  ((∀ (s : State) (l : ALds) (x : Option (BitVec 16)), s.performs l.h.bst l.h.g →
    let n := match l.sz with | .b1 => 1 | .b2 => 2 | .b4 => 4
    let ad := (s.me.eaA l.h.bst l.a + displacement l.disp x).toNat
    let so := s.southLag ad
    let after := fun (y : UnitSt) => match l.a with
      | .reg r => if l.pm then y.postMod (if l.h.slot1 then 4 else 3) l.h.bst (r5 r) else y
      | .latch _ => y
    let t := s.modMe fun y => after ((y.emit (addrTo l.h (.a (r5 l.dst)) (9 + 2 * so) 0)).later (2 + so)
      (.load y.seq.nextId [(0, ad)] n l.sgn))
    (s.mayAccess ad n → (x = none → exec (.lds l) s = .next (t.charge s.cur 1 1)) ∧
      runOp (opLds l x s) s = .next (t.charge s.cur 1 1)) ∧
    (¬s.mayAccess ad n → l.h.bst = .none →
      runOp (opLds l x s) s = .next (s.traps cSCRATCH_RANGE (if l.h.slot1 then 4 else 3) (BitVec.ofNat 64 ad)))) ∧
  (∀ (s : State) (l : ASts) (x : Option (BitVec 16)), s.me.guardOn .none l.g = true →
    let n := match l.sz with | .b1 => 1 | .b2 => 2 | .b4 => 4
    let ad := (s.me.eaA .none l.a + displacement l.disp x).toNat
    let v := s.me.srcA .none l.b
    let bytes := (List.range n).map fun i => (ad + i, v.extractLsb' (8 * i) 8)
    let after := fun (y : UnitSt) => match l.a with
      | .reg r => if l.pm then y.postMod (if l.slot1 then 4 else 3) .none (r5 r) else y
      | .latch _ => y
    let t := s.modMe fun y => after (y.later (3 + s.southLag ad) (.store bytes none []))
    (s.mayAccess ad n → (x = none → exec (.sts l) s = .next (t.charge s.cur 1 1)) ∧
      runOp (opSts l x s) s = .next (t.charge s.cur 1 1)) ∧
    (¬s.mayAccess ad n →
      runOp (opSts l x s) s = .next (s.traps cSCRATCH_RANGE (if l.slot1 then 4 else 3) (BitVec.ofNat 64 ad)))))

/-! ### The BR slot (R192–R203) -/

/-- R193: B.T is taken when every lane of its predicate is 1 and B.F when every lane is 0; the target is PC + OFF × 8; a predicate
with both values raises NONUNIFORM_BRANCH with the number of ones (Table 18.7). J and CALL go to PC + OFF × 8, CALL with the
address of the following bundle as its link of latency 1; JX and RET go to s[SA], which raises BAD_TARGET when its bits [2:0] or
[63:56] are not zero. -/
def Obligations.Branches : Prop :=
  (∀ (s : State) (a : BrCond), s.me.guardOn .none a.g = true →
    let p := s.me.rdP .none a.bp
    let goes := Host.Outcome.next ((s.goto (s.me.seq.pc + a.off.signExtend 56 * 8)).charge s.cur 1 1)
    let stays := Host.Outcome.next (s.charge s.cur 1 1)
    let n := (List.range 128).countP fun i => p.getLsbD i
    (n = 128 → exec (.bT a) s = goes ∧ exec (.bF a) s = stays) ∧
    (n = 0 → exec (.bT a) s = stays ∧ exec (.bF a) s = goes) ∧
    (0 < n → n < 128 → exec (.bT a) s = .next (s.traps cNONUNIFORM_BRANCH 0 (BitVec.ofNat 64 n)) ∧
      exec (.bF a) s = .next (s.traps cNONUNIFORM_BRANCH 0 (BitVec.ofNat 64 n)))) ∧
  (∀ (s : State) (j : BrJump) (c : BrCall) (x : BrReg),
    let pc := s.me.seq.pc
    let goes := fun (u : State) (t : BitVec 56) => Host.Outcome.next ((u.goto t).charge s.cur 1 1)
    (s.me.guardOn .none j.g = true → exec (.j j) s = goes s (pc + j.off.signExtend 56 * 8)) ∧
    (s.me.guardOn .none c.g = true → exec (.call c) s =
      goes (s.emit { slot := 0, dst := .s (r6 c.dst), lat := 1, val := (pc + BitVec.ofNat 56 s.bundleLen).setWidth 4096 })
        (pc + c.off.signExtend 56 * 8)) ∧
    (s.me.guardOn .none x.g = true →
      let t := s.me.rdS .none (r6 x.sa)
      (t.toNat % 8 = 0 ∧ t.toNat < 2 ^ 56 → exec (.jx x) s = goes s (t.setWidth 56) ∧ exec (.ret x) s = goes s (t.setWidth 56)) ∧
      (¬(t.toNat % 8 = 0 ∧ t.toNat < 2 ^ 56) →
        exec (.jx x) s = .next (s.traps cBAD_TARGET 0 t) ∧ exec (.ret x) s = .next (s.traps cBAD_TARGET 0 t))))

/-- R194, R195, R198: the trip count is s[SA] + IMM modulo 2^32 and END is PC + ENDOFF × 8; a push while six entries are
VALID raises LOOP_OVERFLOW, an END inside the bundle, or a LOOP in the END bundle of the innermost entry, LOOP_STATE; LEXIT
needs an entry. The push and the pop are held for the end of the bundle. -/
def Obligations.Loops : Prop :=
  ∀ (s : State) (a : BrLoop) (b : BrLoopP) (x : GuardOnly),
    let q := s.me.seq
    let count := fun (sa : BitVec 6) (imm : Nat) => BitVec.ofNat 32 ((s.me.rdS .none (r6 sa)).toNat + imm)
    let endA := fun (off : BitVec 14) => q.pc + BitVec.ofNat 56 (off.toNat * 8)
    let full := fun (t : BitVec 32) => t ≠ 0 ∧ 6 ≤ q.loops.length
    let badEnd := fun (off : BitVec 14) => (∃ e, q.loops.getLast? = some e ∧ e.endA = q.pc) ∨ off.toNat * 8 < s.bundleLen
    let rules := fun (i : Instr) (t : BitVec 32) (off : BitVec 14) (act : BrAct) =>
      (full t → exec i s = .next (s.traps cLOOP_OVERFLOW 0 (t.setWidth 64))) ∧
      (¬full t → badEnd off → exec i s = .next (s.traps cLOOP_STATE 0 (wordOf i))) ∧
      (¬full t → ¬badEnd off → exec i s = .next ((s.setBr act).charge s.cur 1 1))
    (s.me.guardOn .none a.g = true →
      rules (.loop a) (count a.sa a.imm.toNat) a.endoff (.push false (count a.sa a.imm.toNat) 0 0 (endA a.endoff))) ∧
    (s.me.guardOn .none b.g = true →
      rules (.loopp b) (count b.sa b.imm.toNat) b.endoff (.push true (count b.sa b.imm.toNat) b.epi b.rb (endA b.endoff))) ∧
    (s.me.guardOn .none x.g = true →
      (q.loops ≠ [] → exec (.lexit x) s = .next ((s.setBr .lexit).charge s.cur 1 1)) ∧
      (q.loops = [] → exec (.lexit x) s = .next (s.traps cLOOP_STATE 0 (wordOf (.lexit x)))))

/-- R193, R195, R196, R198: what follows the last instance of a bundle. A transfer moves PC to its target; a push with a
trip count of 0 skips the loop, any other pushes an entry and, for LOOPP, sets the stage predicates; without a transfer,
the bundle at END of the innermost entry takes the back-edge while COUNT or EPI is not zero, shifting p4 to p11 and
stepping RBASE by 31 for a PIPE entry, and pops the entry otherwise. Where the header of the END bundle is in no line of the I-cache
PC stands at END and the bundle there is passed over once its length is known (log 67). -/
def Obligations.AfterTheBundle : Prop :=
  ∀ s : State,
    let q := s.me.seq
    let t := s.afterBundle.me
    let r := s.me.regs
    let follows := q.pc + BitVec.ofNat 56 s.bundleLen
    (∀ a, q.br = some (.goto a) → t.seq.pc = a ∧ t.seq.loops = q.loops ∧ t.regs = r) ∧
    (∀ pipe epi rb e n, q.br = some (.push pipe 0 epi rb e) → s.lenAt s.cur e.toNat = some n →
      t.seq.pc = e + BitVec.ofNat 56 n ∧ t.seq.loops = q.loops ∧ t.regs = r) ∧
    (∀ pipe epi rb e, q.br = some (.push pipe 0 epi rb e) → s.lenAt s.cur e.toNat = none →
      t.seq.pc = e ∧ t.seq.rix = 0 ∧ t.seq.skip = true ∧ t.seq.loops = q.loops ∧ t.regs = r) ∧
    (∀ pipe c epi rb e, q.br = some (.push pipe c epi rb e) → c ≠ 0 → t.seq.pc = follows ∧
      t.seq.loops = q.loops ++ [⟨pipe, if pipe then rb else 0, if pipe then epi else 0, c - 1, follows, e⟩] ∧
      ∀ k : Fin 12, t.regs.p[k] = if pipe = false ∨ k < 4 then r.p[k] else if k = 4 then BitVec.allOnes 128 else 0) ∧
    (∀ e n, q.br = some .lexit → q.loops.getLast? = some e → s.lenAt s.cur e.endA.toNat = some n →
      t.seq.pc = e.endA + BitVec.ofNat 56 n ∧ t.seq.loops = q.loops.dropLast ∧ t.regs = r) ∧
    (∀ e, q.br = some .lexit → q.loops.getLast? = some e → s.lenAt s.cur e.endA.toNat = none →
      t.seq.pc = e.endA ∧ t.seq.rix = 0 ∧ t.seq.skip = true ∧ t.seq.loops = q.loops.dropLast ∧ t.regs = r) ∧
    (q.br = none → (∀ e, q.loops.getLast? = some e → e.endA ≠ q.pc) → t.seq.pc = follows ∧ t.seq.loops = q.loops ∧ t.regs = r) ∧
    (∀ e, q.br = none → q.loops.getLast? = some e → e.endA = q.pc →
      (e.count = 0 → e.epi = 0 → t.seq.pc = follows ∧ t.seq.loops = q.loops.dropLast ∧ t.regs = r) ∧
      (e.count ≠ 0 ∨ e.epi ≠ 0 → t.seq.pc = e.start ∧
        t.seq.loops = q.loops.dropLast ++ [⟨e.pipe, if e.pipe then e.rbase + 31 else e.rbase,
          if e.count ≠ 0 then e.epi else e.epi - 1, if e.count ≠ 0 then e.count - 1 else 0, e.start, e.endA⟩] ∧
        ∀ k : Fin 12, t.regs.p[k] = if e.pipe = false ∨ k < 4 then r.p[k]
          else if k = 4 then (if e.count ≠ 0 then BitVec.allOnes 128 else 0) else r.p[k - 1]))

/-- R199: COMMIT raises the cause of the oldest level-1 operation that holds a fault, the buffers unchanged; else every
level-1 entry lands at its own landing cycle or in the next one, with its flags and without its latch, and level 2 becomes
level 1. SQUASH discards both levels. TCAUSE.SLOT and the fate of the entries at COMMIT are the model's reading (log 10). -/
def Obligations.BoostResolution : Prop :=
  ∀ (s : State) (g : GuardOnly), s.me.guardOn .none g.g = true →
    let q := s.me.seq
    (∀ e c v, q.boost.find? (fun e => !e.lvl && e.fault.isSome) = some e → e.fault = some (c, v) →
      exec (.commit g) s = .next (s.takeTrap s.cur { code := c, slot := e.fl.slot.val, tval := v, bst := true })) ∧
    ((∀ e ∈ q.boost, e.lvl = false → e.fault = none) →
      let lands := (q.boost.filter fun e => !e.lvl).flatMap fun e =>
        let f := { e.fl with due := max e.fl.due (s.me.ck.scyc + 1), latch := none }
        f :: if e.flags = 0 then [] else [{ f with dst := .flags, mask := BitVec.allOnes 128, val := e.flags.setWidth 4096 }]
      exec (.commit g) s = .next ((s.modMe fun x => { x with seq := { x.seq with
        flights := q.flights ++ lands, boost := (q.boost.filter (·.lvl)).map fun e => { e with lvl := false } } }).charge s.cur 1 1)) ∧
    exec (.squash g) s = .next ((s.modMe fun x => { x with seq := { x.seq with boost := [] } }).charge s.cur 1 1)

/-- R201–R203: EXIT outside trap level 0 and TRET at level 0, or with another loop depth than the entry's, raise
TRAP_STATE; TRET with a boosted operation outstanding BOOST_STATE; with a misaligned TEPC BAD_TARGET. WAITN holds its
bundle while more than N commands stand in the queues that QMASK names, and never with an N of 32 or more. -/
def Obligations.ExitTrapAndWait : Prop :=
  ∀ (s : State) (g : GuardOnly) (c : BrTrap) (w : BrWait),
    let x := s.me
    let held := fun (a : BrAct) => Host.Outcome.next ((s.setBr a).charge s.cur 1 1)
    let lv : Fin 2 := if x.trap.tl = 2 then 1 else 0
    let cause := x.trap.cause[lv]
    let epc := x.trap.epc[lv]
    let n := (((List.finRange 12).filter fun e => w.qmask.getLsbD e.val).map fun e => (x.es.eng[e]).q.length).sum
    (s.me.guardOn .none g.g = true →
      (x.trap.tl = 0 → exec (.exit g) s = held .exit) ∧
      (x.trap.tl ≠ 0 → exec (.exit g) s = .next (s.traps cTRAP_STATE 0 (wordOf (.exit g)))) ∧
      (x.trap.tl = 0 → exec (.tret g) s = .next (s.traps cTRAP_STATE 0 (wordOf (.tret g)))) ∧
      (x.trap.tl = 1 ∨ x.trap.tl = 2 →
        ((fld cause 18 3).toNat ≠ x.seq.loops.length → exec (.tret g) s = .next (s.traps cTRAP_STATE 0 (wordOf (.tret g)))) ∧
        ((fld cause 18 3).toNat = x.seq.loops.length → x.seq.boost ≠ [] → ∃ v, exec (.tret g) s = .next (s.traps cBOOST_STATE 0 v)) ∧
        ((fld cause 18 3).toNat = x.seq.loops.length → x.seq.boost = [] → epc.toNat % 8 ≠ 0 →
          exec (.tret g) s = .next (s.traps cBAD_TARGET 0 (epc.setWidth 64))) ∧
        ((fld cause 18 3).toNat = x.seq.loops.length → x.seq.boost = [] → epc.toNat % 8 = 0 → exec (.tret g) s = held .tret))) ∧
    (s.me.guardOn .none c.g = true → exec (.trapi c) s = held (.trapi c.code)) ∧
    (s.me.guardOn .none w.g = true → (n ≤ w.n.toNat ∨ 32 ≤ w.n.toNat → exec (.waitn w) s = .next (s.charge s.cur 1 1)) ∧
      (w.n.toNat < n → w.n.toNat < 32 → exec (.waitn w) s = .next (s.holdFor 3)))

/-! ### The VM slot (R231–R236) -/

/-- R232, R233, Table 9.10: VLD reads x + 4i, VLDS x + i·s and VGTH x + SB lane i, each modulo 2^32; an element shorter than a lane
is extended by its format. The addresses must meet R232. R234, R43: VLD.FE issues when every granule of its active lanes is full,
.C setting them empty in the issuing clock, before an older store's write of that clock (the model's choice, log 60); while one is empty,
or was filled by a copy in the present clock (R99), the crown is in a full/empty wait.
R232–R234: stores write the low bytes of SA lane i at the address of lane i, no byte else; VST.F and VST.E set the
granules of the active lanes full or empty in the write cycle. -/
def Obligations.VectorLoadsAndStores : Prop :=
  ((∀ (s : State) (a : MLoad) (l : MLoadS) (g : MGather),
    let done := fun (h : MHd) (t : State) => Host.Outcome.next ((t.vmPost h).charge s.cur 5 1)
    let sl := laneAddrs (s.vmMask l.h) fun i => (s.vmBase l.h : Int) + i * ((s.me.rdA l.h.bst (r5 l.as)).val).toInt
    let gl := laneAddrs (s.vmMask g.h) fun i => (s.vmBase g.h : Int) + (el 32 (s.me.srcV g.h.bst g.b) i).toNat
    (s.room a.h.bst → s.rowOk true a.h → exec (.vld a) s = done a.h (s.vmLoad a.h a.dst 9 (s.vmRow a.h) 4 false)) ∧
    (s.room l.h.bst → l.fmt.bits = 8 ∨ l.fmt.bits = 16 ∨ l.fmt.bits = 32 → s.bytesOk true (l.fmt.bits / 8) sl →
      exec (.vlds l) s = done l.h (s.vmLoad l.h l.dst 9 sl (l.fmt.bits / 8) l.fmt.isSigned)) ∧
    (s.room g.h.bst → g.fmt.bits = 8 ∨ g.fmt.bits = 16 ∨ g.fmt.bits = 32 → s.bytesOk true (g.fmt.bits / 8) gl →
      exec (.vgth g) s = done g.h (s.vmLoad g.h g.dst 13 gl (g.fmt.bits / 8) g.fmt.isSigned))) ∧
  (∀ (s : State) (a : MLoad), s.room a.h.bst → s.rowOk false a.h →
    let gs := gransOf ((s.vmRow a.h).map Prod.snd)
    let full := fun (g : Nat) => (smGet ({} : Gran) s.me.st.face g).full = true ∧ g ∉ s.me.es.filled
    let done := fun (t : State) => Host.Outcome.next (((t.vmLoad a.h a.dst 9 (s.vmRow a.h) 4 false).vmPost a.h).charge s.cur 5 1)
    ((∀ g ∈ gs, full g) → exec (.vldFeK a) s = done s ∧
      exec (.vldFeC a) s = done (s.modMe fun y => ({ y with st := setFull y.st gs false } : UnitSt).alsoKept fun st => setFull st gs false)) ∧
    ((∃ g ∈ gs, ¬full g) → exec (.vldFeK a) s = .next (s.holdFor 0) ∧ exec (.vldFeC a) s = .next (s.holdFor 0)))) ∧
  (∀ (s : State) (a : MStore) (l : MStoreS) (c : MScatter),
    let done := fun (h : MHd) (t : State) => Host.Outcome.next ((t.vmPost h).charge s.cur 5 1)
    let v := fun (h : MHd) (r : VSrc) => s.me.srcV h.bst r
    let sl := laneAddrs (s.vmMask l.h) fun i => (s.vmBase l.h : Int) + i * ((s.me.rdA l.h.bst (r5 l.as)).val).toInt
    let cl := laneAddrs (s.vmMask c.h) fun i => (s.vmBase c.h : Int) + (el 32 (v c.h c.b) i).toNat
    (s.room a.h.bst → s.rowOk false a.h →
      exec (.vst a) s = done a.h (s.vmStore (s.vmRow a.h) 4 (v a.h a.a) none) ∧
      exec (.vstF a) s = done a.h (s.vmStore (s.vmRow a.h) 4 (v a.h a.a) (some true)) ∧
      exec (.vstE a) s = done a.h (s.vmStore (s.vmRow a.h) 4 (v a.h a.a) (some false))) ∧
    (s.room l.h.bst → l.fmt.bits = 8 ∨ l.fmt.bits = 16 ∨ l.fmt.bits = 32 → s.bytesOk false (l.fmt.bits / 8) sl →
      exec (.vsts l) s = done l.h (s.vmStore sl (l.fmt.bits / 8) (v l.h l.a) none)) ∧
    (s.room c.h.bst → c.fmt.bits = 8 ∨ c.fmt.bits = 16 ∨ c.fmt.bits = 32 → s.bytesOk false (c.fmt.bits / 8) cl →
      exec (.vsct c) s = done c.h (s.vmStore cl (c.fmt.bits / 8) (v c.h c.a) none)))

/-- R232, R237: an unboosted access whose active lanes break R232 raises SCRATCH_RANGE in slot VM: a row form (VLD, VST, FESET,
FECLR, FEPROB, with every full/empty form) or one that addresses each element (VLDS, VSTS, VGTH, VSCT). R235: FESET and FECLR
set the granules of the active lanes full or empty in the write cycle, with no byte written; FEPROB reads them and writes its
predicate in the active lanes. -/
def Obligations.FullEmptyBitsAndAccessFaults : Prop :=
  (∀ (s : State) (i : Instr) (h : MHd) (wb : Bool), h.bst = .none → ¬s.rowOk wb h →
    (wb = true ∧ (∃ d, i = .vld ⟨h, d⟩)) ∨
      (wb = false ∧ ((∃ d, i = .vldFeC ⟨h, d⟩) ∨ (∃ d, i = .vldFeK ⟨h, d⟩) ∨ (∃ a, i = .vst ⟨h, a⟩) ∨ (∃ a, i = .vstF ⟨h, a⟩) ∨
        (∃ a, i = .vstE ⟨h, a⟩) ∨ i = .feset ⟨h⟩ ∨ i = .feclr ⟨h⟩ ∨ ∃ d, i = .feprob ⟨h, d⟩)) →
    ∃ v, exec i s = .next (s.traps cSCRATCH_RANGE 7 v)) ∧
  (∀ (s : State) (l : MLoadS) (g : MGather) (t : MStoreS) (c : MScatter),
    let lanes := fun (h : MHd) (off : Nat → Int) => laneAddrs (s.vmMask h) fun i => (s.vmBase h : Int) + off i
    let str := fun (h : MHd) (as : BitVec 5) (i : Nat) => (i : Int) * ((s.me.rdA h.bst (r5 as)).val).toInt
    let ofs := fun (h : MHd) (b : VSrc) (i : Nat) => ((el 32 (s.me.srcV h.bst b) i).toNat : Int)
    let bad := fun (i : Instr) => ∃ v, exec i s = .next (s.traps cSCRATCH_RANGE 7 v)
    (l.h.bst = .none → ¬s.bytesOk true (l.fmt.bits / 8) (lanes l.h (str l.h l.as)) → bad (.vlds l)) ∧
    (g.h.bst = .none → ¬s.bytesOk true (g.fmt.bits / 8) (lanes g.h (ofs g.h g.b)) → bad (.vgth g)) ∧
    (t.h.bst = .none → ¬s.bytesOk false (t.fmt.bits / 8) (lanes t.h (str t.h t.as)) → bad (.vsts t)) ∧
    (c.h.bst = .none → ¬s.bytesOk false (c.fmt.bits / 8) (lanes c.h (ofs c.h c.b)) → bad (.vsct c))) ∧
  (∀ (s : State) (a : MFe) (p : MProb),
    let gs := fun (h : MHd) => gransOf ((s.vmRow h).map Prod.snd)
    let so := fun (h : MHd) => if southLanes (s.vmRow h) = [] then 0 else 1
    (s.room a.h.bst → s.rowOk false a.h →
      let sets := fun (b : Bool) => Host.Outcome.next
        (((s.modMe fun y => y.laterIf (s.vmRow a.h) (3 + so a.h) (.store [] (some b) (gs a.h))).vmPost a.h).charge s.cur 5 1)
      exec (.feset a) s = sets true ∧ exec (.feclr a) s = sets false) ∧
    (s.room p.h.bst → s.rowOk false p.h →
      exec (.feprob p) s = .next (((s.modMe fun y =>
        (y.emit { slot := 7, nw := p.h.nw, dst := .p p.dst, lat := 9 + 2 * so p.h, mask := s.vmMask p.h }).laterIf (s.vmRow p.h) (2 + so p.h)
          (.probe y.seq.nextId (s.vmRow p.h))).vmPost p.h).charge s.cur 5 1)))

/-- R236, R104: ACCRD reads the row x[11:0] as it stands in the issue clock (an ACCWR that writes in that clock unseen, the model's
choice of log 60), landing at latency 7 in the active lanes and in lac; ACCWR writes the active lanes three clocks after issue; with an active lane, x[31:12] ≠ 0 or a slot not below the
declared count raises ACC_RANGE.
R249–R251: SCW loads the A and B latches of a bank from 128 bytes of SA at EA(a[AR]) mod 512, SCS loads both with one
byte, SCZ all four with 127; the writes fall three clocks after the issue clock. SCSEL sets the mode that later commands take. -/
def Obligations.AccumulatorRowsAndScaleLatches : Prop :=
  (∀ (s : State) (a : MLoad) (w : MStore),
    let out := fun (h : MHd) => s.vmMask h ≠ 0 ∧ (4096 ≤ s.vmBase h ∨ s.me.accn ≤ s.vmBase h / 128)
    (s.room a.h.bst → ¬out a.h → s.me.st.accPoison = [] → (∀ r ∈ s.me.cube.fresh, r.2.2.1 = false) →
      let r : Result :=
        { slot := 7, bst := a.h.bst, nw := a.h.nw, dst := .v (s.me.phys a.dst), lat := 7, mask := s.vmMask a.h,
          val := s.me.rowSeen (s.vmBase a.h), latch := some .lac }
      exec (.accrd a) s = .next (((s.emit r).vmPost a.h).charge s.cur 6 1)) ∧
    (s.room w.h.bst → ¬out w.h → s.vmMask w.h ≠ 0 →
      exec (.accwr w) s = .next (((s.modMe fun y =>
        y.later 3 (.accWr (s.vmBase w.h) (s.vmMask w.h) (s.me.srcV w.h.bst w.a))).vmPost w.h).charge s.cur 6 1)) ∧
    (s.room w.h.bst → s.vmMask w.h = 0 → exec (.accwr w) s = .next ((s.vmPost w.h).charge s.cur 6 1)) ∧
    (a.h.bst = .none → out a.h → exec (.accrd a) s = .next (s.traps cACC_RANGE 7 (BitVec.ofNat 64 (s.vmBase a.h)))) ∧
    (w.h.bst = .none → out w.h → exec (.accwr w) s = .next (s.traps cACC_RANGE 7 (BitVec.ofNat 64 (s.vmBase w.h))))) ∧
  (∀ (s : State) (w : ScW) (b : ScS) (z : GuardOnly) (m : ScSel),
    let x := s.me
    let puts := fun (i : Instr) (l : List (Bool × Bool × BitVec 512)) =>
      (s.modMe fun y => l.foldl (fun y e => y.later 3 (.scale e.1 e.2.1 e.2.2)) y).trace s.cur 13 true x.seq.pc.toNat (wordOf i)
        (BitVec.ofNat 64 (x.ck.clk + 4))
    let off := ((x.rdA .none (r5 w.ar)).ea).toNat % 512
    let v := x.srcV .none w.a
    let filled := fun (f : BitVec 512) (e : BitVec 8) => ∀ j < 64, f.extractLsb' (8 * j) 8 = e
    (x.guardOn .none w.g = true →
      (off % 128 = 0 →
        let t := puts (.scw w) [(false, w.bk, v.extractLsb' (8 * off) 512), (true, w.bk, v.extractLsb' (8 * (off + 64)) 512)]
        exec (.scw w) s = .next (if w.pm then t.modMe fun y => y.postMod 9 .none (r5 w.ar) else t)) ∧
      (off % 128 ≠ 0 → exec (.scw w) s = .next (s.traps cILLEGAL_OPERAND 9 (wordOf (.scw w))))) ∧
    (x.guardOn .none b.g = true → ∃ f, filled f b.e ∧ exec (.scs b) s = .next (puts (.scs b) [(false, b.bk, f), (true, b.bk, f)])) ∧
    (x.guardOn .none z.g = true → ∃ f, filled f 127 ∧
      exec (.scz z) s = .next (puts (.scz z) [(false, false, f), (false, true, f), (true, false, f), (true, true, f)])) ∧
    (x.guardOn .none m.g = true → exec (.scsel m) s = .next (s.modMe fun y => { y with cube := { y.cube with scsel := m.mode } })))

/-! ### Tile commands (R238–R269) -/

/-- Table 10.15, R245, R248: a command of the crown's cube takes the first cause that holds, in the order of the table; with
none it starts in the issue clock with its header, the snapshot of the staging registers and the scale mode. -/
def Obligations.CrownCubeCommands : Prop :=
  ∀ (s : State) (i : Instr) (g : Guard), s.me.guardOn .none g = true →
    (∃ a, (i = .tmma a ∨ i = .tmmas a) ∧ a.g = g) ∨ (∃ a, i = .tmmaP a ∧ a.g = g) ∨ (∃ a, (i = .tzero a ∨ i = .tload a) ∧ a.g = g) ∨
      (∃ a, i = .tdrain a ∧ a.g = g) ∨ (∃ a, i = .ttrn a ∧ a.g = g) ∨ (∃ a, (i = .tjoin a ∨ i = .tjoinSum a) ∧ a.g = g) →
    let x := s.me
    let h := wordOf i
    let cb := x.regs.cb
    let causes : List (Bool × BitVec 8 × Word) :=
      [(isBrim s.cur || snapIllegal h cb || (x.phase.on && tkind h == .mmap && !hdrZ h), cILLEGAL_OPERAND, h),
       (snapShape h cb, cTILE_SHAPE, h),
       ((snapRange x h cb).isSome, cSCRATCH_RANGE, BitVec.ofNat 64 ((snapRange x h cb).getD 0)),
       (0 < slotsOf h cb && Nat.min 32 x.accn < hdrAcc h + slotsOf h cb, cACC_RANGE, BitVec.ofNat 64 (max (hdrAcc h) (Nat.min 32 x.accn))),
       (snapBanks h cb, cBANK_CONFLICT, h),
       (!x.cube.deliv.isEmpty || x.cube.cmds.any (·.delivered), cCUBE_BUSY, h), (x.busy (x.cube.cmd h cb x.cube.scsel x.ck.run x.trap.tl), cCUBE_BUSY, h),
       (x.cube.stopped.isSome, cCUBE_STATE, h)]
    (∀ c v, firstFault causes = some (c, v) → exec i s = .next (s.traps c 8 v)) ∧
    (firstFault causes = none → exec i s = .next ((s.modMe fun y => { y with cube := { y.cube with
      nextId := y.cube.nextId + 1,
      cmds := y.cube.cmds ++ [{ id := y.cube.nextId, hdr := h, cb := cb, mode := x.cube.scsel, t := y.ck.run, lvl := x.trap.tl,
                                ready := y.cube.ready }] } }).traceCb h true))

/-- R239, R262–R264, Table 10.15: TMMA at PACKAGE and GANG level, of the brim core alone, takes the first cause that holds; with none
the command stands in the package sequencer with its snapshot. R259–R261 at CROWN level: TSTOP stops the product command that still
has steps to start at its stop limit (the oldest of two: the model's choice, log 62), or discards the stopped one; TRES starts the stopped command again, CUBE_STATE with none;
TPROG puts CPROG in flight for issue + 2. At PACKAGE and GANG level, of the brim core alone, TSTOP lets the round in progress end (it has an
effect up to the last delivery of a round), or discards the stopped command, TRES goes on with it and TPROG reads PPROG. The order of the
causes, COUNTER_RANGE last, the tests of what a command would deliver and the stages that TSTOP stops are the model's reading (log 24). -/
def Obligations.PackageCommandsAndControl : Prop :=
  (∀ (s : State) (a : CbMmaP) (gang : Bool), s.me.guardOn .none a.g = true →
    let i : Instr := if gang then .tmmaGang a else .tmmaPkg a
    let x := s.me
    let h := wordOf i
    let cb := x.regs.cb
    let e := s.pkgEff h cb
    let cntr := Snap.f cb 10 32 16
    let causes : List (Bool × BitVec 8 × Word) :=
      [(!isBrim s.cur || (gang && !x.flag2 21) || pkgIllegal cb, cILLEGAL_OPERAND, h), (pkgShape cb, cTILE_SHAPE, h),
       ((s.pkgRange h e).isSome, cSCRATCH_RANGE, BitVec.ofNat 64 ((s.pkgRange h e).getD 0)),
       ((s.pkgAcc e).isSome, cACC_RANGE, BitVec.ofNat 64 ((s.pkgAcc e).getD 0)), (s.pkgBank h e, cBANK_CONFLICT, h),
       (!x.cube.deliv.isEmpty || x.cube.cmds.any (·.delivered), cCUBE_BUSY, h), (s.dev.pkgBusy, cCUBE_BUSY, h),
       (s.dev.pkgStopped, cCUBE_STATE, h), (!s.placesOk cb, cTILE_PLACE, h),
       (Snap.f cb 10 48 1 = 1 && !(s.desc s.cur).inRange cntr, cCOUNTER_RANGE, BitVec.ofNat 64 cntr)]
    (∀ c v, firstFault causes = some (c, v) → exec i s = .next (s.traps c 8 v)) ∧
    (firstFault causes = none →
      exec i s = .next ((s.modDev fun d => { d with pkg := some { hdr := h, cb := cb, clk := x.ck.clk } }).traceCb h false))) ∧
  (∀ (s : State) (a : CbCtl) (p : CbProg), s.cur ≠ brim → s.me.cube.deliv = [] → (∀ k ∈ s.me.cube.cmds, k.delivered = false) →
    let x := s.me
    let c := x.cube
    let stops := fun (k : CubeCmd) => isProduct k && k.last.isNone && decide (stopLimit k x.ck.run < stepsOf k.hdr k.cb)
    let done := fun (i : Instr) (c : Cube) => exec i s = .next ((s.modMe fun y => { y with cube := c }).traceCb (wordOf i) true)
    (s.me.guardOn .none a.g = true → a.lvl = .crown →
      (∀ k, c.cmds.find? stops = some k → done (.tstop a) { c with
        cmds := c.cmds.map fun m => if m.id = k.id then { k with last := some (stopLimit k x.ck.run) } else m }) ∧
      (c.cmds.find? stops = none → (∃ k ∈ c.cmds, isProduct k = true) → done (.tstop a) c) ∧
      ((∀ k ∈ c.cmds, isProduct k = false) → done (.tstop a) { c with stopped := none }) ∧
      (∀ k, c.stopped = some k → x.busy (k.resumeAt x.ck.run) = false → done (.tres a) { c with
        stopped := none,
        cmds := c.cmds ++ [{ k with t := x.ck.run, origin := k.next, last := none }] }) ∧
      (c.stopped = none → exec (.tres a) s = .next (s.traps cCUBE_STATE 8 (wordOf (.tres a))))) ∧
    (s.me.guardOn .none a.g = true → a.lvl ≠ .crown → exec (.tstop a) s = .next (s.traps cILLEGAL_OPERAND 8 (wordOf (.tstop a))) ∧
      exec (.tres a) s = .next (s.traps cILLEGAL_OPERAND 8 (wordOf (.tres a)))) ∧
    (s.me.guardOn .none p.g = true →
      (p.lvl = .crown → exec (.tprog p) s = .next
        ((s.emit { slot := 8, dst := .s (r6 p.dst), lat := 2, val := x.cprog.setWidth 4096 }).traceCb (wordOf (.tprog p)) true)) ∧
      (p.lvl ≠ .crown → exec (.tprog p) s = .next (s.traps cILLEGAL_OPERAND 8 (wordOf (.tprog p)))))) ∧
  (∀ (s : State) (a : CbCtl) (p : CbProg), s.cur = brim → s.me.cube.deliv = [] → (∀ k ∈ s.me.cube.cmds, k.delivered = false) →
    let ill := fun (l : TileLvl) => l = .crown ∨ (l = .gang ∧ s.me.flag2 21 = false)
    let done := fun (i : Instr) (q : Option PkgCmd) => exec i s = .next ((s.modDev fun d => { d with pkg := q }).traceCb (wordOf i) false)
    (s.me.guardOn .none a.g = true →
      (ill a.lvl → exec (.tstop a) s = .next (s.traps cILLEGAL_OPERAND 8 (wordOf (.tstop a))) ∧
        exec (.tres a) s = .next (s.traps cILLEGAL_OPERAND 8 (wordOf (.tres a)))) ∧
      (¬ill a.lvl → (s.dev.pkg = none → done (.tstop a) none) ∧
        (∀ q, s.dev.pkg = some q →
          (q.done = true → done (.tstop a) (some q)) ∧
          (q.done = false → q.stopped = false → done (.tstop a) (some (if q.stage ≤ 3 then { q with stopping := true } else q))) ∧
          (q.done = false → q.stopped = true → done (.tstop a) none ∧
            done (.tres a) (some { q with stopped := false, clk := s.me.ck.clk }))) ∧
        ((∀ q, s.dev.pkg = some q → q.done = true ∨ q.stopped = false) → exec (.tres a) s = .next (s.traps cCUBE_STATE 8 (wordOf (.tres a)))))) ∧
    (s.me.guardOn .none p.g = true →
      (ill p.lvl → exec (.tprog p) s = .next (s.traps cILLEGAL_OPERAND 8 (wordOf (.tprog p)))) ∧
      (¬ill p.lvl → exec (.tprog p) s = .next
        ((s.emit { slot := 8, dst := .s (r6 p.dst), lat := 2, val := s.pprog.setWidth 4096 }).traceCb (wordOf (.tprog p)) false) ∧
        ∀ q, s.dev.pkg = some q → q.u < 2 ^ 16 → fld s.pprog 0 16 = BitVec.ofNat 16 q.u ∧
          fld s.pprog 62 2 = if q.done = true then 0 else if q.stopped = true then 2 else 1)))

/-! ### Copy engines (R270–R284) -/

/-- R271, Table 11.15: a command of the CP slot takes the first cause that holds, QUEUE_FULL while the queue of its engine
holds 32 entries, COUNTER_RANGE after it; with none it enters that queue with its word and the snapshot of cq0–cq31. -/
def Obligations.CopyCommands : Prop :=
  ∀ (s : State) (i : Instr) (g : Guard) (e : EngId), s.me.guardOn .none g = true →
    (∃ a, (i = .cpy a ∨ i = .cpyx a ∨ i = .cpyf a) ∧ a.g = g ∧ a.eng = e) ∨ (∃ a, i = .cpyw a ∧ a.g = g ∧ a.eng = e) ∨
      (∃ a, (i = .amoAdd a ∨ i = .amoMin a ∨ i = .amoMax a ∨ i = .amoAnd a ∨ i = .amoOr a ∨ i = .amoXor a ∨ i = .amoSwp a ∨ i = .amoFaddx a) ∧
        a.g = g ∧ a.eng = e) ∨ (∃ a, i = .amoCas a ∧ a.g = g ∧ a.eng = e) ∨ (∃ a, i = .flushx a ∧ a.g = g ∧ a.eng = e) ∨
      (∃ a, (i = .pfh a ∨ i = .migr a) ∧ a.g = g ∧ a.eng = e) →
    let x := s.me
    let b := isBrim s.cur
    let w := wordOf i
    let q := x.regs.cq
    let rng := cpRange x b (if b then s.drivenUnit else some x) w q
    let outside := match cpCntr w q with
      | some n => !(s.desc s.cur).inRange n.toNat
      | none => false
    let causes : List (Bool × BitVec 8 × Word) :=
      [(cpIllegal b w q || (x.phase.on && cpPhaseBad w q), cILLEGAL_OPERAND, w), (cpShape w q, cCOPY_SHAPE, w),
       (rng.isSome, cSCRATCH_RANGE, BitVec.ofNat 64 (rng.getD 0)), (cpAlign w q, cATOMIC_ALIGN, qv w q 0),
       (decide (32 ≤ (x.es.eng[e]).q.length + (x.es.eng[e]).freed), cQUEUE_FULL, BitVec.ofNat 64 e.val),
       (outside, cCOUNTER_RANGE, ((cpCntr w q).getD 0).setWidth 64)]
    (∀ c v, firstFault causes = some (c, v) → exec i s = .next (s.traps c 10 v)) ∧
    (firstFault causes = none → ∃ (t : State) (n : QEnt), exec i s = .next t ∧ t.dev = s.dev ∧ t.me.regs = x.regs ∧ t.me.st = x.st ∧
        (t.me.es.eng[e]).q = (x.es.eng[e]).q ++ [n] ∧ n.kind = .cmd ∧ n.word = w ∧ n.snap = q ∧ n.id = x.es.nextId ∧
        n.sc = x.ck.scyc ∧ n.lvl = x.trap.tl ∧ n.done = [] ∧
        ∀ f : EngId, f ≠ e → t.me.es.eng[f] = x.es.eng[f])

/-- R284: CPQ puts the progress word of an engine in flight for issue + 2; CPSTOP stops the engines of its mask, CPRES starts
those that are stopped again and has every engine of the mask replay its log. No other engine changes; no cause that waits beyond the
sixteenth restarts an engine of the mask (R373, R430).
R289–R291: EVINC of a counter in the owner's range, outside phase mode, places a marker in every queue and keeps its
increment for their completion; EVWAIT issues when the signed distance from s[SA] to the counter is not negative and waits
otherwise; TPOST takes the lowest free entry (the model's choice, log 25) of an enabled pool and waits while there is none. -/
def Obligations.EngineControlCountersAndPosts : Prop :=
  (∀ (s : State) (q : CpQ) (m : CpMask),
    let x := s.me
    (x.guardOn .none q.g = true → exec (.cpq q) s = .next
      (s.emit { slot := 10, dst := .s (r6 q.dst), lat := 2, val := ((x.es.eng[q.eng]).prog).setWidth 4096 })) ∧
    (x.guardOn .none m.g = true → ∀ i, i = .cpstop m ∨ i = .cpres m → ∃ t : State, exec i s = .next t ∧ t.dev = s.dev ∧
      t.me = { x with es := { x.es with eng := t.me.es.eng }, trap := { x.trap with
        owed := x.trap.owed.map (fun p => if m.qmask.getLsbD p.eng.toNat then { p with was := true } else p) } } ∧
      ∀ e : EngId,
        let a := x.es.eng[e]
        let b := t.me.es.eng[e]
        (m.qmask.getLsbD e.val = false → b = a) ∧
        (m.qmask.getLsbD e.val = true →
          (i = .cpstop m → b = { a with stopped := true }) ∧
          (i = .cpres m → b.stopped = false ∧ b.replay = true ∧ b.log = a.log ∧ b.tlb = a.tlb ∧ b.q.map (·.id) = a.q.map (·.id))))) ∧
  (∀ (s : State) (i : SyEvinc) (w : SyEvwait) (p : SyPost),
    let x := s.me
    let room := ∀ e : EngId, (x.es.eng[e]).q.length + (x.es.eng[e]).freed < 32
    let marked := fun (t : State) (k : QKind) => ∀ e : EngId, ∃ n : QEnt, (t.me.es.eng[e]).q = (x.es.eng[e]).q ++ [n] ∧ n.kind = k
    let pool : Fin 16 := Fin.ofNat 16 p.pool.toNat
    let ad := (x.rdS .none (r6 p.sa)).toNat % 2 ^ 32
    (x.guardOn .none i.g = true → x.phase.on = false → room →
      ((s.desc s.cur).inRange i.c.toNat = true → ∃ t : State, exec (.evinc i) s = .next t ∧ t.dev = s.dev ∧
        t.me.es.sy = x.es.sy ++ [.evinc x.es.nextId i.c i.inc] ∧ marked t (.evinc x.es.nextId)) ∧
      ((s.desc s.cur).inRange i.c.toNat = false → exec (.evinc i) s = .next (s.traps cCOUNTER_RANGE 11 (i.c.setWidth 64)))) ∧
    (x.guardOn .none w.g = true →
      let d := s.dev.counter w.c.toNat - (x.rdS .none (r6 w.sa)).setWidth 32
      (d.msb = true → exec (.evwait w) s = .next (s.holdFor 3)) ∧
      (d.msb = false → (s.desc s.cur).inRange w.c.toNat = true → exec (.evwait w) s = .next s)) ∧
    (x.guardOn .none p.g = true → x.phase.on = false → ad % 16 = 0 → x.firstOut (isBrim s.cur) ad (ad + 64) = none → room →
      (s.dev.sched.desc[pool]).en = true →
      (∀ n, s.dev.sched.freeEnt pool = some n → ∃ t : State, exec (.tpost p) s = .next t ∧ marked t (.tpost x.es.nextId) ∧
        ∃ e : PoolEnt, t.dev.sched.ents = s.dev.sched.ents ++ [e] ∧ e.pool = pool ∧ e.ent = BitVec.ofNat 8 n ∧ e.st = .taken) ∧
      (s.dev.sched.freeEnt pool = none → exec (.tpost p) s = .next (s.holdFor 3))))

/-! ### Synchronisation (R204, R285–R295) -/

/-- R285, R134, R135, R386: BARI resets a barrier; an arrival counts itself and its bytes, and flips the phase when the
arrivals are complete and no byte is outstanding; an arrival beyond its phase, or past 2^31 − 1 bytes, breaks the barrier and
raises BARRIER_STATE; a negative BARX count raises COPY_SHAPE. BARW waits while PHASE = Q, and on a broken barrier. A barrier that a
count-down has flipped in this clock (step 2a) counts the arrivals of the clock in the new phase without a second flip, and BARW still
sees the old phase. A barrier of EXPECT 0 never completes (the model's reading, log 21). -/
def Obligations.Barriers : Prop :=
  ∀ (s : State) (i : SyBari) (a : SyBara) (x : SyBarx) (w : SyBarw),
    let bar := fun (n : BitVec 5) => s.me.bars[Fin.ofNat 32 n.toNat]
    let arrives := fun (ins : Instr) (n : BitVec 5) (c : Nat) =>
      let b := bar n
      let bad := (b.arrived = b.expect ∧ b.bytes ≠ 0) ∨ 2 ^ 31 ≤ b.bytes + c
      (¬bad → ∃ t : State, exec ins s = .next t ∧ t.dev = s.dev ∧ t.me.regs = s.me.regs ∧
        (∀ m : Fin 32, m ≠ Fin.ofNat 32 n.toNat → t.me.bars[m] = s.me.bars[m]) ∧
        t.me.bars[Fin.ofNat 32 n.toNat] =
          (let b' := { b with arrived := b.arrived + 1, bytes := b.bytes + c }
           if b.expect ≠ 0 ∧ b'.arrived = b.expect ∧ b'.bytes = 0 ∧ b.broken = false ∧ b.flipped = false then { b' with phase := !b.phase, arrived := 0 } else b')) ∧
      (bad → ∃ u : State, exec ins s = .next (u.takeTrap s.cur { code := cBARRIER_STATE, slot := 11, tval := n.setWidth 64 }) ∧
        u.dev = s.dev ∧ (u.me.bars[Fin.ofNat 32 n.toNat]) = { b with broken := true } ∧ u.me.regs = s.me.regs)
    (s.me.guardOn .none i.g = true → ∃ t : State, exec (.bari i) s = .next t ∧ t.dev = s.dev ∧ t.me.regs = s.me.regs ∧
      (∀ m : Fin 32, m ≠ Fin.ofNat 32 i.n.toNat → t.me.bars[m] = s.me.bars[m]) ∧
      t.me.bars[Fin.ofNat 32 i.n.toNat] = { expect := i.expect }) ∧
    (s.me.guardOn .none a.g = true → arrives (.bara a) a.n 0) ∧
    (s.me.guardOn .none x.g = true →
      let c := (s.me.rdS .none (r6 x.sa)).setWidth 32 + x.imm.setWidth 32
      (c.msb = false → arrives (.barx x) x.n c.toNat) ∧
      (c.msb = true → exec (.barx x) s = .next (s.traps cCOPY_SHAPE 11 (wordOf (.barx x))))) ∧
    (s.me.guardOn .none w.g = true →
      let seen := if (bar w.n).flipped = true then !(bar w.n).phase else (bar w.n).phase
      (seen ≠ w.q → (bar w.n).broken = false → exec (.barw w) s = .next s) ∧
      (seen = w.q ∨ (bar w.n).broken = true → exec (.barw w) s = .next (s.holdFor 1)))

/-- R286: PHASE waits until no cube command is in flight; ON turns phase mode on and OFF off; COMMIT and OFF with phase mode on make the
committed bank of the declared slots the working one; the restart PC and the queue mask are recorded, and no value that a read
returns changes; on the brim core it is illegal. R287: CBWAIT waits for the cube. R288, R271: a fence places one marker at the end
of each queue that it names, or raises QUEUE_FULL, with the lowest full engine (the model's reading, log 27), while one of them holds 32 entries. -/
def Obligations.PhasesFencesAndCubeWaits : Prop :=
  (∀ (s : State) (g : GuardOnly) (i : Instr), i = .phaseCommit g ∨ i = .phaseOn g ∨ i = .phaseOff g → s.me.guardOn .none g.g = true →
    (s.cur = brim → exec i s = .next (s.traps cILLEGAL_OPERAND 11 (wordOf i))) ∧
    (s.cur ≠ brim → s.me.cube.cmds ≠ [] → exec i s = .next (s.holdFor 2)) ∧
    (s.cur ≠ brim → s.me.cube.cmds = [] → ∃ t : State, exec i s = .next t ∧ t.dev = s.dev ∧ t.me.regs = s.me.regs ∧
      t.me.st.acc = s.me.st.acc ∧ t.me.st.face = s.me.st.face ∧ t.me.bars = s.me.bars ∧
      t.me.phase.on = (if i = .phaseOn g then true else if i = .phaseOff g then false else s.me.phase.on) ∧
      t.me.phase.restart = s.me.seq.pc + BitVec.ofNat 56 s.bundleLen ∧ t.me.phase.qmask = fld s.header.payload 0 12 ∧
      (i ≠ .phaseOn g → s.me.phase.on = true → t.me.st.committed =
        (s.me.st.acc.filter fun r => r.1 < s.me.accn * 128) ++ s.me.st.committed.filter fun r => s.me.accn * 128 ≤ r.1) ∧
      (i ≠ .phaseOn g → s.me.phase.on = false → t.me.st.committed = s.me.st.committed))) ∧
  (∀ (s : State) (g : GuardOnly) (f : CpMask),
    let x := s.me
    let marks := fun (i : Instr) (acq rel : Bool) (m : BitVec 12) =>
      let full := fun (e : EngId) => m.getLsbD e.val = true ∧ 32 ≤ (x.es.eng[e]).q.length + (x.es.eng[e]).freed
      ((∀ e, ¬full e) → ∃ t : State, exec i s = .next t ∧ t.dev = s.dev ∧ t.me.regs = x.regs ∧ t.me.es.sy = x.es.sy ∧
        ∀ e : EngId,
          (m.getLsbD e.val = true → ∃ n : QEnt, (t.me.es.eng[e]).q = (x.es.eng[e]).q ++ [n] ∧ n.kind = .fence acq rel m x.es.nextId) ∧
          (m.getLsbD e.val = false → t.me.es.eng[e] = x.es.eng[e])) ∧
      (∀ e, full e → (∀ d, d < e → ¬full d) → exec i s = .next (s.traps cQUEUE_FULL 11 (BitVec.ofNat 64 e.val)))
    (x.guardOn .none g.g = true →
      marks (.fenceAcq g) true false 0xFFF ∧ marks (.fenceRel g) false true 0xFFF ∧ marks (.fenceFull g) true true 0xFFF ∧
      (s.cur ≠ brim → x.cube.cmds = [] → x.cube.deliv = [] → exec (.cbwait g) s = .next s) ∧
      (s.cur ≠ brim → x.cube.cmds ≠ [] ∨ x.cube.deliv ≠ [] → exec (.cbwait g) s = .next (s.holdFor 2)) ∧
      (s.cur = brim → exec (.cbwait g) s = .next (if s.dev.pkgBusy then s.holdFor 2 else s))) ∧
    (x.guardOn .none f.g = true → marks (.fenceq f) true true f.qmask))

/-- R292, R293: TLBI needs PRIV, posts the removal in its stall and issues when it is done; SLDRAIN holds its bundle while a named
engine has an entry waiting for replay. R294, R343, R318: TRCON and TRCOFF act one schedule cycle later; PMRD reads a counter or the
event code of its active set, as zero when the owner is not counted; ENRD reads the energy count. R295, R204: GANGC has no effect outside a gang or after its
commit, is illegal in phase mode, and otherwise casts the vote and waits; YIELD creates a landing point after its bundle. TLBI,
SLDRAIN and GANGC act in the first clock of their stall (the model's reading, log 25). -/
def Obligations.SystemInstructions : Prop :=
  (∀ (s : State) (t : SyTlbi) (m : CpMask),
    let x := s.me
    let asid : BitVec 12 := (x.rdS .none (r6 t.sa)).setWidth 12
    let vpn := (x.rdS .none (r6 t.sb)).toNat / 2 ^ 16 % 2 ^ 40
    (x.guardOn .none t.g = true →
      ((s.desc s.cur).priv = false → exec (.tlbi t) s = .next (s.traps cPRIVILEGE 11 (wordOf (.tlbi t)))) ∧
      ((s.desc s.cur).priv = true → x.es.tlbiDone = false → (∀ o ∈ x.es.sy, ∀ a b c d, o ≠ .tlbi a b c d) →
        exec (.tlbi t) s = .next ((s.modMe fun y => { y with es := { y.es with sy := y.es.sy ++ [.tlbi t.sel asid vpn] } }).holdFor 3)) ∧
      ((s.desc s.cur).priv = true → x.es.tlbiDone = true →
        exec (.tlbi t) s = .next (s.modMe fun y => { y with es := { y.es with tlbiDone := false } }))) ∧
    (x.guardOn .none m.g = true →
      let waits := ∃ e : EngId, m.qmask.getLsbD e.val = true ∧ ∃ l ∈ (x.es.eng[e]).log, l.gang = false
      let again := fun (y : UnitSt) (e : Fin 12) => if m.qmask.getLsbD e.val then { y.es.eng[e] with replay := true } else y.es.eng[e]
      let tries := s.modMe fun y => { y with es := { y.es with eng := Vector.ofFn (again y) } }
      (¬waits → exec (.sldrain m) s = .next tries) ∧
      (waits → x.seq.held = none → exec (.sldrain m) s = .next (tries.holdFor 3)) ∧
      (waits → x.seq.held ≠ none → exec (.sldrain m) s = .next (s.holdFor 3)))) ∧
  (∀ (s : State) (r : SyTrc) (p : SyPmrd) (e : SyEnrd),
    let x := s.me
    let res := fun (d : FDest) (lat : Nat) (v : Word) => Host.Outcome.next (s.emit { slot := 11, dst := d, lat := lat, val := v.setWidth 4096 })
    (x.guardOn .none r.g = true → exec (.trcon r) s = res (.trc true) 1 (r.src.setWidth 64) ∧
      exec (.trcoff r) s = res (.trc false) 1 (r.src.setWidth 64)) ∧
    (x.guardOn .none p.g = true →
      let c := x.pm.cnt[Fin.ofNat 16 (p.n.toNat % 16)]
      let counted := x.pm.ctl.getLsbD 1 = true ∨ s.ownerOf s.cur = some (fld x.pm.ctl 20 12)
      ∃ v, exec (.pmrd p) s = res (.s (r6 p.dst)) 2 v ∧ (¬counted → v = 0) ∧
        (counted → (p.n.toNat < 16 → v = c.count) ∧ (16 ≤ p.n.toNat → p.n.toNat < 32 → v = c.ten) ∧
          (32 ≤ p.n.toNat → p.n.toNat < 48 → v = c.trun) ∧
          (48 ≤ p.n.toNat → v = (fld (x.pm.sel[Fin.ofNat 16 (p.n.toNat % 16)]) (8 * x.pm.set_.toNat) 8).setWidth 64))) ∧
    (x.guardOn .none e.g = true → ∃ v : Word, exec (.enrd e) s = res (.s (r6 e.dst)) 2 v ∧
      ∀ j < 64, v.getLsbD j = (x.ck.ectr.getLsbD j && (decide (j < 48) || decide (j = 63))))) ∧
  (∀ (s : State) (g : GuardOnly), s.me.guardOn .none g.g = true →
    (s.me.phase.on = true → exec (.gangc g) s = .next (s.traps cILLEGAL_OPERAND 11 (wordOf (.gangc g)))) ∧
    (s.me.phase.on = false → (∀ k, s.unitGang s.cur = some k → k.committed = true) → exec (.gangc g) s = .next s) ∧
    (∀ k, s.me.phase.on = false → s.unitGang s.cur = some k → k.committed = false →
      exec (.gangc g) s = .next ((s.castVote s.cur).holdFor 3)) ∧
    exec (.yield g) s = .next (s.modMe fun x => { x with seq := { x.seq with yielded := true } }))

/-! ### Clocks of a unit, segments and markers -/

/-- R40, R43, R161, R169, R371: a clock of a running unit that nothing holds lands what is due, fetches the bundle at PC and
issues one instance of it: a wait holds it, a cause of the bundle or of a slot, lowest slot first, takes the trap, and otherwise
every operation that is not nullified takes its effect. A clock in which an instance issues counts in CLK and SCYC, a stall
clock in CLK alone; an idle unit only counts its clock. -/
def Obligations.UnitClocks : Prop :=
  (∀ (s : State) (a : UnitArg) (h : Header) (ws : List (Fin 12 × Word)) (tr : Word), (s.unit a.u).canIssue = true →
    let b := ({ s with cur := a.u } : State).startClock
    let l := b.issued h ws
    let ops := l.filterMap Issued.op
    let gives := fun (t : State) => exec (.bundleInstance a) s = .next { t with cur := s.cur }
    b.me.fetch b.me.seq.pc.toNat = .ok h ws tr → headerBad (isBrim a.u) h ws = false →
    (∀ o c n, firstWait ops = some (o, c, n) → gives (((o.onWait b).holdFor c).waitEnd (c, n))) ∧
    (firstWait ops = none → portsBad ops = true → gives (b.bundleTrap cILLEGAL_BUNDLE h.raw).faultClock) ∧
    (firstWait ops = none → portsBad ops = false → segmentBad b.me h = true → gives (b.bundleTrap cSEGMENT_STATE h.raw).faultClock) ∧
    (firstWait ops = none → portsBad ops = false → segmentBad b.me h = false →
      (∀ t o, slotFault b.me ops 0 0 [] = some (t, o) → gives ((o.onFault b).takeTrap b.cur t).faultClock) ∧
      (slotFault b.me ops 0 0 [] = none →
        gives (b.closeInstance ((ops.filter fun o => !o.nul).foldl (fun s o => o.run s) b) h tr l)))) ∧
  (∀ (s : State) (a : UnitArg), (s.unit a.u).status = .idle → (s.unit a.u).stop.stopped = false → (s.unit a.u).seq.accs = [] →
    (s.unit a.u).seq.undo = [] → (s.unit a.u).ck.gateRun = 0 →
    ∃ t, exec (.bundleInstance a) s = .next t ∧ t.dev = s.dev ∧ t.cur = s.cur ∧ (∀ v, v ≠ a.u → t.unit v = s.unit v) ∧
      (t.unit a.u).ck.clk = ((s.unit a.u).ck.clk + 1) % 2 ^ 64 ∧ (t.unit a.u).ck.scyc = (s.unit a.u).ck.scyc ∧
      (t.unit a.u).regs = (s.unit a.u).regs ∧ (t.unit a.u).seq = (s.unit a.u).seq ∧ (t.unit a.u).st = (s.unit a.u).st) ∧
  (∀ s : State,
    let counts := fun (t : State) (n : Nat) => t.cur = s.cur ∧ t.me.ck.clk = (s.me.ck.clk + 1) % 2 ^ 64 ∧ t.me.ck.scyc = s.me.ck.scyc + n
    (∀ pc, counts (s.issuedClock pc s.me.ck.scyc) 1) ∧ (∀ c, counts (s.waitEnd c) 0) ∧ counts s.faultClock 0 ∧ (∀ c k, counts (s.gateClock c k) 0) ∧
      (∀ line, counts (s.fetchClock line) 0))

/-- R181, R182, R391, R344: a segment opens with CNT 0 and CRC 0xFFFFFFFF while none is open; its end compares both with the
trailer, closes it, and on a mismatch cancels the phase in
phase mode when no PHASE stood in the segment and kills the context otherwise, with SIGNATURE; the other state raises SEGMENT_STATE. A
marker at trap level 0 takes CCLK − PAYLOAD as its drift and arms the recorder when that exceeds DTHRESH; after a resume it loads
CCLK instead; at levels 1 and 2 it does nothing.
R67, R310, R343: VSEED sets the generator of lane i of a crown to VSEED xor i-th multiple, 1 in place of 0; PREQ takes its bit
with RPRIO 0; a write of PMCTL or PMPER zeroes every counter of the unit, one of PMSEL[c] counter c; the active set advances modulo
NSET + 1 at every unit whose PMPER clocks have passed. -/
def Obligations.SegmentsMarkersAndUnitRegisters : Prop :=
  ((∀ s : State,
    (s.me.seg.opened = false →
      exec .segmentBegin s = .next (s.modMe fun x => { x with seg := { opened := true, cnt := 0, crc := 0xFFFFFFFF, phased := false } })) ∧
    (s.me.seg.opened = true → exec .segmentBegin s = .next (s.bundleTrap cSEGMENT_STATE s.header.raw))) ∧
  (∀ (s : State) (a : SegEndArg),
    let g := s.me.seg
    let closed := s.modMe fun x => { x with seg := { x.seg with opened := false } }
    let agrees := g.cnt = a.cnt.setWidth 64 ∧ ~~~g.crc = a.sig
    (g.opened = true → agrees → exec (.segmentEnd a) s = .next closed) ∧
    (g.opened = true → ¬agrees → s.me.phase.on = false ∨ g.phased = true → exec (.segmentEnd a) s = .next (closed.killUnit s.cur 0x38)) ∧
    (g.opened = true → ¬agrees → s.me.phase.on = true → g.phased = false →
      exec (.segmentEnd a) s = .next (closed.cancelPhase s.cur 0x38 [] none)) ∧
    (g.opened = false → exec (.segmentEnd a) s = .next (s.bundleTrap cSEGMENT_STATE s.header.raw))) ∧
  (∀ (s : State) (p : BitVec 32),
    let o := s.me.obs
    (s.me.trap.tl ≠ 0 → exec (.marker p) s = .next s) ∧
    (s.me.trap.tl = 0 → ∃ t, exec (.marker p) s = .next t ∧ t.me.regs = s.me.regs ∧ t.me.seq = s.me.seq ∧ t.me.obs.cclkBase = true ∧
      (o.cclkBase = true → t.me.obs.cclk = o.cclk ∧ (t.me.obs.arm = true ↔ o.dthresh.toNat < ((o.cclk - p).toInt).natAbs)) ∧
      (o.cclkBase = false → t.me.obs.cclk = p ∧ t.me.obs.arm = false)))) ∧
  ((∀ (s : State) (a : UnitWriteArg),
    (a.u = brim → exec (.vseedWrite a) s = .next s) ∧
    (a.u ≠ brim → ∃ g : Vector (BitVec 32) 128,
      exec (.vseedWrite a) s = .next (s.modUnit a.u fun x => { x with fp := { x.fp with gens := g } }) ∧
      ∀ i : Fin 128, let x := a.v.setWidth 32 ^^^ (0x9E3779B9#32 * BitVec.ofNat 32 (i.val + 1)); g[i] = if x = 0 then 1 else x)) ∧
  (∀ (s : State) (a : PreqArg), exec (.preqWrite a) s = .next (s.modUnit a.u fun x => { x with ck := { x.ck with
    preq := a.req, rprio := 0, reqClks := if x.ck.preq = true ∧ a.req = true then x.ck.reqClks else 0 } })) ∧
  (∀ (s : State) (a : PmArg), ∃ t, exec (.pmctlWrite a) s = .next t ∧ t.dev = s.dev ∧ (∀ v, v ≠ a.u → t.unit v = s.unit v) ∧
    t.unit a.u = { s.unit a.u with pm := (t.unit a.u).pm } ∧
    let p := (s.unit a.u).pm
    let q := (t.unit a.u).pm
    (a.reg = 0 → q.ctl = a.v &&& 0xFFF0000F#64 ∧ q.per = p.per ∧ q.sel = p.sel ∧ q.set_ = 0 ∧ ∀ c : Fin 16, q.cnt[c] = ⟨0, 0, 0⟩) ∧
    (a.reg = 1 → q.per = a.v.setWidth 32 ∧ q.ctl = p.ctl ∧ q.sel = p.sel ∧ q.set_ = 0 ∧ ∀ c : Fin 16, q.cnt[c] = ⟨0, 0, 0⟩) ∧
    (∀ c : Fin 16, a.reg.val = c.val + 2 → q.sel[c] = a.v.setWidth 32 ∧ q.cnt[c] = ⟨0, 0, 0⟩ ∧ q.ctl = p.ctl ∧ q.per = p.per ∧
      ∀ d : Fin 16, d ≠ c → q.sel[d] = p.sel[d] ∧ q.cnt[d] = p.cnt[d])) ∧
  (∀ s : State, ∃ t, exec .counterSetRotate s = .next t ∧ t.dev = s.dev ∧ ∀ u : UnitId,
    let p := (s.unit u).pm
    let due := p.per ≠ 0 ∧ p.per.toNat ≤ p.since.toNat
    (¬due → t.unit u = s.unit u) ∧
    (due → t.unit u = { s.unit u with pm := { p with since := 0, set_ := BitVec.ofNat 2 ((p.set_.toNat + 1) % ((fld p.ctl 2 2).toNat + 1)) } })))

/-! ### Registers written from outside a bundle, the precise stop, the rotating counters -/

/-- R346, R347: a request to stop stops the unit at the end of the clock in which the next instance issues, or of a stall clock of a
wait; a stopped unit's clock moves CLK and the rotating counters, and a barrier that is complete flips (one of EXPECT 0 never: the
model's reading, log 21); the dump is written once; GO resumes the unit, from DUMPVA when RELOAD = 1, once the parts of the dump that
other devices hold have come, and leaves the latches. R348: INJHDR is taken only while the unit is stopped, its cube idle, LVL 0 or 1 and
the header one that may be injected (TMMA, TMMAS and TMMA.P, at LVL 1 TJOIN: the model's reading, log 23), and sets INJST.STATUS otherwise
and on the brim core; the injected header runs once, on one batt and at LVL 0 on one quad, and sets DONE: a product of one step adds its terms
to the selected elements of its slot, or of the batt's plane, a TJOIN writes the plane to its slot, and no other accumulator row changes. -/
def Obligations.PreciseStopAndInjection : Prop :=
  (∀ (s : State) (a : UnitArg),
    let x := s.unit a.u
    (x.stop.stopped = false → exec (.stopctlStop a) s = .next (s.modUnit a.u fun x => { x with stop := { x.stop with stopReq := true } })) ∧
    (x.stop.stopped = true → exec (.stopctlStop a) s = .next s) ∧
    (x.stop.stopped = true → x.status = .running → x.ck.gateRun = 0 → ∃ t, exec (.bundleInstance a) s = .next t ∧ t.dev = s.dev ∧
      (t.unit a.u).ck = { x.ck with clk := (x.ck.clk + 1) % 2 ^ 64 } ∧ (t.unit a.u).regs = x.regs ∧ (t.unit a.u).lat = x.lat ∧
      (t.unit a.u).seq = x.seq ∧ (t.unit a.u).trap = x.trap ∧ (t.unit a.u).st = x.st ∧
      (t.unit a.u).cube = x.cube ∧ (t.unit a.u).stop = x.stop ∧
      ∀ n : Fin 32, let b := x.bars[n]
        (t.unit a.u).bars[n] = if b.expect ≠ 0 ∧ b.arrived = b.expect ∧ b.bytes = 0 ∧ b.broken = false
          then { b with phase := !b.phase, arrived := 0, flipped := false } else { b with flipped := false }) ∧
    (x.stop.stopped = false ∨ (x.stop.dumped = true ∧ x.stop.going = false) → exec (.dumpComplete a) s = .next s) ∧
    (x.stop.stopped = true → x.stop.dumped = false → x.stop.going = false →
      let h := s.endHeader a.u
      let y := h.1.unit a.u
      let image := if a.u = brim then h.1.brimFixed else y.crownFixed
      let w := h.1.saveAll a.u 10 y.obs.rxl y.stop.dumpva.toNat image
      (h.2 = false → exec (.dumpComplete a) s = .next h.1) ∧
      (h.2 = true → ∃ t, exec (.dumpComplete a) s = .next t ∧ (t.unit a.u).stop.dumped = true ∧
        (w.2 = 0 → t = w.1.modUnit a.u fun x => { x with stop := { x.stop with dumped := true } })))) ∧
  (∀ (s : State) (pc : BitVec 56) (sc : Nat) (c : Nat × Nat), s.me.stop.stopReq = true →
    (s.issuedClock pc sc).me.stop.stopped = true ∧ (s.issuedClock pc sc).me.stop.stopReq = false ∧
    (s.waitEnd c).me.stop.stopped = true ∧ (s.waitEnd c).me.stop.stopReq = false ∧ (s.waitEnd c).me.seq.pc = s.me.seq.pc) ∧
  (∀ (s : State) (a : GoArg),
    let x := s.unit a.u
    let resumes := fun (b t : State) => (∀ v, v ≠ a.u → t.unit v = s.unit v) ∧ (t.unit a.u).stop.stopped = false ∧
      (t.unit a.u).stop.going = false ∧ (t.unit a.u).lat = x.lat ∧ (t.unit a.u).st = x.st ∧ (t.unit a.u).ck.scyc = x.ck.scyc ∧
      let rd := b.reader a.u 10 x.obs.rxl x.stop.dumpva.toNat
      (t.unit a.u).seq.pc = BitVec.ofNat 56 (rd 0 8 x.seq.pc.toNat) ∧
      ∀ k : Fin 64, (t.unit a.u).regs.s[k] = BitVec.ofNat 64 (rd (0x1D0 + 8 * k.val) 8 (x.regs.s[k]).toNat)
    (x.stop.stopped = false ∨ x.stop.going = true → exec (.stopctlGo a) s = .next s) ∧
    (x.stop.stopped = true → x.stop.going = false → a.reload = false → exec (.stopctlGo a) s =
      .next (s.modUnit a.u fun x => { x with stop := { x.stop with stopped := false, reload := false, going := false } })) ∧
    (x.stop.stopped = true → x.stop.going = false → a.reload = true →
      let r := s.modUnit a.u fun x => { x with stop := { x.stop with reload := true } }
      let b := r.noteReload a.u 10 x.obs.rxl x.stop.dumpva.toNat (r.dumpChunks a.u)
      (b.reloadOut a.u = true → exec (.stopctlGo a) s = .next (b.modUnit a.u fun x => { x with stop := { x.stop with going := true } })) ∧
      (b.reloadOut a.u = false → ∃ t, exec (.stopctlGo a) s = .next t ∧ resumes b t)) ∧
    (x.stop.stopped = true → x.stop.going = true →
      (s.reloadOut a.u = true → exec (.dumpComplete ⟨a.u⟩) s = .next s) ∧
      (s.reloadOut a.u = false → ∃ t, exec (.dumpComplete ⟨a.u⟩) s = .next t ∧ resumes s t))) ∧
  (∀ (s : State) (a : UnitWriteArg),
    let x := s.unit a.u
    let refused := exec (.injhdrWrite a) s = .next (s.modUnit a.u fun x => { x with stop := { x.stop with injStatus := true } })
    let may := hdrOpc a.v = 1 ∨ hdrOpc a.v = 2 ∨ hdrOpc a.v = 3 ∨ (hdrOpc a.v = 12 ∧ hdrLvl a.v = 1)
    (a.u = brim → refused) ∧
    (x.stop.stopped = false ∨ x.cube.cmds ≠ [] ∨ x.cube.stopped ≠ none ∨ x.stop.inj ≠ none ∨ 2 ≤ hdrLvl a.v ∨ ¬may ∨
      snapIllegal a.v x.regs.cb = true ∨ snapShape a.v x.regs.cb = true → refused) ∧
    (a.u ≠ brim → x.stop.stopped = true → x.cube.cmds = [] → x.cube.stopped = none → x.stop.inj = none → hdrLvl a.v ≤ 1 → may →
      snapIllegal a.v x.regs.cb = false → snapShape a.v x.regs.cb = false →
      exec (.injhdrWrite a) s =
        .next (s.modUnit a.u fun x => { x with stop := { x.stop with inj := some a.v, injDone := false, injStatus := false } }))) ∧
  (∀ (s : State) (a : UnitArg) (h : Word), (s.unit a.u).stop.stopped = true → (s.unit a.u).stop.inj = some h →
    let x := s.unit a.u
    let clean := (∀ g, (smGet ({} : Gran) x.st.face g).poison = false) ∧ x.st.accPoison = [] ∧ x.st.planePoison = []
    let cb := x.regs.cb
    let b := (fld x.stop.injsel 7 3).toNat
    let k : CubeCmd := { hdr := h, cb := cb, mode := x.cube.scsel, t := 0 }
    let sel := fun (i c : Nat) => hdrLvl h ≠ 0 ∨ (i / 16 = (fld x.stop.injsel 4 3).toNat ∧ c / 16 = (fld x.stop.injsel 1 3).toNat)
    ∃ t, exec (.injectionComplete a) s = .next t ∧ (t.unit a.u).stop = { x.stop with inj := none, injDone := true } ∧
      (t.unit a.u).regs = x.regs ∧ (t.unit a.u).st.face = x.st.face ∧
      (clean → t.dev = s.dev ∧ (∀ v, v ≠ a.u → t.unit v = s.unit v) ∧ (t.unit a.u).seq = x.seq ∧ (t.unit a.u).cube = x.cube ∧
        (tkind h = .mma ∨ tkind h = .mmas → stepsOf h cb = 1 → Snap.fmtA cb ≠ .f64 → smWf 0 x.st.acc = true →
          let q := blockSlot h cb (stepIdx h cb 0)
          let r := capture x k (fun kk i => battOf false (Snap.c h cb) kk i == b) 0 0 (stepIdx h cb 0).1 (stepIdx h cb 0).2.1 (stepIdx h cb 0).2.2 0 s.free
          let c : ChunkCap := { cmd := 0, at_ := 0, step := 0, slot := q, fmtA := Snap.fmtA cb, fmtB := Snap.fmtB cb, zero := hdrZ h, a := r.a, b := r.b }
          (∀ i < 128, ∀ l < 128, ∃ w, el 32 (accRow (t.unit a.u).st (q * 128 + i)) l = w ∧
            (sel i l → w = c.elem (accRow x.st (q * 128 + i)) i l) ∧ (¬sel i l → w = el 32 (accRow x.st (q * 128 + i)) l)) ∧
          (∀ key, key / 128 ≠ q → accRow (t.unit a.u).st key = accRow x.st key) ∧ (t.unit a.u).st.planes = x.st.planes) ∧
        (tkind h = .mmap → Snap.nch h cb = 1 → smWf 0 x.st.planes = true → Snap.fmtA cb ≠ .f64 →
          let r := capture x k (fun _ _ => true) (b * Snap.f cb 1 32 32) (b * Snap.f cb 3 32 32) 0 0 0 b s.free
          let c : ChunkCap := { cmd := 0, at_ := 0, step := b, slot := b, fmtA := Snap.fmtA cb, fmtB := Snap.fmtB cb, zero := hdrZ h, a := r.a, b := r.b }
          (∀ i < 128, ∀ l < 128, ∃ w, el 32 (planeRow (t.unit a.u).st (b * 128 + i)) l = w ∧
            (sel i l → w = c.elem (planeRow x.st (b * 128 + i)) i l) ∧ (¬sel i l → w = el 32 (planeRow x.st (b * 128 + i)) l)) ∧
          (∀ key, key / 128 ≠ b → planeRow (t.unit a.u).st key = planeRow x.st key) ∧ (t.unit a.u).st.acc = x.st.acc) ∧
        (tkind h = .join → smWf 0 x.st.acc = true →
          (∀ r < 128,
            let old := accRow x.st (hdrAcc h * 128 + r)
            let p := planeRow x.st (b * 128 + r)
            accRow (t.unit a.u).st (hdrAcc h * 128 + r) = if hdrZ h then joinRow (hdrSub h) old p else p) ∧
          (∀ key, key / 128 ≠ hdrAcc h → accRow (t.unit a.u).st key = accRow x.st key) ∧ (t.unit a.u).st.planes = x.st.planes)))

/-! ### Contexts (R300–R315, R320, R373, R377, R378) -/

/-- R305, R388, R389: a write of word 7 posts the record of a launch slot: it is discarded while the slot's post is pending, refused in
a disabled pool or for a bad record (tested once an entry is free: log 43), kept pending while the pool has no free entry, and otherwise
makes the pool's lowest free entry (log 25, the model's choice, like log 43) a posted one, last in the post order. Any other aligned 8-byte write stores its word, and no other write has an effect. -/
def Obligations.LaunchWindow : Prop :=
  (∀ (s : State) (a : Word7Arg),
    let sl := s.dev.sched.slots[a.p]
    let d := s.dev.sched.desc[a.p]
    let w := sl.w.set 7 a.v
    let slotIs := fun (t : State) (x : LaunchSlot) => t.units = s.units ∧ t.dev.sched.slots = s.dev.sched.slots.set a.p x
    (sl.pending = true → exec (.launchWord7Write a) s = .next s) ∧
    (sl.pending = false → d.en = false ∨ ((s.dev.sched.freeEnt a.p).isSome = true ∧ recordBad d w = true) →
      ∃ t, exec (.launchWord7Write a) s = .next t ∧ slotIs t ⟨w, false, true⟩ ∧ t.dev.sched.ents = s.dev.sched.ents) ∧
    (sl.pending = false → d.en = true → s.dev.sched.freeEnt a.p = none →
      ∃ t, exec (.launchWord7Write a) s = .next t ∧ slotIs t ⟨w, true, false⟩ ∧ t.dev.sched.ents = s.dev.sched.ents) ∧
    (∀ n, sl.pending = false → d.en = true → s.dev.sched.freeEnt a.p = some n → recordBad d w = false →
      ∃ t e, exec (.launchWord7Write a) s = .next t ∧ slotIs t ⟨w, false, false⟩ ∧ t.dev.sched.posts = s.dev.sched.posts + 1 ∧
        e ∈ t.dev.sched.ents ∧ e.pool = a.p ∧ e.ent = BitVec.ofNat 8 n ∧ e.st = .posted ∧ e.order = s.dev.sched.posts ∧ e.tr = gangRecord none w)) ∧
  (∀ (s : State) (a : SlotArg),
    let sl := s.dev.sched.slots[a.p]
    let ok := a.size = 8 ∧ a.off.toNat % 8 = 0 ∧ sl.pending = false
    (¬ok → exec (.launchSlotWrite a) s = .next s) ∧
    (ok → a.off.toNat = 56 → exec (.launchSlotWrite a) s = exec (.launchWord7Write ⟨a.p, a.v⟩) s) ∧
    (∀ i : Fin 8, ok → a.off.toNat = 8 * i.val → i ≠ 7 → exec (.launchSlotWrite a) s = .next (s.modDev fun d =>
      { d with sched := { d.sched with slots := d.sched.slots.set a.p { sl with w := sl.w.set i a.v } } })))

/-- R306–R308, R88, R310: while SCHEDCTL.EN = 0 nothing is chosen; the entry chosen first is an eligible one of highest effective
priority, the oldest of those; the first of its rectangles whose crowns are all free receives a posted record's task: zero
registers with p0 all ones, PC at ENTRY, trap level 0, ECTR 0, the pool's translation base, CPOS of its place; where none is free
but one holds only contexts that may be stopped, PREQ is raised on them and the rectangle held. -/
def Obligations.Dispatching : Prop :=
  (∀ (s : State) (q : Fin 8), s.dev.sched.ctl.getLsbD 0 = false → exec (.dispatchDecision q) s = .next s) ∧
  (∀ (d : Dev) (q : Nat) (e : PoolEnt) (l : List PoolEnt), d.choice q = e :: l → e ∈ d.sched.ents ∧ d.eligible q e = true ∧
    ∀ f ∈ d.sched.ents, d.eligible q f = true → d.effPrio f < d.effPrio e ∨ (d.effPrio f = d.effPrio e ∧ e.order ≤ f.order)) ∧
  (∀ (s : State) (q : Fin 8) (e : PoolEnt) (l : List PoolEnt) (ks : List Nat), s.dev.sched.ctl.getLsbD 0 = true →
    s.dev.choice q.val = e :: l → e.st = .posted → (recBrim e.tr && recGang e.tr) = false →
    (s.rects e).find? (fun ks => !ks.isEmpty && ks.all (s.freeFor e)) = some ks →
    ∃ t, exec (.dispatchDecision q) s = .next t ∧ ∀ i (hi : i < ks.length),
      let x := t.unit (placeU ks[i])
      let w := (recRect e.tr).1
      x.status = .running ∧ (∃ c, x.ctx = some c ∧ c.pool = e.pool ∧ c.ent = e.ent ∧ c.tr = e.tr) ∧
      (∀ n : Fin 64, x.regs.s[n] = 0 ∧ x.regs.v[n] = 0) ∧ (∀ n : Fin 12, x.regs.p[n] = if n = 0 then BitVec.allOnes 128 else 0) ∧
      x.seq.pc.toNat = (fld (e.tr[0]) 0 56).toNat ∧ x.seq.rix = 0 ∧ x.seq.loops = [] ∧ x.seq.flights = [] ∧ x.trap.tl = 0 ∧
      x.lat = {} ∧ x.ck.ectr = 0 ∧ x.ck.preq = false ∧ x.ck.xlbase = (s.dev.sched.desc[e.pool]).w0 &&& xlBits ∧ x.ck.cpos = cposOf e.tr (i % w) (i / w)) ∧
  (∀ (s : State) (q : Fin 8) (e : PoolEnt) (ks : List Nat), s.dev.sched.ctl.getLsbD 0 = true → s.dev.choice q.val = [e] →
    (s.rects e).find? (fun ks => !ks.isEmpty && ks.all (s.freeFor e)) = none → s.holding e = false →
    (s.rects e).find? (fun ks => !ks.isEmpty && ks.all fun k => s.freeFor e k || s.victim e (s.dev.effPrio e) k) = some ks →
    ∃ t, exec (.dispatchDecision q) s = .next t ∧
      (∀ u : UnitId, ((t.unit u).regs = (s.unit u).regs ∧ (t.unit u).seq = (s.unit u).seq) ∧
        ∀ c k d, (s.unit u).ctx = some c → (s.unit u).status = .running → k ∈ ks → (s.unit (placeU k)).ctx = some d → d.pool = c.pool →
          d.ent = c.ent → (t.unit u).ck.preq = true ∧ (t.unit u).ck.rprio = BitVec.ofNat 4 (s.dev.effPrio e)) ∧
      t.dev.sched.heldRect = s.dev.sched.heldRect ++ ks.map fun k => (k, e.pool, e.ent))

/-- R312, R436, R467: a context that stops is saved once its cube and its engines rest; the write of its record that faults kills it with
that cause, and a whole record frees the unit with the state kept for the resume; a resumed unit goes on when the parts of its record
that other devices hold have come. The record is written by engine 0 under XLBASE once every unit of the context rests (the model's reading,
log 41). R51, R309: EXIT completes when nothing of the unit
is outstanding; with the last unit the context ends, raising DCNTR if DV = 1. R377: a killed context ends when its engines are idle
and nothing of it is outstanding (the model's reading, log 20). The end of a context frees its units and its entry. -/
def Obligations.ContextEnds : Prop :=
  (∀ (s : State) (a : UnitArg) (c : Ctx),
    let x := s.unit a.u
    ∀ e, x.ctx = some c → s.entOf c.pool c.ent = some e →
    (x.status = .saving →
      let ready := ∀ k ∈ e.units, s.stopReady e k = true
      let b := (s.endHeader a.u).1
      let all := (s.endHeader a.u).2 = true
      (¬ready → exec (.saveRecordComplete a) s = .next s) ∧
      (ready → ¬all → exec (.saveRecordComplete a) s = .next b) ∧
      (ready → all →
        let r := b.saveAll a.u 0 (b.unit a.u).ck.xlbase (b.saveVa a.u) (if a.u = brim then b.brimRecord else (b.unit a.u).crownRecord)
        (r.2 ≠ 0 → exec (.saveRecordComplete a) s =
          .next ((r.1.sees a.u (decide (r.2 = 0x30 ∨ r.2 = 0x31))).killUnit a.u (BitVec.ofNat 8 r.2))) ∧
        (r.2 = 0 → exec (.saveRecordComplete a) s = .next (r.1.modUnit a.u fun y => { y with status := .stored })))) ∧
    (x.status = .stored →
      (s.sideOut a.u = true → exec (.saveRecordComplete a) s = .next s) ∧
      (s.sideOut a.u = false → ∃ t e', exec (.saveRecordComplete a) s = .next t ∧ (t.unit a.u).status = .idle ∧
        (t.unit a.u).ctx = none ∧ t.entOf c.pool c.ent = some e' ∧ (e.place a.u, x) ∈ e'.saved)) ∧
    (x.status = .reloading → (s.reloadOut a.u = true → exec (.saveRecordComplete a) s = .next s) ∧
      (s.reloadOut a.u = false → exec (.saveRecordComplete a) s = .next (s.finishReload a.u)))) ∧
  (∀ (s : State) (a : UnitArg) (c : Ctx) (e : PoolEnt),
    let x := s.unit a.u
    let s' := s.modEnt c.pool c.ent fun y => { y with left := e.left.filter fun k => k != a.u.val }
    x.status = .exiting → x.ctx = some c → s.entOf c.pool c.ent = some e →
    (s.exitDone a.u = false → exec (.exitComplete a) s = .next s) ∧
    (s.exitDone a.u = true → a.u.val ∈ e.left →
      ((∃ k ∈ e.left, k ≠ a.u.val) → exec (.exitComplete a) s = .next s') ∧
      ((∀ k ∈ e.left, k = a.u.val) → exec (.exitComplete a) s = .next (s'.endContext c.pool c.ent true)))) ∧
  (∀ (s : State) (a : UnitArg) (c : Ctx) (e : PoolEnt), (s.unit a.u).status = .killed → (s.unit a.u).ctx = some c →
    s.entOf c.pool c.ent = some e → (∀ y ∈ s.dev.sched.ents, y.st = .ended → y.brimOf ≠ some (e.pool, e.ent)) →
    let us := ((s.holders e).filter fun h => !h.2.1).map Prod.fst
    let s1 := us.foldl State.gangKilled s
    ((∃ u ∈ us, s.killRests u = false) → exec (.killEnd a) s = .next s) ∧
    (∀ e', (∀ u ∈ us, s.killRests u = true) → s1.entOf c.pool c.ent = some e' →
      exec (.killEnd a) s = .next (s1.killedEnd e' (s.unit a.u).killCause))) ∧
  (∀ (s : State) (p : Fin 16) (n : BitVec 8) (done : Bool) (e : PoolEnt), s.entOf p n = some e →
    let t := s.endContext p n done
    (e.saved = [] → ∀ k ∈ e.units, (t.unit (placeU k)).status = .idle ∧ (t.unit (placeU k)).ctx = none ∧ (t.unit (placeU k)).ck.preq = false) ∧
    (∀ f ∈ t.dev.sched.ents, ¬(f.pool = p ∧ f.ent = n)) ∧
    (smWf 0 s.dev.counters = true → done = true → recDv e.tr = true → t.dev.counter (recDcntr e.tr) = s.dev.counter (recDcntr e.tr) + 1) ∧
    (done = false → t.dev.counters = s.dev.counters))

/-- R378: PREQ held for I_max + 2,048 clocks without a stop kills the context with cause 61. R318, R320: each unit that holds a
context is charged its static energy every 4,096 clocks. R373: at an instance boundary the due deferred cause with the
earliest issue, the lower engine of two, leaves the list and takes its trap. R397: a cancelled phase waits for the elements that its
discarded commands have started, what its engines have collected for the faces and the stores of committed instances; then the refetch command is re-issued at the head of its
queue, or none; with none, or once it has completed, p, s, a, cb, cq, the loop stack and the sticky states are restored and the phase
resumes at its restart PC. -/
def Obligations.ContextEvents : Prop :=
  (∀ (s : State) (a : UnitArg),
    let x := s.unit a.u
    let waits := (x.status = .running ∧ x.ck.preq = true) ∨ (x.status = .saving ∧ x.enginesRest = false)
    (waits → x.imax + 2048 ≤ x.ck.reqClks → exec (.watchdog a) s = .next (s.killUnit a.u 0x61)) ∧
    (¬(waits ∧ x.imax + 2048 ≤ x.ck.reqClks) → exec (.watchdog a) s = .next s)) ∧
  (∀ (s : State) (a : UnitArg) (k : CrownId), a.u.val = k.val →
    let x := s.unit a.u
    let mhz := (s.dev.pow.mhz[k]).toNat
    (x.ctx ≠ none → x.ck.clk % 4096 = 0 → mhz ≠ 0 → exec (.staticCharge a) s = .next (s.modUnit a.u fun x => { x with
      ck := { x.ck with ectr := addEnergy x.ck.ectr (4096 * (fld s.dev.sched.ctl 16 32).toNat * 1000 / mhz) } })) ∧
    (x.ctx = none ∨ x.ck.clk % 4096 ≠ 0 ∨ mhz = 0 → exec (.staticCharge a) s = .next s)) ∧
  (∀ (s : State) (a : UnitArg),
    let x := s.unit a.u
    let due := fun (p : Pend) => p ∈ x.trap.pend ∧ x.trap.tl.toNat ≤ p.lvl.toNat
    (x.atBoundary = false ∨ (∀ p, ¬due p) → exec (.deferredCauseTaken a) s = .next s) ∧
    (x.atBoundary = true → (∃ p, due p) → ∃ p, due p ∧
      (∀ q, due q → p.sc < q.sc ∨ (p.sc = q.sc ∧ p.eng.toNat ≤ q.eng.toNat)) ∧
      exec (.deferredCauseTaken a) s =
        .next (((s.modUnit a.u fun x => { x with trap := { x.trap with pend := x.trap.pend.erase p } }).pay a.u).takeTrap a.u
          { code := p.code, tval := p.tval, deferred := true, skip := p.skip }))) ∧
  (∀ (s : State) (a : UnitArg) (w : UnitId) (e : EngId) (id : Nat) (n : PhaseSnap),
    let x := s.unit a.u
    let q := ((s.unit w).es.eng[e]).q
    x.phase.refetching = some (w, e, id) → x.phase.snap = some n →
    ((∃ c ∈ q, c.id = id) → exec (.refetchComplete a) s = .next s) ∧
    ((∀ c ∈ q, c.id ≠ id) → ∃ t, exec (.refetchComplete a) s = .next t ∧ t.dev = s.dev ∧ (∀ v, v ≠ a.u → t.unit v = s.unit v) ∧
      let y := t.unit a.u
      y.regs = { x.regs with p := n.p, s := n.s, a := n.a, cb := n.cb, cq := n.cq } ∧ y.seq.loops = n.loops ∧ y.seq.sticky = n.sticky ∧
      y.seq.pc = x.phase.restart ∧ y.seq.rix = 0 ∧ y.seg.opened = false ∧ y.cube.scsel = n.scsel ∧ y.phase.refetching = none ∧
      (∀ b : Fin 32, y.bars[b] = if x.phase.touched.getLsbD b.val then x.phase.shadow[b] else x.bars[b]) ∧ y.st = x.st)) ∧
  (∀ (s : State) (a : UnitArg), (s.unit a.u).phase.refetching = none →
    let y := s.unit a.u
    (y.phase.closing = none → exec (.refetchComplete a) s = .next s) ∧
    (∀ (ref : Option (UnitId × EngId × QEnt)) (n : PhaseSnap), y.phase.closing = some ref → y.phase.snap = some n →
      let busy := (∃ e : EngId, (∃ q ∈ (y.es.eng[e]).q, q.dropped = true ∧ q.unfinished = true) ∨
        (y.phase.qmask.getLsbD e.val = true ∧ (y.es.eng[e]).stage ≠ [])) ∨ y.seq.accs ≠ []
      ∃ t, exec (.refetchComplete a) s = .next t ∧
        let z := t.unit a.u
        (busy → z.phase.closing = some ref ∧ z.regs = y.regs ∧ z.seq.pc = y.seq.pc) ∧
        (¬busy → z.phase.closing = none ∧
          (ref = none → z.seq.pc = y.phase.restart ∧ z.seq.rix = 0 ∧ z.seq.loops = n.loops ∧
            z.regs = { y.regs with p := n.p, s := n.s, a := n.a, cb := n.cb, cq := n.cq } ∧
            ∀ e : EngId, ∀ q ∈ (z.es.eng[e]).q, q.dropped = false) ∧
          ∀ w g q, ref = some (w, g, q) → ∃ id c l, z.phase.refetching = some (w, g, id) ∧ ((t.unit w).es.eng[g]).q = c :: l ∧ c.id = id ∧
            c.word = q.word ∧ c.snap = q.snap ∧ c.refetch = true)))

/-! ### Copy engines at work (R126–R149, R271–R283, R416–R435) -/

/-- R137, R142, R435: a fetch miss with no translation in ce11's TLBs is walked; a line in memory of the device that is neither asleep nor
poisoned is filled with the bytes that stand there and the fetch waits no longer; a walk that faults raises its cause with bit 61 and
ce11 in TVAL, once, with the recorder frozen. R141, R142: a walk that succeeds leaves its translation in the engine's TLB; R430, R431:
one that faults holds the engine with its cause, and a weak atomic whose page does not translate enters the side log instead; a write
that is to be logged waits while the VM slot takes the port of the scratch that it reads. R373: a context holds sixteen causes. -/
def Obligations.FillsAndWalks : Prop :=
  (∀ (s : State) (a : UnitArg) (line : Nat),
    let x := s.unit a.u
    let b := (s.pmEvent a.u 11 1).walkNote a.u x.ck.xlbase line
    let fault := fun (c : BitVec 8) (ad : Nat) (t : State) => t.dev = b.dev ∧ (t.unit a.u).regs = x.regs ∧
      (t.unit a.u).obs.rctl = x.obs.rctl &&& ~~~(0x10000#64) ∧
      let p : Pend := { code := c, tval := BitVec.ofNat 64 (ad % 2 ^ 56 + 11 * 2 ^ 56 + 2 ^ 61), lvl := x.trap.tl, eng := 11, sc := x.ck.scyc }
      (x.status = .running → (t.unit a.u).trap.pend =
        if p ∈ x.trap.pend ∨ (∃ q ∈ x.trap.owed, ({ q with was := false } : Pend) = p) ∨ 16 ≤ s.pending a.u then x.trap.pend else x.trap.pend ++ [p])
    (x.es.fetchMiss = none → exec (.icacheFill a) s = .next s) ∧
    (x.es.fetchMiss = some line → x.xlat 11 line = none →
      (∀ tr, s.dev.walk x.ck.xlbase line = .ok tr → line % 64 = 0 → b.refusal a.u .read tr 64 = 0 →
        b.dev.tier tr.pa ≠ .fabric → b.dev.tier tr.pa ≠ .host → b.dev.asleep (b.dev.home tr.pa) = false → b.dev.loadPoison tr.pa 64 = false →
        ∃ t, exec (.icacheFill a) s = .next t ∧ (t.unit a.u).es.fetchMiss = none ∧
          ∀ i < 64, (t.unit a.u).icByte (line + i) = some ((b.dev.load tr.pa 64).getD i 0)) ∧
      (s.dev.walk x.ck.xlbase line = .miss → x.status = .running → ∃ t, exec (.icacheFill a) s = .next t ∧ fault cTRANSLATION_FAULT line t) ∧
      (∀ ea, s.dev.walk x.ck.xlbase line = .table ea → x.status = .running → ∃ t, exec (.icacheFill a) s = .next t ∧ fault cTABLE_FORMAT ea t))) ∧
  (∀ (s : State) (a : EngArg) (va cmd i : Nat) (q : QEnt),
    let x := s.unit a.u
    let g := x.es.eng[a.e]
    let cause := fun (log : Bool) =>
      ({ code := cTRANSLATION_FAULT, tval := faultTval va a.e log false, lvl := q.lvl, eng := BitVec.ofNat 4 a.e.val, sc := q.sc } : Pend)
    (g.replay = false → g.walk = none → exec (.pageWalk a) s = .next s) ∧
    (g.replay = true → g.log = [] → exec (.pageWalk a) s = .next (s.modEng a.u a.e fun g => { g with replay := false })) ∧
    (g.replay = false → g.walk = some (va, cmd, i) → s.cmdOf a.u a.e cmd = some q → g.held = false →
      (∀ tr, s.dev.walk x.ck.xlbase va = .ok tr → ∃ t, exec (.pageWalk a) s = .next t ∧ (t.unit a.u).xlat a.e va = some tr ∧
        ((t.unit a.u).es.eng[a.e]).walk = none ∧ ((t.unit a.u).es.eng[a.e]).q = g.q) ∧
      (s.dev.walk x.ck.xlbase va = .miss → mayLog q i va = true → s.portsOpen a.u a.e q i = false →
        exec (.pageWalk a) s = .next (s.pmEvent a.u 13 1)) ∧
      (s.dev.walk x.ck.xlbase va = .miss → s.pending a.u < 16 → x.status = .running →
        (mayLog q i va = false → ckind q.word ≠ .pfh → ∃ t, exec (.pageWalk a) s = .next t ∧
          ((t.unit a.u).es.eng[a.e]).stopped = true ∧ ((t.unit a.u).es.eng[a.e]).held = true ∧ ((t.unit a.u).es.eng[a.e]).log = g.log ∧
          (t.unit a.u).trap.pend = x.trap.pend ++ [cause false]) ∧
        (∀ op w, ckind q.word = .amo op → cpStr q.word = 0 → cWrite q.word q.snap i = some w → w.addr % 2 ^ 56 = va → g.log.length < 64 →
          s.portsOpen a.u a.e q i = true →
          ∃ t, exec (.pageWalk a) s = .next t ∧ ((t.unit a.u).es.eng[a.e]).stopped = g.stopped ∧ ((t.unit a.u).es.eng[a.e]).walk = none ∧
            ((t.unit a.u).es.eng[a.e]).log = g.log ++ [{ cmd := q.id, elt := i, va := va, bytes := [], gang := false, poison := false }] ∧
            (t.unit a.u).trap.pend = x.trap.pend ++ [cause true]))))

/-- R275, R142: an element that may not start yet changes nothing but the granules that its engine has collected and can write now; one
whose page no TLB holds starts a walk; one whose scratch port the VM slot takes waits (R93, event 13). Of the others, a page of PFH
that a TLB holds is passed; a CPY from memory of the device to scratch writes the bytes that it reads and sets their granules full
(R97, R276, R279): a whole granule, or the element of a strong command, once its port is free, a part of one with the rest of what its
command writes there, so that nothing reads a mixture (R131; that bytes of elements in succession land together is the model's way, logs 19
and 40); a MIGR of a MIG page is queued at the carder with its leaf as it stands then (R283; log 37); and an atomic gives each integer
operation its value (R280). -/
def Obligations.CopyElements : Prop :=
  (∀ (s : State) (a : ElemArg) (q : QEnt), s.cmdOf a.u a.e a.cmd = some q →
    let x := s.unit a.u
    let sd := sides q a.elt
    (s.canStart a.u a.e q a.elt = false → exec (.copyElement a) s = .next (s.landStage a.u a.e)) ∧
    (s.canStart a.u a.e q a.elt = true → (x.es.eng[a.e]).stage = [] → s.needWalk a.u a.e sd.1 sd.2 = none →
      s.portsOpen a.u a.e q a.elt = false → exec (.copyElement a) s = .next (s.pmEvent a.u 13 1)) ∧
    (s.canStart a.u a.e q a.elt = true →
      (∀ va, (x.es.eng[a.e]).stage = [] → s.needWalk a.u a.e sd.1 sd.2 = some va → ∃ t, exec (.copyElement a) s = .next t ∧ t.dev = s.dev ∧
        ((t.unit a.u).es.eng[a.e]).walk = some (va, q.id, a.elt) ∧ ((t.unit a.u).es.eng[a.e]).q = (x.es.eng[a.e]).q) ∧
      (ckind q.word = .pfh → (x.es.eng[a.e]).stage = [] → s.portsOpen a.u a.e q a.elt = true →
        let va := (awAddr (qv q.word q.snap 0) + 65536 * a.elt) % 2 ^ 56
        (x.xlat a.e va ≠ none → ∃ t, exec (.copyElement a) s = .next t ∧ t.dev = s.dev ∧ ∀ c, t.cmdOf a.u a.e q.id = some c → c.next = a.elt + 1) ∧
        (x.xlat a.e va = none → ∃ t, exec (.copyElement a) s = .next t ∧ ((t.unit a.u).es.eng[a.e]).walk = some (va, q.id, a.elt))) ∧
      (∀ r w tr k ad, (x.es.eng[a.e]).stage = [] → ckind q.word = .cpy → cRead q.word q.snap q.off a.elt = some r →
        cWrite q.word q.snap a.elt = some w → s.locate a.u a.e r.aw r.addr = .found (.mem tr) → s.locate a.u a.e w.aw w.addr = .found (.face k ad) →
        s.refusal a.u .read tr r.len = 0 → (x.es.eng[a.e]).logged r.addr = false → s.dev.tier tr.pa ≠ .fabric → s.dev.tier tr.pa ≠ .host →
        s.dev.asleep (s.dev.home tr.pa) = false → s.dev.loadPoison tr.pa r.len = false → s.portsOpen a.u a.e q a.elt = true →
        let bs := s.dev.load tr.pa r.len
        let g := ad / 16
        let whole := cpStr q.word ≠ 0 ∨ bs.length = 16
        let keeps := fun (due : Bool) => ∃ t, exec (.copyElement a) s = .next t ∧ (∀ v, (t.unit v).st = (s.unit v).st) ∧
          ((t.unit a.u).es.eng[a.e]).stage =
            [{ cmd := q.id, unit := k, gran := g, bytes := bytesAt ad bs, poison := false, due := due }] ∧ (t.unit a.u).regs = x.regs
        0 < bs.length → ad % 16 + bs.length ≤ 16 → ad < 0x4000000 →
        (whole → (s.unit k).portFree (16 * g) = true → ∃ t, exec (.copyElement a) s = .next t ∧
          (t.unit k).st = scrStore (s.unit k).st (bytesAt ad bs) (some true) ∧ (∀ v, v ≠ k → (t.unit v).st = (s.unit v).st) ∧
          ((t.unit a.u).es.eng[a.e]).stage = [] ∧ (t.unit a.u).regs = x.regs) ∧
        (whole → (s.unit k).portFree (16 * g) = false → keeps true) ∧
        (¬whole → a.elt + 1 < cElems q.word q.snap → q.next = a.elt → q.done = [] → x.phase.cancelling = false → keeps false)) ∧
      (∀ tr, ckind q.word = .migr → (x.es.eng[a.e]).stage = [] → s.portsOpen a.u a.e q a.elt = true → x.xlat a.e (awAddr (qv q.word q.snap 0)) = some tr → s.dev.card.en = true → attrPin tr.attr = false →
        attrMig tr.attr = true → tr.large = false → (∀ m ∈ s.dev.card.moves, m.leaf ≠ tr.leaf) → s.dev.card.reqs.length < 64 →
        ∃ t m, exec (.copyElement a) s = .next t ∧ t.dev = { s.dev with card := { s.dev.card with reqs := s.dev.card.reqs ++ [m] } } ∧
          m.src = tr.pa / 65536 * 65536 ∧ m.leaf = tr.leaf ∧ m.leafVal = s.dev.rd64 (s.dev.home tr.leaf) ∧ m.accepted = s.dev.card.mck))) ∧
  (∀ (fmt : Fmt) (wide : Bool) (ops : List Word) (old : Nat), old < 2 ^ fmt.bits →
    let a := (ops.getD 0 0).toNat % 2 ^ fmt.bits
    let sgn := fun v => readInt fmt.bits fmt.isUnsigned v
    amoNew .add fmt wide ops old = some ((old + a) % 2 ^ fmt.bits) ∧ amoNew .and fmt wide ops old = some (old &&& a) ∧
    amoNew .or fmt wide ops old = some (old ||| a) ∧ amoNew .xor fmt wide ops old = some (old ^^^ a) ∧ amoNew .swp fmt wide ops old = some a ∧
    (∃ v, amoNew .min fmt wide ops old = some v ∧ (v = a ∨ v = old) ∧ sgn v ≤ sgn a ∧ sgn v ≤ sgn old) ∧
    (∃ v, amoNew .max fmt wide ops old = some v ∧ (v = a ∨ v = old) ∧ sgn a ≤ sgn v ∧ sgn old ≤ sgn v) ∧
    (amoNew .cas fmt false ops old = if old = a then some ((ops.getD 1 0).toNat % 2 ^ fmt.bits) else none))

/-- R272, R416: a command that has been performed counts its bytes down at the barrier that it names, raises its counter once all
earlier commands are performed, and frees its entry. R127, R288, R290: a marker leaves its queue when the accesses that it covers are
performed, and an EVINC adds its increment when all its markers are gone. R291, R388: so does a TPOST, whose record is posted in the
entry taken, or frees it with TASK_RECORD when it is bad. R146: a TLBI, once the earlier commands of its sequencer have been performed, takes what it names out of every TLB of the package;
it completes when the requests issued under one of those entries have been answered. -/
def Obligations.CompletionsAndMarkers : Prop :=
  (∀ (s : State) (a : EngArg),
    let x := s.unit a.u
    (s.completable a.u a.e = none → exec (.copyComplete a) s = .next s) ∧
    (∀ c, s.completable a.u a.e = some c → c.counted = false → c.cntr = none ∨ s.earlierDone a.u c.id = true → smWf 0 s.dev.counters = true →
      ∃ t, exec (.copyComplete a) s = .next t ∧ (∀ q ∈ ((t.unit a.u).es.eng[a.e]).q, q.id ≠ c.id) ∧
        ((t.unit a.u).es.eng[a.e]).freed = (x.es.eng[a.e]).freed + 1 ∧
        (∀ n : BitVec 12, c.cntr = some n → ∀ m, t.dev.counter m = if m = n.toNat then s.dev.counter m + 1 else s.dev.counter m) ∧
        (c.cntr = none → t.dev.counters = s.dev.counters) ∧
        let n := cpBar c.word
        (∀ k, hasBar c = true → c.refetch = false → s.barUnit a.u c = some k →
          (t.unit k).bars[n] = (((s.unit k).bars[n]).countDown (cBytes c.word c.snap)).1 ∧ ∀ v, v ≠ k → (t.unit v).bars = (s.unit v).bars) ∧
        (hasBar c = false ∨ c.refetch = true ∨ s.barUnit a.u c = none → ∀ v, (t.unit v).bars = (s.unit v).bars))) ∧
  (∀ (s : State) (a : EngArg) (m : QEnt), ((s.unit a.u).es.eng[a.e]).q.find? (fun c => c.kind != .cmd) = some m →
    (s.markerDone a.u a.e m.kind = false → exec (.fenceMarkerComplete a) s = .next s) ∧
    (s.markerDone a.u a.e m.kind = true → exec (.fenceMarkerComplete a) s =
      .next (s.modEng a.u a.e fun g => { g with q := g.q.filter fun c => c.id != m.id, freed := g.freed + 1 }))) ∧
  (∀ (s : State) (a : UnitArg) (id : Nat) (c : BitVec 12) (n : BitVec 8) (l : List SyOp), (s.unit a.u).es.sy = .evinc id c n :: l →
    let left := ∃ e : EngId, ∃ q ∈ ((s.unit a.u).es.eng[e]).q, q.kind.marks id = true
    (left → (∀ o ∈ l, ∀ i d m, o ≠ .evinc i d m) → exec (.evincIncrement a) s = .next s) ∧
    (¬left → smWf 0 s.dev.counters = true → ∃ t, exec (.evincIncrement a) s = .next t ∧ (t.unit a.u).es.sy = l ∧
      ∀ m, t.dev.counter m = if m = c.toNat then s.dev.counter m + n.setWidth 32 else s.dev.counter m)) ∧
  (∀ (s : State) (a : UnitArg) (id ad sc : Nat) (pool : BitVec 4) (n : BitVec 8) (rcd : Vector Word 8) (lv : BitVec 2),
    let x := s.unit a.u
    let p : Fin 16 := Fin.ofNat 16 pool.toNat
    let tr := gangRecord x.ctx rcd
    x.es.sy = [.tpost id pool (some n) ad rcd sc lv] → x.seq.accs = [] → x.unmarked id = true →
    (recordBad s.dev.sched.desc[p] tr = false → ∃ t, exec (.tpostRecordWrite a) s = .next t ∧ (t.unit a.u).es.sy = [] ∧
      t.dev.sched.posts = s.dev.sched.posts + 1 ∧ ∀ e ∈ s.dev.sched.ents, e.pool = p → e.ent = n → e.st = .taken →
        ∃ f ∈ t.dev.sched.ents, f.pool = p ∧ f.ent = n ∧ f.st = .posted ∧ f.tr = tr ∧ f.order = s.dev.sched.posts) ∧
    (recordBad s.dev.sched.desc[p] tr = true → x.status = .running → s.pending a.u < 16 → ∃ t, exec (.tpostRecordWrite a) s = .next t ∧
      (∀ e ∈ t.dev.sched.ents, ¬(e.pool = p ∧ e.ent = n)) ∧
      (t.unit a.u).trap.pend = x.trap.pend ++ [{ code := cTASK_RECORD, tval := BitVec.ofNat 64 ad, lvl := lv, eng := 15, sc := sc }])) ∧
  (∀ (s : State) (a : UnitArg) (sel : TlbSel) (asid : BitVec 12) (vpn : Nat),
    let w := s.underNamed sel asid vpn
    ((s.unit a.u).es.sy = [.tlbi sel asid vpn none] →
      ((s.unit a.u).allPerformed = false → exec (.tlbiRemoval a) s = .next s) ∧
      ((s.unit a.u).allPerformed = true → ∃ t, exec (.tlbiRemoval a) s = .next t ∧ t.dev = s.dev ∧
        (w = [] → (t.unit a.u).es.sy = [] ∧ (t.unit a.u).es.tlbiDone = true) ∧
        (w ≠ [] → (t.unit a.u).es.sy = [.tlbi sel asid vpn (some w)] ∧ (t.unit a.u).es.tlbiDone = (s.unit a.u).es.tlbiDone) ∧
        ∀ v : UnitId, (t.unit v).regs = (s.unit v).regs ∧
          (t.unit v).es.victim = (s.unit v).es.victim.filter (fun y => !y.t.named sel asid vpn) ∧
          ∀ e : EngId, ((t.unit v).es.eng[e]).tlb = ((s.unit v).es.eng[e]).tlb.filter (fun y => !y.named sel asid vpn) ∧
            ((t.unit v).es.eng[e]).q = ((s.unit v).es.eng[e]).q ∧ (w = [] → ((t.unit v).es.eng[e]).replay = true))) ∧
    (∀ l, (s.unit a.u).es.sy = [.tlbi sel asid vpn (some l)] →
      ((∃ i ∈ l, ∃ r ∈ s.dev.fab.out, r.id = i) → exec (.tlbiRemoval a) s = .next s) ∧
      ((∀ i ∈ l, ∀ r ∈ s.dev.fab.out, r.id ≠ i) → ∃ t, exec (.tlbiRemoval a) s = .next t ∧ t.dev = s.dev ∧ (t.unit a.u).es.sy = [] ∧
        (t.unit a.u).es.tlbiDone = true ∧ ∀ (v : UnitId) (e : EngId), ((t.unit v).es.eng[e]).replay = true ∧
          ((t.unit v).es.eng[e]).tlb = ((s.unit v).es.eng[e]).tlb)))

/-! ### The cube at work (R72, R245–R266, R364, R412) -/

/-- R245, R252, R73, Table 10.5: the cube does in a clock what is due: a step of TZERO writes zeros to its slot; a step of TMMA or TMMAS captures
its operands and writes nothing, those of an f64 step in two clocks, the first line of each row in the first (of a row in the weight
buffer, which has no lines, all of it: log 62); 18 clocks after its reads a captured step adds its terms, with the incoming accumulator element
or 0, into the words of its slot; R72: integer sums are exact modulo 2^32. A command that has done everything leaves the cube. A unit
held by a precise stop, or without a context, does nothing. -/
def Obligations.CubeSteps : Prop :=
  (∀ (s : State) (a : UnitArg),
    let x := s.unit a.u
    (x.cubeMoves = false → exec (.cubeStep a) s = .next s ∧ exec (.cubeCommandComplete a) s = .next s ∧ exec (.tjoinDrain a) s = .next s) ∧
    (x.secondDue = none → x.stepDue = none → x.rowsDue = [] → x.capDue = none → exec (.cubeStep a) s = .next s) ∧
    (∀ k, x.cubeMoves = true → x.secondDue = none → x.stepDue = some k →
      (tkind k.hdr = .zero → x.cube.fresh = [] → smWf 0 x.st.acc = true → ∃ t, exec (.cubeStep a) s = .next t ∧ t.dev = s.dev ∧
        (∀ key, accRow (t.unit a.u).st key = if key / 128 = hdrAcc k.hdr + k.next then 0 else accRow x.st key) ∧
        (t.unit a.u).st.face = x.st.face ∧ (t.unit a.u).cube.cmds = x.cube.cmds.map fun m => if m.id = k.id then { k with next := k.next + 1 } else m) ∧
      (tkind k.hdr = .mma ∨ tkind k.hdr = .mmas → Snap.fmtA k.cb ≠ .f64 → (∀ g, (smGet ({} : Gran) x.st.face g).poison = false) →
        ∃ t c, exec (.cubeStep a) s = .next t ∧ t.dev = s.dev ∧ (t.unit a.u).st = x.st ∧ (t.unit a.u).cube.caps = x.cube.caps ++ [c] ∧
          (t.unit a.u).cube.cmds = x.cube.cmds.map (fun m => if m.id = k.id then { k with next := k.next + 1 } else m) ∧
          let i := stepIdx k.hdr k.cb k.next
          let r := capture x k (fun kk row => hdrBatt k.hdr (battOf (decide (Snap.fmtA k.cb = .f64)) (Snap.c k.hdr k.cb) kk row)) 0 0 i.1 i.2.1 i.2.2 k.next s.free
          c.cmd = k.id ∧ c.at_ = k.stepClk k.next + 18 ∧ c.step = k.next ∧ c.fmtA = Snap.fmtA k.cb ∧ c.fmtB = Snap.fmtB k.cb ∧ c.a = r.a ∧ c.b = r.b ∧
          c.slot = hdrAcc k.hdr + (i.1 * Snap.nb k.cb + i.2.1) * Snap.wq k.cb ∧ c.zero = (decide (i.2.2 = 0) && hdrZ k.hdr)) ∧
      (tkind k.hdr = .mma ∨ tkind k.hdr = .mmas → Snap.fmtA k.cb = .f64 → (∀ g, (smGet ({} : Gran) x.st.face g).poison = false) → ∃ t, exec (.cubeStep a) s = .next t ∧ t.dev = s.dev ∧
        (t.unit a.u).st = x.st ∧ (t.unit a.u).cube.caps = x.cube.caps ∧
        (t.unit a.u).cube.cmds = x.cube.cmds.map fun m => if m.id = k.id then { k with
          next := k.next + 1,
          second := some (k.stepClk k.next + 1, k.next, (firstLines k k.next).map fun g => (g, smGet ({} : Gran) x.st.face g)) } else m)) ∧
    (∀ k st first, x.cubeMoves = true → x.secondDue = some (k, st, first) →
      let seen := first.foldl (fun y g => modGran y g.1 fun _ => g.2) x.st
      (∀ g, (smGet ({} : Gran) seen.face g).poison = false) →
      ∃ t c, exec (.cubeStep a) s = .next t ∧ t.dev = s.dev ∧ (t.unit a.u).st = x.st ∧ (t.unit a.u).cube.caps = x.cube.caps ++ [c] ∧
        (t.unit a.u).cube.cmds = x.cube.cmds.map (fun m => if m.id = k.id then { k with second := none } else m) ∧
        let i := stepIdx k.hdr k.cb st
        let r := capture { x with st := seen } k (fun kk row => hdrBatt k.hdr (battOf (decide (Snap.fmtA k.cb = .f64)) (Snap.c k.hdr k.cb) kk row)) 0 0
          i.1 i.2.1 i.2.2 st s.free
        c.cmd = k.id ∧ c.at_ = k.stepClk st + 18 ∧ c.step = st ∧ c.a = r.a ∧ c.b = r.b) ∧
    (∀ c, x.cubeMoves = true → x.secondDue = none → x.stepDue = none → x.rowsDue = [] → x.capDue = some c → c.fmtA ≠ .f64 → c.a.length = 128 →
      x.st.accPoison = [] → x.cube.fresh = [] →
      smWf 0 x.st.acc = true → ∃ t, exec (.cubeStep a) s = .next t ∧ t.dev = s.dev ∧ (t.unit a.u).cube.caps = x.cube.caps.erase c ∧
        (∀ i < 128, ∀ l < 128, el 32 (accRow (t.unit a.u).st (c.slot * 128 + i)) l = c.elem (accRow x.st (c.slot * 128 + i)) i l) ∧
        (∀ key, key / 128 ≠ c.slot → accRow (t.unit a.u).st key = accRow x.st key) ∧ (t.unit a.u).st.face = x.st.face)) ∧
  (∀ (fa fb : Fmt) (ts : List ((Nat × Nat) × (Nat × Nat))) (inc : Nat), fa = .i8 ∨ fa = .n8 →
    ((chunkSum fa fb ts inc : Nat) : Int) =
      ((inc : Int) + (ts.map fun t => readInt 8 fa.isUnsigned t.1.1 * readInt 8 fb.isUnsigned t.2.1).sum) % 2 ^ 32) ∧
  (∀ (s : State) (a : UnitArg),
    let x := s.unit a.u
    (x.cmdDone = none → exec (.cubeCommandComplete a) s = .next s) ∧
    (∀ k, x.cubeMoves = true → x.cmdDone = some k → k.delivered = false → ∃ t, exec (.cubeCommandComplete a) s = .next t ∧ t.dev = s.dev ∧
      (t.unit a.u).cube.cmds = x.cube.cmds.filter (fun m => m.id != k.id) ∧ (t.unit a.u).st = x.st ∧ (t.unit a.u).regs = x.regs))

/-- R253, R254, R412: the result of a plane-mode step goes to its batt's plane alone; a drain writes one plane into the accumulator,
added to what stands there or stored to the slot of its own. R265: the first delivered command starts once its condition holds and the
cube meets R248. -/
def Obligations.PlanesAndDeliveries : Prop :=
  (∀ (s : State) (a : BattArg),
    let u := crownUnit a.k.val
    let x := s.unit u
    (x.planesMove = false ∨ x.planeDue a.b = none → exec (.planeWrite a) s = .next s) ∧
    (∀ p, x.planesMove = true → x.planeDue a.b = some p → p.cap.fmtA ≠ .f64 → p.cap.a.length = 128 → x.st.planePoison = [] → smWf 0 x.st.planes = true →
      ∃ t, exec (.planeWrite a) s = .next t ∧ t.dev = s.dev ∧ (t.unit u).cube.planes = x.cube.planes.erase p ∧
        (∀ i < 128, ∀ l < 128, el 32 (planeRow (t.unit u).st (p.cap.slot * 128 + i)) l = p.cap.elem (planeRow x.st (p.cap.slot * 128 + i)) i l) ∧
        (∀ key, key / 128 ≠ p.cap.slot → planeRow (t.unit u).st key = planeRow x.st key) ∧ (t.unit u).st.acc = x.st.acc)) ∧
  (∀ (s : State) (a : UnitArg),
    let x := s.unit a.u
    (x.joinNext = none → exec (.tjoinDrain a) s = .next s) ∧
    (∀ k b w, x.cubeMoves = true → x.joinNext = some (k, b, w) →
      (x.ck.run < w → exec (.tjoinDrain a) s = .next s) ∧
      (w ≤ x.ck.run → x.st.accPoison = [] → x.st.planePoison = [] → x.cube.fresh = [] → smWf 0 x.st.acc = true → ∃ t, exec (.tjoinDrain a) s = .next t ∧ t.dev = s.dev ∧
        (t.unit a.u).cube.drained = x.cube.drained + 1 ∧ (t.unit a.u).st.planes = x.st.planes ∧
        let slot := if hdrZ k.hdr then hdrAcc k.hdr else hdrAcc k.hdr + x.cube.drained
        (∀ r < 128,
          let old := accRow x.st (slot * 128 + r)
          let p := planeRow x.st (b * 128 + r)
          accRow (t.unit a.u).st (slot * 128 + r) = if hdrZ k.hdr then joinRow (hdrSub k.hdr) old p else p) ∧
        (∀ key, key / 128 ≠ slot → accRow (t.unit a.u).st key = accRow x.st key)))) ∧
  (∀ (s : State) (a : UnitArg),
    let x := s.unit a.u
    let runs := (x.status = .running ∨ x.status = .exiting) ∧ x.cubeMoves = true
    (¬runs ∨ x.delivDue = none → exec (.deliveredCommandStart a) s = .next s) ∧
    (∀ k t0, runs → x.delivDue = some (k, t0) → ∃ t, exec (.deliveredCommandStart a) s = .next t ∧ t.dev = s.dev ∧
      (t.unit a.u).cube.deliv = x.cube.deliv.tail ∧
      (t.unit a.u).cube.cmds = x.cube.cmds ++ [{ k with id := x.cube.nextId, mode := x.cube.scsel, t := t0, ready := x.cube.ready }]))

/-- R466, R264, R364: the brim carries out one action in a clock: first BARI 1 on two barriers of every place, once the state of the
context stands on each (R55), then per round the copies
of each child, an idle clock and a delivered TMMA for each child in raster order, and at the end the TDRAINs; a command completes
when its last action and its EVINC have been performed, without an EVINC when the last write to C has been. A precise stop of the brim
core freezes it (the model's choice, log 64). -/
def Obligations.Decomposition : Prop :=
  ∀ s : State,
    let b := s.unit brim
    let runs := (b.status = .running ∨ b.status = .exiting) ∧ b.stop.stopped = false
    (¬runs ∨ s.dev.pkg = none → exec .decompositionAction s = .next s ∧ exec .packageCommandComplete s = .next s) ∧
    (∀ p, runs → s.dev.pkg = some p →
      (p.done = true ∨ p.stopped = true ∨ b.ck.clk ≤ p.clk → exec .decompositionAction s = .next s) ∧
      (p.done = false → p.stopped = false → p.clk < b.ck.clk →
        let cb := s.pkgEff p.hdr p.cb
        let kids := Snap.kids cb
        let n := Snap.f cb 9 32 5
        let now := fun (t : State) (q : PkgCmd) => t.dev = { s.dev with pkg := some { q with clk := b.ck.clk } }
        let away := ∃ e pl, s.driven = some e ∧ pl ∈ Snap.places cb ∧ s.childPlace e pl.1.toNat pl.2.1.toNat = none
        (p.stage = 0 → away → exec .decompositionAction s = .next s) ∧
        (p.stage = 0 → kids ≠ [] → ¬away → ∃ t, exec .decompositionAction s = .next t ∧ now t { p with stage := 1, idx := 0 } ∧
          ∀ e pl u, s.driven = some e → pl ∈ Snap.places cb → s.childPlace e pl.1.toNat pl.2.1.toNat = some u →
            (t.unit u).bars[Fin.ofNat 32 n] = { expect := 1 } ∧ (t.unit u).bars[Fin.ofNat 32 (n + 1)] = { expect := 1 } ∧
            (t.unit u).regs = (s.unit u).regs) ∧
        (p.stage = 2 → ∃ t, exec .decompositionAction s = .next t ∧ now t { p with stage := 3, idx := 0 } ∧ t.units = s.units) ∧
        (∀ c u, p.stage = 3 ∨ p.stage = 4 → kids[p.idx]? = some c → s.childAt c = some u → ∃ t k, exec .decompositionAction s = .next t ∧
          (t.unit u).cube.deliv = (s.unit u).cube.deliv ++ [k] ∧ (t.unit u).cube.cmds = (s.unit u).cube.cmds ∧ k.delivered = true ∧
          (p.stage = 3 → k.hdr = pkgTmma p.hdr cb p.u ∧ k.cb = pkgSnap cb c p.u ∧ k.round = p.u) ∧
          (p.stage = 4 → k.hdr = pkgDrain cb c ∧ k.cb = pkgDrainSnap cb) ∧
          ∃ q, t.dev.pkg = some q ∧ q.clk = b.ck.clk ∧ (p.idx + 1 < kids.length → q.idx = p.idx + 1 ∧ q.stage = p.stage) ∧
            (p.stage = 3 → kids.length ≤ p.idx + 1 → q.u = p.u + 1 ∧ q.stage = if p.u + 1 < Snap.rounds cb then 1 else 4)) ∧
        (p.stage = 3 ∨ p.stage = 4 → (∃ c, kids[p.idx]? = some c ∧ s.childAt c = none) → exec .decompositionAction s = .next s)) ∧
      (let busy := ∃ i, p.evid = some i ∧ b.es.evincPending i = true
       let last := p.stage = 7 ∨ (p.stage = 6 ∧ Snap.f (s.pkgEff p.hdr p.cb) 10 48 1 = 0 ∧ s.outsDone p = true)
       (p.done = true ∨ ¬last ∨ busy ∨ b.ck.clk ≤ p.clk → exec .packageCommandComplete s = .next s) ∧
       (p.done = false → last → ¬busy → p.clk < b.ck.clk →
         exec .packageCommandComplete s = .next (s.modDev fun d => { d with pkg := some { p with done := true } }))))

/-! ### The carder (R149–R160, R438–R440) -/

/-- R151, R440, R152, R153: CARDCTL takes its fields, MAXACT held between 1 and 16, and EN = 0 declines every pending request with
DISABLED; the first request, in order of acceptance, that can start becomes a move with no chunk copied, its frame from the
request or the head of the free-frame queue, of whose word bits [51:16] are the frame and the others are not used (the model's choice,
log 58); a decline is written at TAIL of the completion queue, which advances. R149: HOTNESS_HALVE
halves every counter of the table and no other byte. -/
def Obligations.CarderQueues : Prop :=
  (∀ (s : State) (v : Word), ∃ t, exec (.cardctlWrite v) s = .next t ∧ t.units = s.units ∧ t.dev.mem = s.dev.mem ∧
    let m := (fld v 8 5).toNat
    t.dev.card.ctl = (v &&& 0xFFFFFFFF00FF0003#64) ||| BitVec.ofNat 64 (256 * (if m = 0 then 1 else if 16 < m then 16 else m)) ∧
    t.dev.card.moves = s.dev.card.moves ∧
    (v.getLsbD 0 = true → t.dev.card.reqs = s.dev.card.reqs ∧ t.dev.card.declines = s.dev.card.declines) ∧
    (v.getLsbD 0 = false → t.dev.card.reqs = [] ∧ t.dev.card.declines = s.dev.card.declines ++ s.dev.card.reqs.map fun r =>
      { w := cqRec 2 0 r.src r.part.toNat 0 r.leaf r.hot.toNat 1, accepted := r.accepted, cnts := r.cnt.toList })) ∧
  (∀ s : State,
    let c := s.dev.card
    let can := fun (r : MigReq) => c.pause = false ∧ c.moves.length < c.maxAct ∧ (∀ m ∈ c.moves, m.leaf ≠ r.leaf) ∧
      (r.dst ≠ none ∨ c.fqEmpty = false) ∧ 0 < c.cqRoom
    ((∀ r ∈ c.reqs, ¬can r) → exec .migrationStart s = .next s) ∧
    (∀ l r l', c.reqs = l ++ r :: l' → (∀ x ∈ l, ¬can x) → can r → ∃ t m, exec .migrationStart s = .next t ∧ t.units = s.units ∧
      t.dev.mem = s.dev.mem ∧ t.dev.card.moves = c.moves ++ [m] ∧ t.dev.card.reqs = c.reqs.erase r ∧ m.src = r.src ∧ m.leaf = r.leaf ∧
      m.leafVal = r.leafVal ∧ m.st = .moving ∧ m.pass = 1 ∧ m.todo = List.range 16 ∧ (∀ i : Fin 16, m.chunks[i] = .notCopied) ∧
      (∀ f, r.dst = some f → m.dst = f ∧ t.dev.card.fq = c.fq) ∧
      (r.dst = none → m.dst = (s.dev.rd64 (brimPa (c.fqBase + 8 * c.fqHead))).toNat % 2 ^ 52 / 65536 * 65536 ∧
        (fld t.dev.card.fq 32 12).toNat = (c.fqHead + 1) % 4096))) ∧
  (∀ s : State,
    let c := s.dev.card
    (c.declines = [] ∨ c.cqRoom = 0 → exec .declineRecordWrite s = .next s) ∧
    (∀ r l, c.declines = r :: l → 0 < c.cqRoom → ∃ t, exec .declineRecordWrite s = .next t ∧ t.units = s.units ∧ t.dev.card.declines = l ∧
      t.dev.card.moves = c.moves ∧ (fld t.dev.card.cq 32 10).toNat = ((fld c.cq 32 10).toNat + 1) % 1024 ∧
      let w := r.w.set 3 (r.w[3] ||| BitVec.ofNat 64 ((c.mck - r.accepted) % 2 ^ 32 * 2 ^ 32))
      t.dev.mem = (s.dev.write (brimPa ((fld c.cq 15 9).toNat * 2 ^ 15 + 32 * (fld c.cq 32 10).toNat))
        (w.toList.flatMap fun x => leBytes 8 x.toNat)).mem)) ∧
  (∀ s : State, smWf 0 s.dev.mem.cells = true →
    let b := (fld s.dev.card.hot 16 36).toNat * 65536
    let off := fld s.dev.card.ctl 32 32 = 0 ∨ s.dev.tier b ≠ .lp6
    (off → exec .hotnessHalve s = .next s) ∧
    (¬off → ∃ t, exec .hotnessHalve s = .next t ∧ t.units = s.units ∧ ∀ a,
      let x := smGet (0 : Byte) s.dev.mem.cells a
      smGet 0 t.dev.mem.cells a = if b ≤ a ∧ a < b + s.dev.hotFrames then BitVec.ofNat 8 (x.toNat / 2) else x))

/-- R154, R156, R438: a pass reads its chunks in order: each is copied to the destination and becomes COPIED; a retired row of the destination
abandons the move. R154, R157, R439: at the end of a pass a move without a DIRTY chunk cuts over: its chunks switch one by one, one that
is DIRTY by then copied once more, and its leaf is written by CAS; where that fails the chunks return one by one (one row a chunk and one
for the CAS: the model's reading, log 38); the others start another pass over their DIRTY chunks, and after pass 4 are abandoned. R158, R159: an engine that
takes a shootdown drops the entries of its leaf and acknowledges, and the last acknowledgement ends the move with its record. -/
def Obligations.PageMoves : Prop :=
  (∀ (s : State) (leaf c : Nat) (l : List Nat) (m : Move), s.dev.moveOf leaf = some m → m.st = .moving → m.todo = c :: l → c < 16 →
    let bad := m.bad = true ∨ s.dev.retiredIn (m.dst + 4096 * c) 4096 = true
    (bad → ∃ t, exec (.carderChunkRead leaf) s = .next t ∧ t.dev.moveOf leaf = none ∧ t.units = s.units) ∧
    (¬bad → ∃ t, exec (.carderChunkRead leaf) s = .next t ∧ t.units = s.units ∧
      t.dev.moveOf leaf = some { m with todo := l, chunks := m.chunks.set (Fin.ofNat 16 c) .copied } ∧
      (s.dev.mem.red = [] → s.dev.mem.retired = [] → smWf 0 s.dev.mem.cells = true →
        (∀ i < 4096, t.dev.byte (m.dst + 4096 * c + i) = s.dev.byte (m.src + 4096 * c + i)) ∧
        ∀ a, a < m.dst + 4096 * c ∨ m.dst + 4096 * c + 4096 ≤ a → t.dev.byte a = s.dev.byte a))) ∧
  (∀ (s : State) (leaf : Nat), s.dev.moveOf leaf = none →
    exec (.carderChunkRead leaf) s = .next s ∧ exec (.passEnd leaf) s = .next s) ∧
  (∀ (s : State) (leaf : Nat) (m : Move), s.dev.moveOf leaf = some m → m.st = .moving → m.todo = [] →
    let dirty := (List.range 16).filter fun c => m.chunks[Fin.ofNat 16 c] = .dirty
    (m.bad = true ∨ (dirty ≠ [] ∧ 4 ≤ m.pass) → ∃ t, exec (.passEnd leaf) s = .next t ∧ t.dev.moveOf leaf = none ∧ t.units = s.units) ∧
    (m.bad = false → dirty ≠ [] → m.pass < 4 → ∃ t, exec (.passEnd leaf) s = .next t ∧ t.units = s.units ∧ t.dev.mem = s.dev.mem ∧
      t.dev.moveOf leaf = some { m with pass := m.pass + 1, todo := dirty }) ∧
    (m.bad = false → dirty = [] → ∃ t, exec (.passEnd leaf) s = .next t ∧ t.units = s.units ∧ t.dev.mem = s.dev.mem ∧
      t.dev.moveOf leaf = some { m with st := .cutting, sw := 0 })) ∧
  (∀ (s : State) (leaf : Nat) (m : Move), s.dev.moveOf leaf = some m → m.st = .cutting →
    let src := m.src + 4096 * m.sw
    let dst := m.dst + 4096 * m.sw
    let new := BitVec.ofNat 64 (setBits m.leafVal.toNat 16 36 (m.dst / 65536))
    let r := s.dev.amo m.leaf .cas .n64 false false [m.leafVal, new]
    (m.bad = true → m.sw = 0 → ∃ t, exec (.passEnd leaf) s = .next t ∧ t.dev.moveOf leaf = none ∧ t.units = s.units) ∧
    (m.bad = false ∨ m.sw ≠ 0 → m.sw < 16 → ∃ t, exec (.passEnd leaf) s = .next t ∧ t.units = s.units ∧
      t.dev.moveOf leaf = some { m with sw := m.sw + 1, chunks := m.chunks.set (Fin.ofNat 16 m.sw) .copied } ∧
      (s.dev.mem.red = [] → s.dev.mem.retired = [] → smWf 0 s.dev.mem.cells = true → ∀ a, t.dev.byte a =
        if m.chunks[Fin.ofNat 16 m.sw] = .dirty ∧ dst ≤ a ∧ a < dst + 4096 then s.dev.byte (src + (a - dst)) else s.dev.byte a)) ∧
    (16 ≤ m.sw → ∃ t, exec (.passEnd leaf) s = .next t ∧ t.units = s.units ∧
      t.dev.moveOf leaf = some { m with st := if r.2.2 = 0 ∧ r.2.1 = m.leafVal.toNat then .shooting else .returning, sw := 0 } ∧
      t.dev.mem.cells = r.1.mem.cells)) ∧
  (∀ (s : State) (leaf : Nat) (m : Move), s.dev.moveOf leaf = some m → m.st = .returning →
    let src := m.src + 4096 * m.sw
    let dst := m.dst + 4096 * m.sw
    (m.sw < 16 → ∃ t, exec (.passEnd leaf) s = .next t ∧ t.units = s.units ∧ t.dev.moveOf leaf = some { m with sw := m.sw + 1 } ∧
      (s.dev.mem.red = [] → s.dev.mem.retired = [] → smWf 0 s.dev.mem.cells = true → ∀ a, t.dev.byte a =
        if src ≤ a ∧ a < src + 4096 then s.dev.byte (dst + (a - src)) else s.dev.byte a)) ∧
    (16 ≤ m.sw → ∃ t, exec (.passEnd leaf) s = .next t ∧ t.units = s.units ∧ t.dev.mem = s.dev.mem ∧
      t.dev.moveOf leaf = some { m with st := .back })) ∧
  (∀ (s : State) (a : EngArg),
    let n := engIndex a.u a.e
    ∃ t, exec (.shootdown a) s = .next t ∧ t.dev.mem = s.dev.mem ∧ (t.unit a.u).regs = (s.unit a.u).regs ∧ (∀ v, v ≠ a.u → t.unit v = s.unit v) ∧
      ((t.unit a.u).es.eng[a.e]).tlb = ((s.unit a.u).es.eng[a.e]).tlb.filter (fun y =>
        !(s.dev.card.moves.any fun m => m.out && !m.acks.contains n && m.leaf == y.leaf)) ∧
      ∀ m ∈ t.dev.card.moves, m.out = true → n ∈ m.acks) ∧
  (∀ s : State,
    let ends := fun (m : Move) => m ∈ s.dev.card.moves ∧ m.out = true ∧ s.allAcked m = true
    ((∀ m, ¬ends m) → exec .shootdownAck s = .next s) ∧
    ((∃ m, ends m) → ∃ m t, ends m ∧ exec .shootdownAck s = .next t ∧ t.units = s.units ∧
      t.dev.card.moves = s.dev.card.moves.filter (fun x => x.leaf != m.leaf) ∧
      (fld t.dev.card.cq 32 10).toNat = ((fld s.dev.card.cq 32 10).toNat + 1) % 1024))

/-! ### The fabric (R321–R335, R447–R460) -/

/-- R330, R449–R451: a request for another device passes on by its route, or is answered UNREACHABLE; one for this device meets the checks
of its window in the order of R449, a refusal counting in WINERR, and is otherwise performed and answered, unless its pseudo-channel
is in self-refresh or its bank owes an RFM (R444), when it waits. R326: an answer to this device itself passes inside the bridge. R122: an
access of the same clock from a port of a lower number goes first. PA_RANGE for a window on memory that is not there, and the check
before the wait, are the model's reading (log 51). -/
def Obligations.FabricIngress : Prop :=
  (∀ (s : State) (r : FabReq) (i : Instr), s.ahead (146 + r.port.val) = some i →
    exec (.fabricIngress r) s = .next { s with agenda := i :: .fabricIngress r :: s.agenda.erase i }) ∧
  (∀ (s : State) (r : FabReq), s.ahead (146 + r.port.val) = none → r.dest ≠ s.dev.myid →
    (∀ j, s.dev.route r.dest = some j → exec (.fabricIngress r) s = .next (s.send (.req { r with port := j }))) ∧
    (s.dev.route r.dest = none → exec (.fabricIngress r) s = .next (s.fabRespond r 0x55 []))) ∧
  (∀ (s : State) (r : FabReq), s.ahead (146 + r.port.val) = none → r.dest = s.dev.myid →
    let w := s.dev.win r.rwin.toNat
    let own := fld w.w0 8 12 = r.owner
    let exports := w.w0.getLsbD 1 = false
    let live := w.w0.getLsbD 0 = true ∧ w.key = r.key
    let refused := fun (st : Nat) => exec (.fabricIngress r) s = .next ((s.modDev fun d => d.winError r st).fabRespond r st [])
    let perm := (w.f 2 3).testBit (remPerm r.op) = true
    let inside := r.off + remLen r.op ≤ w.size
    let pa := w.base + r.off
    (own → ¬live → refused 0x50) ∧
    (¬own ∨ (live ∧ ¬exports) → refused 0x52) ∧
    (exports → own → live → s.dev.winSound w = false → refused 0x52) ∧
    (exports → own → live → s.dev.winSound w = true → ¬perm → refused 0x53) ∧
    (exports → own → live → s.dev.winSound w = true → perm → ¬inside → refused 0x54) ∧
    (exports → own → live → s.dev.winSound w = true → perm → inside →
      (s.dev.asleep (s.dev.home pa) = true →
        exec (.fabricIngress r) s = .next (s.modDev fun d => { d with fab := { d.fab with unanswered := d.fab.unanswered ++ [(r, false, pa)] } })) ∧
      (s.dev.asleep (s.dev.home pa) = false → s.dev.tier pa = .none → exec (.fabricIngress r) s = .next (s.fabRespond r 0x43 [])) ∧
      (s.dev.asleep (s.dev.home pa) = false → s.dev.tier pa ≠ .none →
        (∀ n, r.op = .read n → ∃ d, exec (.fabricIngress r) s =
          .next (({ s with dev := d } : State).fabRespond r (if s.dev.loadPoison pa n then 0x40 else 0) (s.dev.load pa n)) ∧
            (s.dev.mem.red.length ≤ 256 → d.mem.cells = s.dev.mem.cells) ∧ d.counters = s.dev.counters ∧ d.fab = s.dev.fab) ∧
        (∀ bs, r.op = .write bs false → exec (.fabricIngress r) s =
          .next (({ s with dev := (s.dev.store pa bs).touch (s.dev.home pa) bs.length } : State).fabRespond r 0 [])) ∧
        (∀ op fmt wide red ops, r.op = .amo op fmt wide red ops →
          let x := s.dev.amo pa op fmt wide red ops
          exec (.fabricIngress r) s = .next (({ s with dev := x.1 } : State).fabRespond r x.2.2 (leBytes 16 x.2.1))))) ∧
    (∀ st data, s.fabRespond r st data = if r.src = s.dev.myid
      then { s with agenda := s.agenda ++ [.fabricResponse { id := r.id, status := BitVec.ofNat 8 st, data := data }] }
      else s.send (.resp r.src r.id (BitVec.ofNat 8 st) data)))

/-- R326, R331, R323, R453: the answer to an outstanding request takes it off the list: a line that ce11 asked for is filled; a command whose
element was refused, or was never answered, ends with that status unless it has ended; a part of a record that a resume reads is kept for it, and a
save record whose write fails kills its context (R312, R436). R333: a write of V or KEY of a window leaves every
other window and marks its unanswered requests. R455, R456: RETRAIN starts a port that is down; a storm takes a port out of service and
counts; the end of training puts it into service, each request of this device that waits on it sent again once, or leaves it down, the
retries of its window forgotten (log 51); R454: a retry is counted, in a window of flits whose number the spec does not give (log 15). -/
def Obligations.FabricAnswersAndLinks : Prop :=
  (∀ (s : State) (a : FabRespArg) (h : HostCplArg),
    (s.outReq a.id = none → exec (.fabricResponse a) s = .next s ∧ exec (.noResponse a.id) s = .next s) ∧
    (s.outReq h.id = none → exec (.hostLinkCompletion h) s = .next s) ∧
    (∀ r, s.outReq a.id = some r → r.host = true → exec (.fabricResponse a) s = .next s ∧ exec (.noResponse a.id) s = .next s)) ∧
  (∀ (s : State) (i : Instr) (id : Nat) (status : BitVec 8) (data : List Byte) (r : OutReq), s.outReq id = some r →
    (r.host = false ∧ i = .fabricResponse ⟨id, status, data⟩) ∨ (r.host = false ∧ i = .noResponse id ∧ status = 0x56 ∧ data = []) ∨
      (r.host = true ∧ i = .hostLinkCompletion ⟨id, data⟩ ∧ status = 0) → r.gang = none →
    (∀ va, r.line = some va → status = 0 → va % 64 = 0 → ∃ t, exec i s = .next t ∧ (t.unit r.u).es.fetchMiss = none ∧
      (∀ k < 64, (t.unit r.u).icByte (va + k) = some (data.getD k 0)) ∧ t.dev.fab.out = s.dev.fab.out.filter fun o => o.id != id) ∧
    (∀ q, r.line = none → r.side = false → s.cmdOf r.u r.e r.cmd = some q → status ≠ 0 → status ≠ 0x40 → ∃ t, exec i s = .next t ∧
      (∀ c, t.cmdOf r.u r.e r.cmd = some c → c.ended = true ∧ c.status = if q.ended then q.status else status) ∧
      t.dev.fab.out = s.dev.fab.out.filter fun o => o.id != id) ∧
    (r.line = none → r.side = true →
      let gone := s.modDev fun d => { d with fab := { d.fab with out := d.fab.out.filter fun o => o.id != id } }
      let fails := status ≠ 0 ∧ r.e = 0 ∧ (s.unit r.u).status = .stored
      (∀ va, r.reload = some va → status = 0 → exec i s = .next (gone.modUnit r.u fun x => { x with reload := x.reload ++ [(va, data)] })) ∧
      (r.reload ≠ none → status ≠ 0 → exec i s = .next gone) ∧
      (r.reload = none → fails → exec i s = .next (gone.killUnit r.u status)) ∧
      (r.reload = none → ¬fails → exec i s = .next gone)) ∧
    (∀ q, r.line = none → r.side = false → r.wr = true → status = 0 → s.cmdOf r.u r.e r.cmd = some q → ckind q.word = .cpy → ∃ t, exec i s = .next t ∧
      t.dev.mem = s.dev.mem ∧ (∀ c, t.cmdOf r.u r.e r.cmd = some c → r.elt ∉ c.sent) ∧ t.dev.fab.out = s.dev.fab.out.filter fun o => o.id != id)) ∧
  (∀ (s : State) (a : RevokeArg), smWf {} s.dev.fab.wins = true → ∃ t, exec (.windowRevoke a) s = .next t ∧ t.units = s.units ∧ t.dev.mem = s.dev.mem ∧
    let w := s.dev.win a.i.toNat
    t.dev.win a.i.toNat = { w0 := (if a.v then w.w0 ||| 1#64 else w.w0 &&& ~~~(1#64)) &&& 0x00003FFFFFFFFFFF#64, key := a.key.getD w.key,
                            w2 := w.w2, w3 := w.w3 } ∧
    (∀ i, i ≠ a.i.toNat → t.dev.win i = s.dev.win i) ∧
    t.dev.fab.unanswered = s.dev.fab.unanswered.map fun r => if r.1.rwin = a.i then (r.1, true, r.2.2) else r) ∧
  (∀ (s : State) (a : PortArg),
    let p := s.dev.fab.ports[a.j]
    let becomes := fun (i : Instr) (q : FPort) => exec i s = .next (s.modDev fun d => d.setPort a.j q)
    (p.up = false → a.ok = true → becomes (.fpstatRetrain a) { p with retraining := true }) ∧
    (p.up = true ∨ a.ok = false → exec (.fpstatRetrain a) s = .next s) ∧
    becomes (.fabricPortTraining a) { p with up := a.ok } ∧
    (p.retraining = false → exec (.portRetrainComplete a) s = .next s) ∧
    (p.retraining = true → a.ok = false →
      becomes (.portRetrainComplete a) { p with retraining := false, up := false, flits := 0, winRetries := 0 }) ∧
    (p.retraining = true → a.ok = true → ∃ t, exec (.portRetrainComplete a) s = .next t ∧ t.units = s.units ∧
      t.dev.fab.ports[a.j] = { p with retraining := false, up := true, flits := 0, winRetries := 0 } ∧
      ∃ l, t.dev.fab.sent = s.dev.fab.sent ++ l ∧
        (∀ m ∈ l, ∃ o ∈ s.dev.fab.out, o.port = some a.j ∧ ((∃ g, o.gmsg = some g ∧ m = .gang g.1 g.2.1 g.2.2) ∨
          (o.gmsg = none ∧ m ∈ s.dev.fab.sent ∧ ∃ r, m = .req r ∧ r.id = o.id ∧ r.src = s.dev.myid))) ∧
        l.length ≤ s.dev.fab.out.length ∧ ∀ o ∈ s.dev.fab.out, o.port = some a.j → ∀ g, o.gmsg = some g → .gang g.1 g.2.1 g.2.2 ∈ l)) ∧
  (∀ (s : State) (j : Fin 24),
    let p := s.dev.fab.ports[j]
    let n := (fld s.dev.fab.retry 32 16).toNat
    (p.up = false ∨ p.winRetries < n → exec (.retryStorm j) s = .next s) ∧
    (p.up = true → n ≤ p.winRetries → ∃ t, exec (.retryStorm j) s = .next t ∧
      t.dev.fab.ports[j] = { p with up := false, storm := true, retraining := true, storms := if p.storms = 0xFFFF then p.storms else p.storms + 1 } ∧
      (t.unit brim).obs.rctl.getLsbD 16 = false) ∧
    ∃ t, exec (.linkRetry j) s = .next t ∧ (t.dev.fab.ports[j]).retries = (if p.retries = 0xFFFFFFFF then p.retries else p.retries + 1) ∧
      ((t.dev.fab.ports[j]).winRetries = 1 ∨ (t.dev.fab.ports[j]).winRetries = p.winRetries + 1))

/-- R316, R317, R457–R459: a message with a wrong OWNER is answered GANG_REFUSED. The leader records an acknowledgement and a vote, and
commits at every member once it holds every vote; at commit the held accesses wait for replay. A missing acknowledgement at the timeout, a
kill report or a refusal aborts a gang that has not committed: its resident contexts die with GANG_ABORT and its posted records go. An
acknowledgement for no gang is held, and refused at its timeout; one that comes after the abort decision is answered with it, and the
decision goes once every member has been told, or at its expiry. A vote that comes before its leader is dispatched is kept for it, and
what is held is taken at that dispatch: the model's reading (log 44). -/
def Obligations.Gangs : Prop :=
  (∀ (s : State) (m : GangMsg) (g : Gang), s.dev.fab.gangs.find? (fun g => g.gtag == m.gtag) = some g → g.owner ≠ m.owner →
    ∀ i, i = .gangStartAck m ∨ i = .gangVote m ∨ i = .gangCommit m ∨ i = .gangAbort m ∨ i = .killReport m →
      exec i s = .next (s.gangSend 5 m.src { m with src := s.dev.myid })) ∧
  (∀ (s : State) (m : GangMsg) (g : Gang), s.dev.fab.gangs.find? (fun g => g.gtag == m.gtag) = some g → g.owner = m.owner →
    (g.gm = 0 → g.aborted = false → m.gn1 = g.gn1 → m.gm.toNat ≤ g.gn1.toNat → m.gm ≠ 0 → (∀ a ∈ g.acks, a.1 ≠ m.gm) →
      exec (.gangStartAck m) s = .next (s.setGang { g with acks := g.acks ++ [(m.gm, m.src)] })) ∧
    (g.gm = 0 → g.aborted = true → exec (.gangStartAck m) s = .next (s.answerLate m g)) ∧
    (g.gm = 0 → m.gm ∉ g.votes →
      let g' := { g with votes := g.votes ++ [m.gm] }
      let all := ∀ i ≤ g.gn1.toNat, ∃ v ∈ g'.votes, v.toNat = i
      (g.committed = true ∨ g.aborted = true ∨ ¬all → exec (.gangVote m) s = .next (s.setGang g')) ∧
      (g.committed = false → g.aborted = false → all →
        exec (.gangVote m) s = .next ((g.acks.foldl (fun s a => s.gangSend 2 a.2 (g.msg s.dev)) (s.setGang g')).gangRelease g'))) ∧
    (g.aborted = true → exec (.gangCommit m) s = .next s) ∧
    (g.aborted = false → exec (.gangCommit m) s = .next (s.gangRelease g)) ∧
    (g.committed = true ∨ g.aborted = true → exec (.gangAbort m) s = .next s ∧ exec (.gangRefused m) s = .next s) ∧
    (g.committed = false → g.aborted = false → exec (.gangAbort m) s = .next (s.gangAbort g)) ∧
    (g.gm = 0 → exec (.killReport m) s = .next (s.gangDecideAbort g))) ∧
  (∀ (s : State) (m : GangMsg) (g : Gang), s.dev.fab.gangs.find? (fun g => g.gtag == m.gtag && g.owner == m.owner) = some g →
    g.committed = false → g.aborted = false → exec (.gangRefused m) s = .next (s.gangAbort g)) ∧
  (∀ (s : State) (k : BitVec 10) (g : Gang), s.dev.fab.gangs.find? (fun g => g.gtag == k && g.gm == 0) = some g →
    (g.acks.length < g.gn1.toNat → exec (.gangTimeout k) s = .next (s.gangDecideAbort g)) ∧
    (g.gn1.toNat ≤ g.acks.length → exec (.gangTimeout k) s = .next (s.setGang { g with expired := true }))) ∧
  (∀ (s : State) (m : GangMsg), (∀ g ∈ s.dev.fab.gangs, g.gtag ≠ m.gtag) → (∀ g ∈ s.dev.fab.decisions, g.gtag ≠ m.gtag) →
    exec (.gangStartAck m) s = .next (s.modDev fun d => { d with fab := { d.fab with heldAcks := d.fab.heldAcks ++ [m] } }) ∧
    exec (.gangVote m) s = .next (s.modDev fun d => { d with fab := { d.fab with earlyVotes := d.fab.earlyVotes ++ [m] } }) ∧
    exec (.gangCommit m) s = .next s ∧ exec (.gangAbort m) s = .next s) ∧
  (∀ (s : State) (m : GangMsg) (g : Gang), (∀ h ∈ s.dev.fab.gangs, h.gtag ≠ m.gtag) →
    s.dev.fab.decisions.find? (fun g => g.gtag == m.gtag) = some g →
    exec (.gangStartAck m) s = .next (s.answerLate m g) ∧ exec (.gangVote m) s = .next s ∧ (s.answerLate m g).units = s.units ∧
      ∀ h ∈ (s.answerLate m g).dev.fab.decisions, h.untold = true) ∧
  (∀ (s : State) (m : GangMsg), (m ∉ s.dev.fab.heldAcks → exec (.heldAckTimeout m) s = .next s) ∧
    (m ∈ s.dev.fab.heldAcks → exec (.heldAckTimeout m) s = .next ((s.modDev fun d =>
      { d with fab := { d.fab with heldAcks := d.fab.heldAcks.erase m } }).gangSend 3 m.src { m with src := s.dev.myid }))) ∧
  (∀ (s : State) (k : BitVec 10), ∃ t, exec (.abortDecisionExpiry k) s = .next t ∧ t.units = s.units ∧
    ∀ g, g ∈ t.dev.fab.decisions ↔ g ∈ s.dev.fab.decisions ∧ g.gtag ≠ k) ∧
  (∀ (s : State) (g : Gang),
    ((∀ f ∈ s.dev.sched.ents, f.inGang g = true → f.st ≠ .stopped) → ∀ e ∈ s.dev.sched.ents, e.inGang g = true → e.st = .resident →
      ∀ u c, (s.unit u).ctx = some c → c.pool = e.pool → c.ent = e.ent → ((s.gangAbort g).unit u).status = .killed) ∧
    (∀ e ∈ (s.gangAbort g).dev.sched.ents, e.inGang g = true →
      e.st ≠ .posted ∧ e.st ≠ .taken ∧ e.st ≠ .stopped) ∧
    (∀ u c, (s.unit u).ctx = some c → c.inGang g = true → ∀ (e : EngId), ∀ l ∈ ((((s.gangRelease g).unit u).es.eng[e]).log), l.gang = false) ∧
    (∀ u, (∀ c, (s.unit u).ctx = some c → c.inGang g = false) → (s.gangRelease g).unit u = s.unit u))

/-- R334, R335, R460: a round starts when TCNTR has reached it; a partial of the running round is kept with its sender, one of a later round
until that starts, and with the partials of all children a member sends their sum with its own words to its parent, exactly for f32; the
result is written to RBUF, goes to the children, raises DCNTR and ends the round. A message that names no enabled group of its OWNER is
answered, and the sender enters it in the moth map. A partial that comes early is kept for its round, and the entry has POOL and ENT 0,
UNIT 8, in the lowest enabled partition of the OWNER: the model's reading (log 52). -/
def Obligations.AllReduce : Prop :=
  (∀ (s : State) (i : Fin 64),
    let g := s.dev.grp i.val
    let due := g.on = true ∧ g.running = false ∧ ((s.dev.counter (g.f 39 12)) - g.round).msb = false
    (¬due → exec (.allreduceRoundStart i) s = .next s) ∧
    (due → g.sent = false → g.got = [] → (∀ m ∈ g.early, m.round ≠ g.round) → 0 < g.f 8 4 → ∃ t, exec (.allreduceRoundStart i) s = .next t ∧
      t.units = s.units ∧ t.dev.mem = s.dev.mem ∧ t.dev.grp i.val = { g with running := true })) ∧
  (∀ (s : State) (m : ArMsg),
    let g := s.dev.grp m.g.val
    let ok := g.on = true ∧ (fld g.w0 27 12) = m.owner
    (¬ok → exec (.allreducePartial m) s = .next (s.send (.refusedGroup m)) ∧ exec (.allreduceResult m) s = .next (s.send (.refusedGroup m))) ∧
    (ok → g.running = true → g.sent = false → m.round = g.round → (∀ c ∈ g.got, c.1 ≠ m.src) →
      (g.got.length + 1 < g.f 8 4 → ∃ t, exec (.allreducePartial m) s = .next t ∧ t.units = s.units ∧ t.dev.mem = s.dev.mem ∧
        t.dev.grp m.g.val = { g with got := g.got ++ [(m.src, m.vals)] }) ∧
      (g.got.length + 1 = g.f 8 4 → g.f 26 1 = 0 → g.parent ≠ s.dev.myid →
        let sum := (g.got ++ [(m.src, m.vals)]).foldl (fun a c => List.zipWith (arAdd (g.f 1 2)) a c.2) (s.dev.arOwn g)
        ∃ t, exec (.allreducePartial m) s = .next t ∧ t.units = s.units ∧ t.dev.mem = s.dev.mem ∧
          t.dev.grp m.g.val = { g with got := g.got ++ [(m.src, m.vals)], sent := true } ∧ t.dev.fab.sent = s.dev.fab.sent ++
            [.ar false g.parent { g := m.g, round := g.round, owner := fld g.w0 27 12, src := s.dev.myid, vals := sum }])) ∧
    (ok → g.running = false ∨ m.round ≠ g.round → (m.round - g.round).msb = false → ∃ t, exec (.allreducePartial m) s = .next t ∧
      t.units = s.units ∧ t.dev.grp m.g.val = { g with early := g.early ++ [m] }) ∧
    (ok → g.running = false ∨ g.sent = false ∨ m.round ≠ g.round → exec (.allreduceResult m) s = .next s) ∧
    (ok → g.running = true → g.sent = true → m.round = g.round → smWf 0 s.dev.counters = true → ∃ t, exec (.allreduceResult m) s = .next t ∧
      t.units = s.units ∧ t.dev.grp m.g.val = { g with round := g.round + 1, running := false, got := [], sent := false } ∧
      (∀ n, t.dev.counter n = if n = g.f 51 12 then s.dev.counter n + 1 else s.dev.counter n) ∧
      t.dev.mem = (s.dev.write (brimPa g.bufs.2) (m.vals.flatMap fun v => leBytes g.width v.val.toNat)).mem)) ∧
  (∀ a b : ArVal, (arAdd 0 a b).val = (a.val + b.val) % 2 ^ 32 ∧ (arAdd 1 a b).val = (a.val + b.val) % 2 ^ 64 ∧ (arAdd 2 a b).val = a.val + b.val) ∧
  (∀ (s : State) (m : ArMsg),
    let g := s.dev.grp m.g.val
    let mine := fun (q : Fin 8) => (s.dev.part[q]).getLsbD 20 = true ∧ fld s.dev.part[q] 8 12 = fld g.w0 27 12
    ((∀ q, ¬mine q) → exec (.groupRefused m) s = .next s) ∧
    (∀ q, mine q → (∀ r, r < q → ¬mine r) → exec (.groupRefused m) s = .next (s.modDev fun d =>
      d.mothPut q.val (0x57 * 2 ^ 48 + g.f 27 12 * 2 ^ 36 + 8 * 2 ^ 20) (BitVec.ofNat 64 (2 * 2 ^ 60 + g.bufs.2)) (BitVec.ofNat 64 g.len)
        (BitVec.ofNat 64 ((s.unit brim).ck.scyc % 2 ^ 48)))))

/-! ### The host link, boot and attestation (R305, R321–R324, R349–R351, R355–R358) -/

/-- R305, R322, R328, R455: a write of BAR0 at an aligned offset stores the fields of the register there; a read returns it, clears what
Tables 19.1, 20.4, 21.2 and 21.6 mark as cleared by a read, and KEY reads zero. An access that is not aligned reads 0 and changes nothing, and HDM works in CXL mode and below
2^44 only (the model's reading, log 45). HDM reads memory at its ordering point, all ones and a poison indication where nothing backs it, and drops writes there; a read moves no exact cell to its spill area while there are at most 256
(R116). -/
def Obligations.HostRegisters : Prop :=
  (∀ (s : State) (a : BarWriteArg),
    let at_ := fun (o : Nat) => a.off.toNat = o
    let becomes := fun (f : Dev → Dev) => exec (.registerWrite a) s = .next (s.modDev f)
    (a.off.toNat % 8 ≠ 0 → exec (.registerWrite a) s = .next s) ∧
    (at_ 0 → becomes fun d => { d with sched := { d.sched with ctl := a.v &&& 0x0000FFFFFFFFFFFF#64 } }) ∧
    (∀ n : Fin 16, at_ (0x400 + 8 * n.val) → becomes fun d => { d with sched := { d.sched with weight := d.sched.weight.set n (fld a.v 0 32) } }) ∧
    (∀ q : Fin 8, at_ (0x180000 + 8 * q.val) → becomes fun d => { d with part := d.part.set q (a.v &&& 0x1FFFFF#64) }) ∧
    (at_ 0x100000 → becomes fun d => { d with fab := { d.fab with cfg := a.v &&& 0x0000FFFFFF003FFF#64 } }) ∧
    (∀ i < 4096, ∀ n < 4, at_ (0x110000 + 32 * i + 8 * n) → becomes fun d => d.writeWin i n a.v) ∧
    (∀ j : Fin 24, at_ (0x100100 + 8 * j.val) → becomes fun d =>
      let p := d.fab.ports[j]
      d.setPort j { p with retraining := p.retraining || (a.v.getLsbD 61 && !p.up), storm := p.storm && !a.v.getLsbD 62 }) ∧
    (at_ 0x1C0008 → becomes fun d => { d with att := { d.att with arg := a.v } })) ∧
  (∀ (s : State) (a : BarReadArg),
    let at_ := fun (o : Nat) => a.off.toNat = o
    let reads := fun (v : Word) (f : Dev → Dev) => exec (.rcRead a) s = .next (s.modDev fun d => { f d with hostRead := v })
    (a.off.toNat % 8 ≠ 0 → reads 0 id) ∧
    (at_ 0 → reads s.dev.sched.ctl id) ∧
    (∀ i < 4096, at_ (0x110008 + 32 * i) → reads 0 id) ∧
    (∀ c : Fin 16, at_ (0x20008 + 32 * c.val) →
      let m := s.dev.hl.hbm[c]
      reads (BitVec.ofBool m.alert ++ (0 : BitVec 15) ++ m.nrfm ++ m.ce ++ m.ue)
        fun d => { d with hl := { d.hl with hbm := d.hl.hbm.set c { m with nrfm := 0, ce := 0, ue := 0 } } }) ∧
    (∀ q : Fin 8, at_ (0x810 + 32 * q.val) → reads ((s.dev.moth[q]).lost.setWidth 64)
      fun d => { d with moth := d.moth.set q { s.dev.moth[q] with lost := 0 } }) ∧
    (∀ j : Fin 24, at_ (0x100100 + 8 * j.val) →
      let p := s.dev.fab.ports[j]
      reads (BitVec.ofBool p.up ++ BitVec.ofBool p.storm ++ (0 : BitVec 14) ++ p.storms ++ p.retries)
        fun d => d.setPort j { p with storms := 0, retries := 0 })) ∧
  (∀ (s : State) (a : HdmReadArg),
    let pa := a.pa.toNat
    (s.dev.hl.link ≠ .cxl ∨ 2 ^ 44 < pa + a.len → exec (.hdmRead a) s = .next s) ∧
    (s.dev.hl.link = .cxl → pa + a.len ≤ 2 ^ 44 → ∃ t, exec (.hdmRead a) s = .next t ∧ t.units = s.units ∧
      (s.dev.mem.red.length ≤ 256 → t.dev.mem.cells = s.dev.mem.cells) ∧ t.dev.hdmData.length = a.len ∧
      (∀ i < a.len, t.dev.hdmData.getD i 0 = if s.dev.tier (pa + i) = .none then 0xFF else s.dev.byte (s.dev.home (pa + i))) ∧
      (t.dev.hdmPoison = true ↔ ∃ i < a.len, s.dev.tier (pa + i) = .none ∨ s.dev.poisoned (s.dev.home (pa + i)) 1 = true))) ∧
  (∀ (s : State) (a : HdmWriteArg),
    let pa := a.pa.toNat
    (s.dev.hl.link ≠ .cxl ∨ 2 ^ 44 < pa + a.bytes.length → exec (.hdmWrite a) s = .next s) ∧
    (s.dev.hl.link = .cxl → pa + a.bytes.length ≤ 2 ^ 44 → pa % 4096 + a.bytes.length ≤ 4096 → ∃ t, exec (.hdmWrite a) s = .next t ∧ t.units = s.units ∧
      (s.dev.tier pa = .none → s.dev.mem.red.length ≤ 256 → t.dev.mem.cells = s.dev.mem.cells) ∧
      (s.dev.tier pa ≠ .none → s.dev.card.moves = [] → s.dev.mem.red = [] → s.dev.mem.retired = [] → smWf 0 s.dev.mem.cells = true →
        ∀ x, t.dev.byte x = if pa ≤ x ∧ x < pa + a.bytes.length then a.bytes.getD (x - pa) 0 else s.dev.byte x)))

/-- R351, R350, R16, R107, R110: boot with at least six working crowns and for each ordered pair of them a route whose links and routers
passed BIST, cx-first before cy-first, leaves the brim core and the working crowns idle with their logical batts in ascending order
of the working positions and BMAP locked, HBMCFG locked with the working crowns, the routes held; else the machine stops at step 3,
with BMAP of the working crowns locked, and issues nothing (boot in one row, with step 2's writes kept at a stop: the model's reading,
log 47; a route for every ordered pair of working crowns: log 66). R321, R324: the links take what training gives, and a port that did not
train contributes no range.
R355–R358: EXTEND extends MEAS[5 + ARG] alone, with SM3 of its value and the digest; reports are made one at a time in the order of
their requests, sixteen are held, and a seventeenth is answered BUSY (the one being signed counts, and MEAS has its first byte in bits 7:0:
the model's reading, log 46); a report takes MEAS when its signing begins. -/
def Obligations.BootLinksAndAttestation : Prop :=
  ((∀ (s : State) (a : BootArg),
    let works := fun (j : Nat) => (List.range 9).filter fun p => !(a.failed.getD j 0).getLsbD p
    let crown := fun (k : Nat) => a.dieOk.getLsbD k = true ∧ a.stackOk.getLsbD k = true ∧ a.routerOk.getLsbD k = true ∧
      a.brimLinkOk.getLsbD k = true ∧ 8 ≤ (works k).length
    let good := (List.range 8).filter fun k => crown k
    let felt : Felt := { links := a.linkOk, routers := a.routerOk, brimLinks := a.brimLinkOk }
    let sound := fun (o : RouteOrder) (x y : Nat) => felt.sound (feltPath o x y) = true
    let ok := 6 ≤ good.length ∧ ∀ x ∈ good, ∀ y ∈ good, x ≠ y → sound .cxFirst x y ∨ sound .cyFirst x y
    let mapped := fun (t : State) (k : Nat) => (t.unit (crownUnit k)).cfg.bmap.getLsbD 63 = true ∧
      ∀ i < 8, (fld (t.unit (crownUnit k)).cfg.bmap (4 * i) 4).toNat = (works k).getD i 0
    ∃ t, exec (.powerOnReset a) s = .next t ∧ t.agenda = s.agenda ∧ t.cur = s.cur ∧
      (ok → (t.unit brim).status = .idle ∧ t.dev.att.failed = false ∧ t.dev.ncrown = good.length ∧
        t.dev.survivors = good ∧ t.dev.ixsize = Nat.min a.ixsize.toNat 128 ∧ t.dev.hbmcfg.getLsbD 0 = true ∧
        (∀ k < 8, (¬crown k → t.unit (crownUnit k) = {}) ∧ (crown k → (t.unit (crownUnit k)).status = .idle ∧ mapped t k)) ∧
        ∀ x ∈ good, ∀ y ∈ good, x ≠ y → (sound .cxFirst x y → t.dev.felt.routes.toList.getD (8 * x + y) none = some .cxFirst) ∧
          (¬sound .cxFirst x y → t.dev.felt.routes.toList.getD (8 * x + y) none = some .cyFirst)) ∧
      (¬ok → t.dev.att.failed = true ∧ t.dev.att.status = 4 ∧ t.dev.mem = {} ∧ (∀ u, (t.unit u).status = .absent) ∧
        ∀ k < 8, crown k → mapped t k)) ∧
  (∀ s : State, s.agenda = [] → s.dev.att.failed = true → step s = .fault .bootStopped) ∧
  (∀ (s : State) (m : LinkMode), exec (.hostLinkTraining m) s = .next (s.modDev fun d => { d with hl := { d.hl with link := m } })) ∧
  (∀ (s : State) (a : CxlArg), ∃ t, exec (.cxlPortTraining a) s = .next t ∧ t.units = s.units ∧ t.dev.mem = s.dev.mem ∧
    (∀ p : Fin 4, t.dev.hl.cxlCap[p] = if p = a.p then (if a.ok then a.cap else 0) else s.dev.hl.cxlCap[p]) ∧
    (a.ok = false → ∀ pa, t.dev.tier pa ≠ .cxl a.p.val))) ∧
  ((∀ s : State, ∃ t, exec .extend s = .next t ∧ t.units = s.units ∧ t.dev.mem = s.dev.mem ∧ t.dev.att.report = s.dev.att.report ∧
    (2 < s.dev.att.arg.toNat → t.dev.att.meas = s.dev.att.meas ∧ t.dev.att.status = 5) ∧
    (s.dev.att.arg.toNat ≤ 2 → ∀ i : Fin 8, t.dev.att.meas[i] =
      if i.val = 5 + s.dev.att.arg.toNat then BitVec.ofNat 256 (leNat (sm3 (leBytes 32 (s.dev.att.meas[i]).toNat ++ leBytes 32 s.dev.att.data.toNat)))
      else s.dev.att.meas[i])) ∧
  (∀ (s : State) (a : AttestArg) (i : Instr) (src : Option (BitVec 14)) (nonce : BitVec 256),
    (i = .report ∧ src = none ∧ nonce = s.dev.att.data) ∨ (i = .attest a ∧ src = some a.src ∧ nonce = a.nonce) →
    let x := s.dev.att
    let st := if src = none then 1 else x.status
    (16 ≤ x.queue.length + (if x.signing.isSome then 1 else 0) →
      (src = none → exec i s = .next (s.modDev fun d => { d with att := { d.att with status := 3 } })) ∧
      (∀ m, src = some m → exec i s = .next (s.send (.report (some m) true [])))) ∧
    (x.queue.length < 15 → x.signing ≠ none →
      exec i s = .next (s.modDev fun d => { d with att := { d.att with queue := x.queue ++ [(src, nonce)], status := st } })) ∧
    (x.queue = [] → x.signing = none →
      exec i s = .next (s.modDev fun d => { d with att := { d.att with queue := [], signing := some (src, nonce, s.reportBytes nonce), status := st } }))) ∧
  (∀ s : State, (s.dev.att.signing = none → exec .attestationReportSigned s = .next s) ∧
    (∀ src nonce bs, s.dev.att.signing = some (src, nonce, bs) →
      let rep := bs ++ signReport s.free bs
      ∃ t, exec .attestationReportSigned s = .next t ∧ t.free = s.free + 1 ∧ t.units = s.units ∧ t.dev.mem = s.dev.mem ∧ t.dev.att.meas = s.dev.att.meas ∧
        (src = none → t.dev.att.report = rep ∧ t.dev.att.status = 2 ∧ t.dev.fab = s.dev.fab) ∧
        (∀ m, src = some m → t.dev.att.report = s.dev.att.report ∧ t.dev.fab.sent = s.dev.fab.sent ++ [.report (some m) false rep]) ∧
        (s.dev.att.queue = [] → t.dev.att.signing = none) ∧
        (∀ r l, s.dev.att.queue = r :: l → t.dev.att.queue = l ∧ t.dev.att.signing = some (r.1, r.2, s.reportBytes r.2)))) ∧
  (∀ (s : State) (nonce : BitVec 256), (s.reportBytes nonce).length = 0x1C0 ∧
    ∀ i : Fin 8, leNat (((s.reportBytes nonce).drop (40 + 32 * i.val)).take 32) = (s.dev.att.meas[i]).toNat))

/-! ### Clocks, temperature and memory health (R352–R354, R408–R414, R419–R425, R437, R443, R444, R468) -/

/-- R352–R354: after a window above LIMIT every working crown steps down, below LIMIT − 100 W one below its target steps up, and a
governor's request takes the lower; a crown that changes its clock is gated for 32 clocks at the old frequency and has the new one
from then on. Above 40 °C at the inlet or below 1.5 L/min of flow every crown goes to 400 MHz and COOL is set. R410, R414: a sample of the governor moves the step of each batt and its trip. R413, R408:
a batt's trip kills the context of its crown, and a crown that loses both copies of BMAP fails. A request of the governor names its step,
the 32 clocks pass on an idle crown too (log 48), and a trip acts on every crown that owes one (log 49): the model's readings. -/
def Obligations.ClocksAndGovernor : Prop :=
  (∀ (s : State) (a : PowerArg), ∃ t, exec (.powerWindow a) s = .next t ∧ t.dev.mem = s.dev.mem ∧
    fld t.dev.pow.stat 16 16 = a.watts ∧ (fld t.dev.pow.stat 0 16).toNat = Nat.max (fld s.dev.pow.stat 0 16).toNat a.watts.toNat ∧
    t.dev.pow.mhz = s.dev.pow.mhz ∧ (s.dev.pow.stat.getLsbD 56 = true → t.units = s.units) ∧
    (s.dev.pow.stat.getLsbD 56 = false → t.unit brim = s.unit brim ∧ ∀ k : Fin 8,
      let u := crownUnit k.val
      let f := s.nextMhz k
      let down := if f ≤ 425 then 400 else f - 25
      let c := if s.dev.pow.lim.toNat < a.watts.toNat then down
        else if a.watts.toNat + 100 < s.dev.pow.lim.toNat ∧ f < s.dev.pow.target[k] then f + 25 else f
      let new := if (s.unit u).status = .absent then f else if a.gov.getLsbD k.val = true ∧ down < c then down else c
      t.unit u = if new ≠ f then { s.unit u with ck := { (s.unit u).ck with gateRun := 32, nextMhz := new } } else s.unit u)) ∧
  (∀ (s : State), s.cur ≠ brim →
    let k : Fin 8 := Fin.ofNat 8 s.cur.val
    let x := s.me
    (x.ck.gateRun = 0 → s.changeTick = s) ∧
    (x.ck.gateRun ≠ 0 → s.changeTick.me = { x with ck := { x.ck with gateRun := x.ck.gateRun - 1 } } ∧
      s.changeTick.dev.pow.mhz = if x.ck.gateRun = 1 then s.dev.pow.mhz.set k x.ck.nextMhz else s.dev.pow.mhz)) ∧
  (∀ (s : State) (a : CoolArg),
    let out := 40 < a.inlet.toNat ∨ a.flow < 15
    ∃ t, exec (.coolantLimit a) s = .next t ∧ exec (.coolantWithinLimits a) s = .next t ∧ t.dev.mem = s.dev.mem ∧
      t.dev.pow.mhz = s.dev.pow.mhz ∧ fld t.dev.pow.stat 48 8 = a.inlet ∧
      (out → t.dev.pow.stat.getLsbD 56 = true ∧ ∀ k : Fin 8, (s.unit (crownUnit k.val)).status ≠ .absent → t.nextMhz k = 400) ∧
      (¬out → t.dev.pow.stat.getLsbD 56 = false ∧ t.units = s.units)) ∧
  (∀ (s : State) (a : GovArg), ∃ t, exec (.governorSample a) s = .next t ∧ t.dev = s.dev ∧ (∀ v, v ≠ crownUnit a.k.val → t.unit v = s.unit v) ∧
    ((s.unit (crownUnit a.k.val)).status = .absent → t = s) ∧
    ((s.unit (crownUnit a.k.val)).status ≠ .absent → 0 < (fld s.dev.pow.dcgcfg 32 16).toNat → ∀ b : Fin 8,
      let c := s.dev.pow.dcgcfg
      let o := (s.unit (crownUnit a.k.val)).cfg.dcg[b]
      let n := (t.unit (crownUnit a.k.val)).cfg.dcg[b]
      let T := (a.temps[b]).toNat
      let tw := (fld c 0 8).toNat
      let per := (fld c 32 16).toNat
      n.temp = a.temps[b] ∧
      (tw < T → n.btw = 0 ∧ n.atw.toNat = Nat.min (o.atw.toNat + 1) 0xFFFF ∧ (o.trip = false → n.step.toNat =
        let up := if n.atw.toNat % per = 0 then Nat.min (o.step.toNat + 1) 7 else o.step.toNat
        if (fld c 8 8).toNat ≤ T then Nat.max up 4 else up)) ∧
      (T ≤ tw → n.atw = 0 ∧ (tw < T + (fld c 24 4).toNat → n.btw = 0 ∧ n.step = o.step ∧ (o.trip = true → n.cool = 0)) ∧
        (T + (fld c 24 4).toNat ≤ tw → n.btw.toNat = Nat.min (o.btw.toNat + 1) 0xFFFF ∧
          (o.trip = false → n.step.toNat = if n.btw.toNat % per = 0 then o.step.toNat - 1 else o.step.toNat) ∧
          (o.trip = true → o.cool + 1 < per → n.cool = o.cool + 1))) ∧
      (o.trip = false → (n.trip = true ↔ (fld c 16 8).toNat ≤ T)) ∧
      (o.trip = true → (n.trip = false ↔ T + (fld c 24 4).toNat ≤ tw ∧ per ≤ o.cool + 1) ∧ (n.trip = false → n.step = 7)))) ∧
  (∀ s : State, ∃ t, exec .battTrip s = .next t ∧
    ((∀ k < 8, (s.unit (crownUnit k)).tripDue = false) → t = s) ∧
    ∀ k < 8, (s.unit (crownUnit k)).tripDue = true → (t.unit (crownUnit k)).cfg.tripped = true ∧
      ((s.unit (crownUnit k)).ctx.isSome = true → (t.unit (crownUnit k)).status = .killed)) ∧
  (∀ (s : State) (a : BmapArg),
    let u := crownUnit a.k.val
    let x := (s.unit u).cfg
    let off := (s.unit u).status = .absent ∨ x.failed = true
    (off → exec (.bmapScrub a) s = .next s) ∧
    (¬off → a.prim ≠ .uncorrectable → a.shadow ≠ .uncorrectable → exec (.bmapScrub a) s = .next s) ∧
    (¬off → a.prim = .uncorrectable → a.shadow ≠ .uncorrectable →
      exec (.bmapScrub a) s = .next (s.modUnit u fun y => { y with cfg := { x with bmap := x.bmapShadow } })) ∧
    (¬off → a.prim ≠ .uncorrectable → a.shadow = .uncorrectable →
      exec (.bmapScrub a) s = .next (s.modUnit u fun y => { y with cfg := { x with bmapShadow := x.bmap } })) ∧
    (¬off → a.prim = .uncorrectable → a.shadow = .uncorrectable → s.dev.sched.ents = [] → ∃ t, exec (.bmapScrub a) s = .next t ∧
      (t.unit u).cfg.failed = true ∧ ((s.unit u).ctx.isSome = true → (t.unit u).status = .killed)))

/-- R419–R421, R423–R425, R438: an uncorrectable error poisons the scratch granule or the 64-byte block that it is in, once, with the words
whose spill entries stand in the block, and counts at the controller, a correctable one only counts; one that a controller reports of a
write into a frame that a page moves to spoils the move. A word of an accumulator, of its committed copy or of a plane, or of an exact
cell, becomes poison, an accumulator word in phase mode cancels the phase, an error in registers kills the context with STATE_UE, and one
in an entry of a TLB, of the victim TLB or of the I-cache drops the entry. R422: an error that a read made for a unit meets freezes the
recorder of that unit besides; what the patrol scrub finds freezes none (log 50). A row whose remap entry is lost in both copies is
retired, and its entry goes (log 50); one good copy reloads the other. Both forms complete in every state. -/
def Obligations.MemoryErrors : Prop :=
  (∀ (s : State) (a : ScrubArg), ∃ t, exec (.patrolScrub a) s = .next t ∧
    (∀ u, a.reader = some u → (t.unit u).obs.rctl.getLsbD 16 = false ∧
      exec (.patrolScrub a) s = exec (.patrolScrub { a with reader := none }) (s.modUnit u UnitSt.freeze)) ∧
    ∀ u, a.reader ≠ some u → (t.unit u).obs = (s.unit u).obs) ∧
  (∀ (s : State) (k : CrownId) (addr : BitVec 32) (e : Ecc),
    let g := addr.toNat / 16
    let scrub := exec (.patrolScrub ⟨.face k addr e, none⟩) s
    (e ≠ .uncorrectable ∨ regionOf addr.toNat = .reserved → scrub = .next s) ∧
    (e = .uncorrectable → regionOf addr.toNat ≠ .reserved → ∃ t, scrub = .next t ∧ t.dev = s.dev ∧
      (∀ v, v ≠ crownUnit k.val → t.unit v = s.unit v) ∧
      let old := smGet {} (s.unit (crownUnit k.val)).st.face g
      smGet {} (t.unit (crownUnit k.val)).st.face g = { old with poison := true, prop := false } ∧
      (smWf {} (s.unit (crownUnit k.val)).st.face = true → ∀ x, x ≠ g →
        smGet {} (t.unit (crownUnit k.val)).st.face x = smGet {} (s.unit (crownUnit k.val)).st.face x))) ∧
  (∀ (s : State) (pa : BitVec 52) (e : Ecc),
    let known := s.dev.mem.poison.contains (pa.toNat / 64)
    let scrub := exec (.patrolScrub ⟨.dram pa e, none⟩) s
    (e = .clean ∨ s.dev.ctl pa.toNat = none ∨ (e = .uncorrectable ∧ known = true) → scrub = .next s) ∧
    (∀ c : Fin 16, s.dev.ctl pa.toNat = some c.val →
      (e = .correctable → scrub = .next (s.modDev fun d =>
        let m := d.hl.hbm[c]
        { d with hl := { d.hl with hbm := d.hl.hbm.set c { m with ce := if m.ce = 0xFFFF then m.ce else m.ce + 1 } } })) ∧
      (e = .uncorrectable → known = false → ∃ t, scrub = .next t ∧ t.units = s.units ∧
        t.dev.mem.cells = s.dev.mem.cells ∧ (∀ b, b ∈ t.dev.mem.poison ↔ b = pa.toNat / 64 ∨ b ∈ s.dev.mem.poison ∨
          ∃ x ∈ s.dev.spillWords (pa.toNat / 64), ∃ i < x.bytes, b = (x.pa + i) / 64) ∧
        (t.dev.hl.hbm[c]).ue = if (s.dev.hl.hbm[c]).ue = 0xFFFF then (s.dev.hl.hbm[c]).ue else (s.dev.hl.hbm[c]).ue + 1)) ∧
    ∃ t, exec (.patrolScrub ⟨.dramWrite pa, none⟩) s = .next t ∧ t.units = s.units ∧ t.dev.card.moves = s.dev.card.moves.map fun m =>
      if m.dst / 65536 = pa.toNat / 65536 ∧ (m.st = .moving ∨ (m.st = .cutting ∧ m.sw = 0)) then { m with bad := true } else m) ∧
  (∀ (s : State) (k : CrownId) (slot : BitVec 5) (b : Fin 8) (row col : BitVec 7),
    let u := crownUnit k.val
    let x := s.unit u
    let word := fun (n : Nat) => n * 16384 + row.toNat * 128 + col.toNat
    let hits := fun (w : ScrubWhat) (f : Stores → List Nat) (n : Nat) => ∃ t, exec (.patrolScrub ⟨w, none⟩) s = .next t ∧ t.dev = s.dev ∧
      (∀ v, v ≠ u → t.unit v = s.unit v) ∧ (t.unit u).regs = x.regs ∧ (t.unit u).st.acc = x.st.acc ∧ (t.unit u).st.planes = x.st.planes ∧
      (∀ w, w ∈ f (t.unit u).st ↔ w = word n ∨ w ∈ f x.st)
    (x.phase.on = false → hits (.acc k slot row col) Stores.accPoison slot.toNat) ∧
    (x.phase.on = true → x.phase.cancels < 2 → ∃ t, exec (.patrolScrub ⟨.acc k slot row col, none⟩) s = .next t ∧
      (t.unit u).phase.closing = some none ∧ (t.unit u).phase.cancels = x.phase.cancels + 1 ∧ (t.unit u).st = x.st) ∧
    hits (.committed k slot row col) Stores.committedPoison slot.toNat ∧
    hits (.plane k b row col) Stores.planePoison b.val) ∧
  (∀ (s : State) (pa : BitVec 52),
    (s.dev.mem.cellOf pa.toNat = none → exec (.patrolScrub ⟨.cell pa, none⟩) s = .next s) ∧
    (∀ c, s.dev.mem.cellOf pa.toNat = some c → ∃ t, exec (.patrolScrub ⟨.cell pa, none⟩) s = .next t ∧ t.units = s.units ∧
      t.dev.mem.cells = s.dev.mem.cells ∧ ∀ b, b ∈ t.dev.mem.poison ↔ b ∈ s.dev.mem.poison ∨ ∃ i < c.bytes, b = (c.pa + i) / 64)) ∧
  (∀ (s : State) (u : UnitId), ∃ t, exec (.patrolScrub ⟨.regs u, none⟩) s = .next t ∧
    t.dev.mem = s.dev.mem ∧ ((s.unit u).ctx.isSome = true → (t.unit u).status = .killed ∧
      ((s.unit u).status ≠ .killed → (t.unit u).killCause = 0x49)) ∧ ((s.unit u).ctx = none → t = s)) ∧
  (∀ (s : State) (u : UnitId) (e : EngId) (i : Nat),
    let drops := fun (w : ScrubWhat) (f : EngineSide → EngineSide) =>
      exec (.patrolScrub ⟨w, none⟩) s = .next (s.modUnit u fun x => { x with es := f x.es })
    drops (.tlb u e i) (fun y => { y with eng := y.eng.set e { y.eng[e] with tlb := (y.eng[e]).tlb.eraseIdx i } }) ∧
    drops (.victim u i) (fun y => { y with victim := y.victim.eraseIdx i }) ∧
    drops (.icache u i) (fun y => { y with icache := y.icache.eraseIdx i })) ∧
  (∀ (s : State) (a : RemapArg),
    let r := (a.k.val, a.pc.val, a.bank.val, a.row.toNat)
    let ent := s.dev.remapOf a.k.val a.pc.val a.bank.val a.row.toNat
    let lost := a.prim = .uncorrectable ∧ a.shadow = .uncorrectable
    ∃ t, exec (.remapReload a) s = .next t ∧ t.units = s.units ∧
      (ent = none → t = s) ∧
      (ent ≠ none → ¬lost → t.dev.mem = s.dev.mem ∧ ∀ k pc b row, t.dev.remapOf k pc b row =
        if (k, pc, b, row) = r then ent.map fun e =>
          { e with spare := if a.prim = .uncorrectable then e.copy else e.spare, copy := if a.shadow = .uncorrectable then e.spare else e.copy }
        else s.dev.remapOf k pc b row) ∧
      (ent ≠ none → lost → t.dev.remapOf a.k.val a.pc.val a.bank.val a.row.toNat = none ∧
        (∀ x, x ∈ t.dev.mem.retired ↔ x = r ∨ x ∈ s.dev.mem.retired) ∧ ∀ pa, t.dev.hbmRow pa = some r → t.dev.poisoned pa 1 = true))

/-- R443, R444, R468, R437: a write of MHCFG stores its fields, MTH held between 64 and 32768, and clears the controller's counts, the
entries keeping their rows; RFM, at the lowest bank that owes one (the model's reading, log 53), closes the bank, refreshes the physical
neighbours of the aggressor (R423) and zeroes its count, counts and records it; a refresh closes its bank (log 33), and a window's start
clears the counts of its pseudo-channel. A pseudo-channel enters self-refresh with every bank closed, unless SRIDLE is 0; at its exit
the fabric's requests that waited for it alone are performed, as they are once a bank has ended the RFM that it owed. -/
def Obligations.MemoryRefresh : Prop :=
  (∀ (s : State) (a : MhcfgArg), ∃ t, exec (.mhcfgWrite a) s = .next t ∧ t.units = s.units ∧ t.dev.mem = s.dev.mem ∧
    let n := (fld a.v 0 16).toNat
    let mth := BitVec.ofNat 16 (if n < 64 then 64 else if 32768 < n then 32768 else n)
    t.dev.hl.hbm = s.dev.hl.hbm.set a.c { s.dev.hl.hbm[a.c] with sridle := fld a.v 32 16, mth := mth } ∧
    t.dev.hl.banks = s.dev.hl.banks.map fun b => if b.key / 1024 = a.c.val then { b with cnts := b.cnts.map fun x => (x.1, 0) } else b) ∧
  (∀ s : State, ((∀ b ∈ s.dev.hl.banks, b.rfm = []) → exec .rfm s = .next s) ∧
    (∀ l b l' row r, s.dev.hl.banks = l ++ b :: l' → (∀ x ∈ l, x.rfm = []) → b.rfm = row :: r → s.dev.hl.bank b.key = b → s.dev.fab.unanswered = [] →
      ∃ t, exec .rfm s = .next t ∧ t.units = s.units ∧ t.dev.mem = s.dev.mem ∧
      let c := hbmCtl (b.key / 2048) (b.key / 16 % 128)
      (let at_ := s.dev.physRow (b.key / 2048) (b.key / 16 % 128) (b.key % 16) row
       let cs := b.cnts.map fun x => if x.1 = row then (row, 0) else x
       t.dev.hl.bank b.key = { b with row := none, rfm := r, cnts := cs, refreshed := if at_ = 0 then [1] else [at_ - 1, at_ + 1] }) ∧
      let n := if (s.dev.hl.hbm[c]).nrfm = 0xFFFF then 0xFFFF else (s.dev.hl.hbm[c]).nrfm + 1
      let last := BitVec.ofNat 64 (row * 2 ^ 16 + b.key % 16 * 2 ^ 12 + b.key / 16 % 128)
      t.dev.hl.hbm = s.dev.hl.hbm.set c { s.dev.hl.hbm[c] with alert := true, nrfm := n, last := last }) ∧
    ∃ t, exec .rfm s = .next t ∧ t.units = s.units ∧ ∀ r ∈ t.dev.fab.unanswered, r ∈ s.dev.fab.unanswered) ∧
  (∀ (s : State) (a : BankArg),
    let key := bankKey a.k.val a.pc.val a.bank.val
    let asleep := s.dev.hl.selfRef.contains (128 * a.k.val + a.pc.val)
    (asleep = true → exec (.perBankRefresh a) s = .next s) ∧
    (asleep = false → ∃ t, exec (.perBankRefresh a) s = .next t ∧ t.units = s.units ∧ t.dev.mem = s.dev.mem ∧ t.dev.hl.hbm = s.dev.hl.hbm ∧
      t.dev.hl.bank key = { s.dev.hl.bank key with row := none })) ∧
  (∀ (s : State) (a : PchArg),
    let inPch := fun (b : Bank) => b.key / 16 = a.k.val * 128 + a.pc.val
    let n := 128 * a.k.val + a.pc.val
    let idle := (s.dev.hl.hbm[hbmCtl a.k.val a.pc.val]).sridle = 0
    (∃ t, exec (.refreshWindowStart a) s = .next t ∧ t.units = s.units ∧ t.dev.mem = s.dev.mem ∧
      t.dev.hl.banks = s.dev.hl.banks.map fun b => if inPch b then { b with cnts := b.cnts.map fun x => (x.1, 0) } else b) ∧
    (idle → exec (.selfRefreshEntry a) s = .next s) ∧
    (¬idle → ∃ t, exec (.selfRefreshEntry a) s = .next t ∧ t.units = s.units ∧ t.dev.mem = s.dev.mem ∧
      (∀ x, x ∈ t.dev.hl.selfRef ↔ x = n ∨ x ∈ s.dev.hl.selfRef) ∧
      t.dev.hl.banks = s.dev.hl.banks.map fun b => if inPch b then { b with row := none } else b) ∧
    (s.dev.fab.unanswered = [] → ∃ t, exec (.selfRefreshExit a) s = .next t ∧ t.units = s.units ∧ t.dev.mem = s.dev.mem ∧
      ∀ x, x ∈ t.dev.hl.selfRef ↔ x ≠ n ∧ x ∈ s.dev.hl.selfRef) ∧
    (∃ t, exec (.selfRefreshExit a) s = .next t ∧ t.units = s.units ∧ ∀ r ∈ t.dev.fab.unanswered, r ∈ s.dev.fab.unanswered)) ∧
  (∀ (s : State) (a : RangeArg), exec (.hbmTemperatureRangeChange a) s = .next (s.modDev fun d =>
    { d with hl := { d.hl with hbm := d.hl.hbm.set a.c { d.hl.hbm[a.c] with extended := a.extended } } }))

/-! ### The machine as a whole -/

/-- R40, R43, R161, R371: the row at the head of the agenda is carried out; else, when the bytes at the PC of the present unit are a
bundle that names one slot whose word decodes to an instruction, the step is `exec` of it in the state whose due results have landed,
followed by what the clock does besides: the instance closes when the operation was nullified or took its effect, and the clock
ends when it waits or traps; then the turn passes to the next unit. Any other clock is that of BUNDLE_INSTANCE. The agenda and the
order of the units are the model's choice (log 3). -/
def Obligations.StepRunsTheFetchedInstruction : Prop :=
  (∀ (s : State) (i : Instr) (rest : List Instr), s.agenda = i :: rest → step s = exec i { s with agenda := rest }) ∧
  (∀ (s : State) (h : Header) (hb bs : List Byte) (sl : Fin 12) (w : Word) (i : Instr),
    let b := s.startClock
    let pc := b.me.seq.pc.toNat
    let words := wordsOf (h.len / 8 - 1) bs
    let tr : Word := if h.kind = 2#4 then words.getLastD 0 else 0
    let op := opOf i none none b
    s.agenda = [] → s.dev.att.failed = false → s.me.canIssue = true → b.me.seq.rix = 0 →
    b.me.icBytes pc 8 = some hb → h.raw = BitVec.ofNat 64 (leNat hb) → b.me.icBytes (pc + 8) (h.len - 8) = some bs →
    h.words words = [(sl, w)] → (∀ q : Fin 4, (b.me.seq.sticky[q]).released = true) →
    headerBad (isBrim b.cur) h [(sl, w)] = false → segmentBad b.me h = false → decodeSlot sl w = .ok i →
    (∀ a, i ≠ .ximm a) → (∀ a, i ≠ .xadr a) →
    (∀ t, exec i b = .next t → step s = .next (b.finish t h tr ⟨sl, w, 0, op⟩).rotate) ∧
    (∀ e, exec i b = .fault e → step s = .fault e) ∧ (∀ r, exec i b = .refused r → step s = .refused r)) ∧
  (∀ (s t : State) (h : Header) (tr : Word) (i : Issued),
    (i.op = none → s.finish t h tr i = s.closeInstance t h tr [i]) ∧
    (∀ o, i.op = some o →
      (o.nul = true ∨ (o.wait = none ∧ o.trapOf s.me 0 [] = none) → s.finish t h tr i = s.closeInstance t h tr [i]) ∧
      (∀ c, o.nul = false → o.wait = some c → s.finish t h tr i = t.waitEnd c) ∧
      (∀ a, o.nul = false → o.wait = none → o.trapOf s.me 0 [] = some a → s.finish t h tr i = t.faultClock))) ∧
  (∀ s t : State, s.agenda = [] → s.dev.att.failed = false → s.me.canIssue = false →
    exec (.bundleInstance { u := s.cur }) s = .next t → step s = .next t.rotate) ∧
  (∀ s : State, s.rotate.cur = s.cur + 1 ∧ s.rotate.units = s.units ∧ s.rotate.dev.mem = s.dev.mem ∧ s.rotate.free = s.free ∧
    ∃ rows, s.rotate.agenda = s.agenda ++ rows)

/-- Words that the spec prints, with the instruction that it prints beside each (Tables 7.6, 8.4; the examples of chapters 8–11, 14,
16, 17). -/
def Obligations.DecodeWords : Prop :=
  let h : SHd := ⟨false, ⟨0, false⟩, .none, false⟩
  let v : VHd := ⟨false, 0, .none, false, 0⟩
  let g : Guard := ⟨0, false⟩
  decodeSlot 1 0x0101428600000000 = .ok (.add ⟨h, 5, .reg 5, .reg 6, .w64, false, false⟩) ∧
  decodeSlot 5 0x2000C205001A0000 = .ok (.vfadd ⟨v, 3, .reg 4, .reg 5, .f32, .rne⟩) ∧
  decodeSlot 0 0x0900000010040002 = .ok (.loopp ⟨g, 0, 8, 2, 0, 2⟩) ∧
  decodeSlot 1 0x3200420000001000 = .ok (.cmp ⟨h, 1, .reg 4, .reg 0, .w64, .ne⟩) ∧
  decodeSlot 2 0x0740C28400000000 = .ok (.div ⟨⟨true, g, .one, false⟩, 3, .reg 5, .reg 4, .w64⟩) ∧
  decodeSlot 0 0x020000000C010000 = .ok (.bF ⟨g, 6, 1⟩) ∧
  decodeSlot 7 0x01020000000080E8 = .ok (.vldFeC ⟨⟨0, .none, false, 1, 3, true⟩, 8⟩) ∧
  decodeSlot 8 0x01000000000FF500 = .ok (.tmma ⟨g, 0xFF, true, 0⟩) ∧
  decodeSlot 8 0x0900000000000400 = .ok (.tdrain ⟨g, 0, 0, .raw⟩) ∧
  decodeSlot 10 0x0100000000000028 = .ok (.cpy ⟨g, 0, .weak, 0, 2, true⟩) ∧
  decodeSlot 11 0x0300000000011800 = .ok (.barx ⟨g, 2, 0, 0x1800⟩) ∧
  decodeSlot 11 0x2800000000000104 = .ok (.trcon ⟨g, 0x104⟩) ∧
  decodeSlot 11 0x18000A8000020000 = .ok (.tpost ⟨g, 21, 2⟩) ∧
  decodeSlot 1 0x5100120000000000 = .ok (.movq ⟨false, g, false, 0, .reg 36⟩)

/-- ENCODING AND DECODING AGREE (Tables 7.4, 7.5, 7.12–7.19 and the field tables of chapters 8–11): decoding the word of a
well-formed instruction in its slot gives that instruction back with every operand, and every word that decodes is the encoding
of what it decodes to. -/
def Obligations.EncodeDecode : Prop :=
  ∀ (i : Instr) (sl : Fin 12) (w : Word),
    (i.wf = true → encode i = some (sl, w) → decodeSlot sl w = .ok i) ∧ (decodeSlot sl w = .ok i → encode i = some (sl, w))

/-- The memory keeps its canonical form at every step: its addresses strictly rise and no entry holds what an unlisted address
reads as (the model's form of memory, log 2). -/
def Obligations.MemoryInvariant : Prop :=
  ∀ s t : State, smWf 0 s.dev.mem.cells = true → step s = .next t → smWf 0 t.dev.mem.cells = true

/-- The machine right after reset, at the values of the Reset columns: no unit works, every register and store that has a reset
value holds it, no memory is listed and nothing is due. A column that holds "—" is zero (the model's choice, log 1). -/
def Obligations.ResetState : Prop :=
  let s := State.reset
  s.agenda = [] ∧ s.dev.mem.cells = [] ∧ smWf 0 s.dev.mem.cells = true ∧ s.dev.mem.poison = [] ∧ s.dev.mem.red = [] ∧ s.dev.counters = [] ∧
  (∀ u : UnitId, let x := s.unit u
    x.status = .absent ∧ x.ctx = none ∧ (∀ n, x.regs.rs n = 0) ∧ (∀ n, x.regs.rp n = if n = 0 then BitVec.allOnes 128 else 0) ∧
    x.fp.vctl = 0 ∧ x.trap.tl = 0 ∧ x.trap.pend = [] ∧ x.seq.loops = [] ∧ x.seg.opened = false ∧ x.phase.on = false ∧ x.ck.clk = 0 ∧
    x.ck.scyc = 0 ∧ x.ck.preq = false ∧ x.ck.ectr = 0 ∧ x.ck.pmaxiter = 0x20000 ∧ x.ck.xlbase = 0 ∧ x.pm.per = 0x10000 ∧ x.pm.ctl = 0 ∧
    x.obs.rctl = 0 ∧ x.obs.dthresh = 0xFFFFFFFF ∧ x.cfg.bmap = 0xF00000000 ∧ x.cfg.qosctl = 0xFF ∧ x.st.face = [] ∧ x.st.acc = [] ∧
    (∀ n : Fin 32, x.bars[n] = ⟨0, 0, 0, false, false, false⟩) ∧ (∀ e : EngId, (x.es.eng[e]).q = [] ∧ (x.es.eng[e]).stopped = false) ∧
    (∀ b : Fin 8, x.cfg.dcg[b] = ⟨0, false, 0, 0, 0, 0, 0⟩)) ∧
  s.dev.sched.ctl = 0x4E200020 ∧ s.dev.sched.ents = [] ∧ (∀ p : Fin 16, (s.dev.sched.desc[p]).en = false) ∧
  s.dev.sched.weight.toList = [20, 5, 60, 120, 200, 150, 100, 17500, 17500, 60000, 700, 1500, 2500, 3000, 250, 1000] ∧
  s.dev.card.ctl = 0x0010000000000400 ∧ s.dev.card.moves = [] ∧ s.dev.fab.time = 0x00002710000007D0 ∧ s.dev.fab.retry = 0x0000004000100000 ∧
  s.dev.pow.lim = 2600 ∧ s.dev.pow.dcgcfg = 0x000000400573695F ∧ (∀ k : Fin 8, s.dev.pow.target[k] = 800) ∧
  s.dev.att.status = 0 ∧ (∀ i : Fin 8, s.dev.att.meas[i] = 0) ∧ (∀ c : Fin 16, (s.dev.hl.hbm[c]).sridle = 100 ∧ (s.dev.hl.hbm[c]).mth = 4096) ∧
  s.dev.hl.link = .down

/-! ### Results, traps and stores: what they change and what they leave -/

/-- R85, R89, R167, R185, R186: a result put in flight changes no register, no latch, no store and no other unit; landing, it
writes its one destination in its active lanes and its latch and nothing else; s0 always reads 0 and p0 all ones, and a result for
either lands without an effect on it; of two results that land in one register at once that of the later issue remains. -/
def Obligations.ResultsAndFrames : Prop :=
  (∀ (x : UnitSt) (b : Boost), x.rdS b 0 = 0 ∧ x.rdP b 0 = BitVec.allOnes 128 ∧ x.regs.rs 0 = 0 ∧ x.regs.rp 0 = BitVec.allOnes 128) ∧
  (∀ (s : State) (c : Fin 16) (r : Result),
    let t := s.sends c r
    t.dev = s.dev ∧ t.agenda = s.agenda ∧ t.cur = s.cur ∧ t.free = s.free ∧ (∀ v, v ≠ s.cur → t.unit v = s.unit v) ∧
    t.me = { s.me with seq := t.me.seq, ck := { s.me.ck with ectr := t.me.ck.ectr } } ∧
    t.me.seq = { s.me.seq with nextId := s.me.seq.nextId + 1, flights := t.me.seq.flights, boost := t.me.seq.boost } ∧
    (r.bst ≠ .none → t.me.seq.flights = s.me.seq.flights) ∧
    (r.bst = .none → t.me.seq.boost = s.me.seq.boost ∧ ∃ more, t.me.seq.flights = s.me.seq.flights ++
      ⟨s.me.seq.nextId, r.slot, if r.nw then .none else r.dst, s.me.ck.scyc + r.lat, r.mask, r.val, r.latch⟩ :: more ∧
      (r.flags = 0 → more = []) ∧ ∀ f ∈ more, f.dst = .flags)) ∧
  (∀ (s : State) (u : UnitId) (f : Flight), (∀ n, f.dst ≠ .csr n) →
    let x := s.unit u
    let t := s.land u f
    let y := t.unit u
    t.dev = s.dev ∧ t.agenda = s.agenda ∧ t.cur = s.cur ∧ (∀ v, v ≠ u → t.unit v = s.unit v) ∧
    y = { x with regs := y.regs, lat := y.lat, fp := y.fp, obs := y.obs } ∧
    (∀ n, y.regs.rs n = if f.dst = .s n ∧ n ≠ 0 then f.val.setWidth 64 else x.regs.rs n) ∧
    (∀ n : PReg, ∀ i < 128, (y.regs.rp n).getLsbD i =
      if f.dst = .p n ∧ n ≠ 0 ∧ f.mask.getLsbD i = true then f.val.getLsbD i else (x.regs.rp n).getLsbD i) ∧
    (∀ n : Fin 32, (y.regs.a[n]).val = (match f.dst with
        | .a m => if m = n then f.val.setWidth 32 else (x.regs.a[n]).val
        | .am m md => if m = n then ((x.regs.a[n]).setMode md).val else (x.regs.a[n]).val
        | _ => (x.regs.a[n]).val) ∧ ((∀ md, f.dst ≠ .am n md) → (y.regs.a[n]).md = (x.regs.a[n]).md)) ∧
    (∀ n : Fin 64, ∀ i < 128, lane y.regs.v[n] i = if f.dst = .v n ∧ f.mask.getLsbD i = true then lane f.val i else lane x.regs.v[n] i) ∧
    (∀ n : Fin 16, y.regs.cb[n] = if f.dst = .cb n then f.val.setWidth 64 else x.regs.cb[n]) ∧
    (∀ n : Fin 32, y.regs.cq[n] = if f.dst = .cq n then f.val.setWidth 64 else x.regs.cq[n]) ∧
    (f.dst ≠ .flags → y.fp = x.fp) ∧
    (f.dst = .flags → y.fp = { x.fp with vctl := x.fp.vctl ||| ((f.val.setWidth 32 &&& 0x1F#32) <<< 11) }) ∧
    ((∀ b, f.dst ≠ .trc b) → y.obs = x.obs) ∧
    (f.latch = none ∨ f.mask = 0 → y.lat = x.lat) ∧
    (f.mask ≠ 0 →
      y.lat.ls0 = (if f.latch = some .ls0 then f.val.setWidth 64 else x.lat.ls0) ∧
      y.lat.ls1 = (if f.latch = some .ls1 then f.val.setWidth 64 else x.lat.ls1) ∧
      y.lat.la0 = (if f.latch = some .la0 then f.val.setWidth 32 else x.lat.la0) ∧
      y.lat.la1 = (if f.latch = some .la1 then f.val.setWidth 32 else x.lat.la1) ∧
      ∀ i < 128,
        let new := fun (l : Latch) (old : VecVal) => if f.latch = some l ∧ f.mask.getLsbD i = true then lane f.val i else lane old i
        lane y.lat.lv0 i = new .lv0 x.lat.lv0 ∧ lane y.lat.lv1 i = new .lv1 x.lat.lv1 ∧ lane y.lat.lvm i = new .lvm x.lat.lvm ∧
        lane y.lat.lac i = new .lac x.lat.lac)) ∧
  (∀ (s : State) (u : UnitId) (sc : Nat),
    let q := (s.unit u).seq.flights
    let y := (s.landAll u sc).unit u
    (∀ f ∈ q, ∀ c, f.dst ≠ .csr c) →
    y.seq.flights = (q.filter fun f => sc < f.due) ∧ (s.landAll u sc).dev = s.dev ∧
    (∀ n : Fin 64, (∀ f ∈ q, f.due ≤ sc → f.dst ≠ .s n) → y.regs.rs n = (s.unit u).regs.rs n) ∧
    (∀ (f : Flight) (n : Fin 64), f ∈ q → f.due ≤ sc → f.dst = .s n → n ≠ 0 →
      (∀ g ∈ q, g.due ≤ sc → g.dst = .s n → g ≠ f → g.id < f.id) → y.regs.rs n = f.val.setWidth 64) ∧
    (∀ (f : Flight) (n : Fin 64) (i : Nat), f ∈ q → f.due ≤ sc → f.dst = .v n → i < 128 → f.mask.getLsbD i = true →
      (∀ g ∈ q, g.due ≤ sc → g.dst = .v n → g.mask.getLsbD i = true → g ≠ f → g.id < f.id) → lane y.regs.v[n] i = lane f.val i))

/-- R166: an operation whose guard is false is nullified and changes nothing: no register, no memory, no queue, no trap. -/
def Obligations.NullifiedOperations : Prop :=
  ∀ s : State,
    let off := fun (b : Boost) (g : Guard) (l : List Instr) => s.me.guardOn b g = false → ∀ i ∈ l, exec i s = .next s
    (∀ a : BrCond, off .none a.g [.bT a, .bF a]) ∧ (∀ a : BrJump, off .none a.g [.j a]) ∧
    (∀ a : BrReg, off .none a.g [.jx a, .ret a]) ∧ (∀ a : BrCall, off .none a.g [.call a]) ∧
    (∀ a : BrLoop, off .none a.g [.loop a]) ∧ (∀ a : BrLoopP, off .none a.g [.loopp a]) ∧
    (∀ a : GuardOnly, off .none a.g [.lexit a, .commit a, .squash a, .exit a, .tret a, .scz a, .phaseCommit a, .phaseOn a, .phaseOff a, .cbwait a, .fenceAcq a, .fenceRel a, .fenceFull a, .gangc a, .yield a]) ∧
    (∀ a : BrTrap, off .none a.g [.trapi a]) ∧ (∀ a : BrWait, off .none a.g [.waitn a]) ∧
    (∀ a : SArith, off a.h.bst a.h.g [.add a, .sub a, .mul a]) ∧
    (∀ a : STwin, off a.h.bst a.h.g [.mulh a, .mulhn a, .div a, .divn a, .rem a, .remn a, .min a, .minn a, .max a, .maxn a]) ∧
    (∀ a : SLogic, off a.h.bst a.h.g [.and a, .or a, .xor a, .andn a, .shl a, .shr a, .sar a, .rotl a]) ∧
    (∀ a : SImm, off a.h.bst a.h.g [.andi a, .ori a, .xori a, .addi a]) ∧
    (∀ a : SShI, off a.h.bst a.h.g [.shli a, .shri a, .sari a]) ∧
    (∀ a : SUn, off a.h.bst a.h.g [.clz a, .ctz a, .popc a, .brev a]) ∧ (∀ a : SBext, off a.h.bst a.h.g [.bext a]) ∧
    (∀ a : SBins, off a.h.bst a.h.g [.bins a]) ∧ (∀ a : SExt, off a.h.bst a.h.g [.sext a, .zext a]) ∧
    (∀ a : SMovi, off a.h.bst a.h.g [.movi a]) ∧ (∀ a : SSel, off a.h.bst a.h.g [.sel a]) ∧
    (∀ a : SCmp, off a.h.bst a.h.g [.cmp a]) ∧ (∀ a : SPset, off a.h.bst a.h.g [.pset a]) ∧
    (∀ a : SPlog, off a.h.bst a.h.g [.plog a]) ∧ (∀ a : SFp2, off a.h.bst a.h.g [.fadd a, .fsub a, .fmul a, .fdiv a]) ∧
    (∀ a : SFp3, off a.h.bst a.h.g [.ffma a]) ∧ (∀ a : SFp1, off a.h.bst a.h.g [.fsqrt a]) ∧
    (∀ a : SFmm, off a.h.bst a.h.g [.fmin a, .fmax a]) ∧ (∀ a : SFcmp, off a.h.bst a.h.g [.fcmp a]) ∧
    (∀ a : SFcvt, off a.h.bst a.h.g [.fcvt a]) ∧ (∀ a : SFclass, off a.h.bst a.h.g [.fclass a]) ∧
    (∀ a : SMovCb, off .none a.g [.movcb a]) ∧ (∀ a : SMovQ, off .none a.g [.movq a]) ∧
    (∀ a : SCsrr, off a.h.bst a.h.g [.csrr a]) ∧ (∀ a : SCsrw, off .none a.g [.csrw a]) ∧
    (∀ a : AAdd, off a.h.bst a.h.g [.aadd a]) ∧ (∀ a : AAddi, off a.h.bst a.h.g [.aaddi a]) ∧
    (∀ a : AMov, off a.h.bst a.h.g [.amov a, .aget a]) ∧ (∀ a : AMode, off a.h.bst a.h.g [.amode a]) ∧
    (∀ a : ALds, off a.h.bst a.h.g [.lds a]) ∧ (∀ a : ASts, off .none a.g [.sts a]) ∧
    (∀ a : CbMma, off .none a.g [.tmma a, .tmmas a]) ∧ (∀ a : CbMmaP, off .none a.g [.tmmaPkg a, .tmmaGang a, .tmmaP a]) ∧
    (∀ a : CbSlots, off .none a.g [.tzero a, .tload a]) ∧ (∀ a : CbDrain, off .none a.g [.tdrain a]) ∧
    (∀ a : CbTrn, off .none a.g [.ttrn a]) ∧ (∀ a : CbJoin, off .none a.g [.tjoin a, .tjoinSum a]) ∧
    (∀ a : CbCtl, off .none a.g [.tstop a, .tres a]) ∧ (∀ a : CbProg, off .none a.g [.tprog a]) ∧
    (∀ a : ScW, off .none a.g [.scw a]) ∧ (∀ a : ScS, off .none a.g [.scs a]) ∧ (∀ a : ScSel, off .none a.g [.scsel a]) ∧
    (∀ a : CpCopy, off .none a.g [.cpy a, .cpyx a, .cpyf a]) ∧ (∀ a : CpWeight, off .none a.g [.cpyw a]) ∧
    (∀ a : CpAmo, off .none a.g [.amoAdd a, .amoMin a, .amoMax a, .amoAnd a, .amoOr a, .amoXor a, .amoSwp a, .amoFaddx a]) ∧
    (∀ a : CpCas, off .none a.g [.amoCas a]) ∧ (∀ a : CpFlush, off .none a.g [.flushx a]) ∧
    (∀ a : CpPlain, off .none a.g [.pfh a, .migr a]) ∧ (∀ a : CpQ, off .none a.g [.cpq a]) ∧
    (∀ a : CpMask, off .none a.g [.cpstop a, .cpres a, .fenceq a, .sldrain a]) ∧ (∀ a : SyBari, off .none a.g [.bari a]) ∧
    (∀ a : SyBara, off .none a.g [.bara a]) ∧ (∀ a : SyBarx, off .none a.g [.barx a]) ∧ (∀ a : SyBarw, off .none a.g [.barw a]) ∧
    (∀ a : SyPost, off .none a.g [.tpost a]) ∧ (∀ a : SyEvinc, off .none a.g [.evinc a]) ∧
    (∀ a : SyEvwait, off .none a.g [.evwait a]) ∧ (∀ a : SyTlbi, off .none a.g [.tlbi a]) ∧
    (∀ a : SyTrc, off .none a.g [.trcon a, .trcoff a]) ∧ (∀ a : SyPmrd, off .none a.g [.pmrd a]) ∧
    (∀ a : SyEnrd, off .none a.g [.enrd a])

/-- R368, R374: a trap taken at level n enters level n + 1: cause, return point and value of that level, PC at its vector, s0–s63 stored
to its frame, the results in flight, sticky states, boosted operations, cq24–cq31 and the pending transfer held with the level and cleared,
the latches cleared, twelve stall clocks; every other register keeps its value. A third level kills with KILL_NEST, and a context
without a west reservation dies of the cause itself.
R376: the return from a trap at level n restores s0–s63 from the frame and what the level holds, results with their remaining
latency, cq24–cq31, sticky states, boosted operations and the pending transfer; it goes on at the saved PC and instance, or after that
bundle where SKIP says so, and clears the latches. -/
def Obligations.TakingAndReturningFromATrap : Prop :=
  (∀ (s : State) (u : UnitId) (a : TrapArg),
    let x := s.unit u
    let n := x.trap.tl.toNat + 1
    let t := s.takeTrap u a
    let y := t.unit u
    (2 < n → t = s.killUnit u 0x60) ∧ (n ≤ 2 → x.wrs = 0 → t = s.killUnit u a.code) ∧
    (n ≤ 2 → x.wrs ≠ 0 →
      let i : Fin 2 := Fin.ofNat 2 (n - 1)
      let c := y.trap.cause[i]
      let h := y.trap.hold[i]
      let saved := s.scrWrite u (bytesAt (x.frame n) ((List.range 64).flatMap fun k => leBytes 8 (x.regs.rs (Fin.ofNat 64 k)).toNat))
      y.trap.tl.toNat = n ∧ y.trap.epc[i] = x.seq.pc ∧ y.trap.tval[i] = a.tval ∧ y.trap.pend = x.trap.pend ∧
      fld c 0 8 = a.code ∧ (fld c 8 4).toNat = a.slot % 16 ∧ fld c 12 6 = x.seq.rix ∧ (fld c 18 3).toNat = x.seq.loops.length % 8 ∧
      c.getLsbD 21 = a.deferred ∧ c.getLsbD 22 = a.bst ∧ c.getLsbD 23 = (a.skip || x.seq.skip) ∧
      (∀ j : Fin 2, j ≠ i → y.trap.cause[j] = x.trap.cause[j] ∧ y.trap.epc[j] = x.trap.epc[j] ∧ y.trap.tval[j] = x.trap.tval[j] ∧
        y.trap.hold[j] = x.trap.hold[j]) ∧
      y.seq.pc = BitVec.ofNat 56 (x.entryVa + 16 * n) ∧ y.seq.rix = 0 ∧ y.seq.br = none ∧ y.seq.skip = false ∧ y.seq.flights = [] ∧
      y.seq.boost = [] ∧ (∀ q : Fin 4, (y.seq.sticky[q]).released = true) ∧ y.seq.stall = 12 ∧ y.seq.loops = x.seq.loops ∧ y.lat = {} ∧
      h.flights = x.seq.flights.map (fun f => { f with due := f.due - x.ck.scyc }) ∧ h.sticky = x.seq.sticky ∧ h.br = x.seq.br ∧
      h.boost = x.seq.boost.map (fun b => { b with fl := { b.fl with due := b.fl.due - x.ck.scyc } }) ∧
      (∀ k : Fin 8, h.cqHi[k] = x.regs.cq[24 + k.val]) ∧ (∀ k : Fin 32, y.regs.cq[k] = if 24 ≤ k.val then 0 else x.regs.cq[k]) ∧
      y.regs.s = x.regs.s ∧ y.regs.a = x.regs.a ∧ y.regs.p = x.regs.p ∧ y.regs.v = x.regs.v ∧ y.regs.cb = x.regs.cb ∧
      y.fp = x.fp ∧ y.bars = x.bars ∧ y.cube = x.cube ∧ y.es = { x.es.dropTlbi with fetchMiss := none } ∧ y.phase = x.phase ∧ y.ck = x.ck ∧ y.status = x.status ∧
      y.st = (saved.unit u).st ∧ t.dev = saved.dev ∧ ∀ v, v ≠ u → t.unit v = s.unit v)) ∧
  (∀ (s : State) (u : UnitId) (n : Nat), n = 1 ∨ n = 2 →
    let x := s.unit u
    let t := s.trapReturn u n
    let y := t.unit u
    let i : Fin 2 := Fin.ofNat 2 (n - 1)
    let h := x.trap.hold[i]
    let c := x.trap.cause[i]
    let frame := s.scrRead u (x.frame n) 512
    t.dev = s.dev ∧ (∀ v, v ≠ u → t.unit v = s.unit v) ∧ y.trap.tl.toNat = n - 1 ∧ y.seq.pc = x.trap.epc[i] ∧
    y.seq.rix = (if c.getLsbD 23 then 0 else fld c 12 6) ∧ y.seq.skip = c.getLsbD 23 ∧ y.seq.br = h.br ∧ y.seq.sticky = h.sticky ∧
    y.seq.flights = x.seq.flights ++ h.flights.map (fun f => { f with due := f.due + x.ck.scyc }) ∧
    y.seq.boost = h.boost.map (fun b => { b with fl := { b.fl with due := b.fl.due + x.ck.scyc } }) ∧ y.seq.loops = x.seq.loops ∧
    y.seq.stall = 0 ∧ y.seq.runDown = false ∧ y.lat = {} ∧
    (∀ k : Fin 64, y.regs.s[k] = BitVec.ofNat 64 (leNat ((frame.drop (8 * k.val)).take 8))) ∧
    (∀ k : Fin 32, (y.regs.cq[k]) = if hk : 24 ≤ k.val then h.cqHi[k.val - 24] else x.regs.cq[k]) ∧
    y.regs.a = x.regs.a ∧ y.regs.p = x.regs.p ∧ y.regs.v = x.regs.v ∧ y.regs.cb = x.regs.cb ∧ y.st = x.st ∧ y.cube = x.cube ∧ y.es = x.es ∧
    y.bars = x.bars ∧ y.ck = x.ck ∧ y.trap.cause = x.trap.cause ∧ y.trap.pend = x.trap.pend)

/-- R97, R99, R114, R233, R419: a write of memory gives its bytes to its addresses and changes no other, clears the poison of the blocks
that it covers, and keeps the canonical form; a row that has been retired keeps what it holds. A store to face scratch writes exactly its
bytes, the last of two on one address remaining, leaves other granules alone, gives the full/empty bits of its granules the value of its
form, and unpoisons the granules that it covers; a store that a VM or STS operation has queued does exactly that, and besides keeps
what an earlier schedule cycle still reads (R188), and stands in what copies see of a granule that a running TDRAIN has written (R132). -/
def Obligations.StoresToScratchAndMemory : Prop :=
  (∀ (d : Dev) (pa : Nat) (bs : List Byte), smWf 0 d.mem.cells = true → d.mem.red = [] →
    let t := d.write pa bs
    smWf 0 t.mem.cells = true ∧ t = { d with mem := t.mem } ∧ t.mem.red = [] ∧ t.mem.retired = d.mem.retired ∧
    (∀ a, t.byte a = if pa ≤ a ∧ a < pa + bs.length ∧ d.retiredAt a = false then bs.getD (a - pa) 0 else d.byte a) ∧
    (∀ k, k ∈ t.mem.poison ↔ k ∈ d.mem.poison ∧ ¬(pa ≤ 64 * k ∧ 64 * k + 64 ≤ pa + bs.length)) ∧
    ∀ a n, d.bytes a n = (List.range n).map fun i => d.byte (a + i)) ∧
  (∀ (st : Stores) (bytes : List (Nat × Byte)) (fe : Option Bool), smWf {} st.face = true →
    let t := scrStore st bytes fe
    let covered := fun a => ∀ j < 16, ∃ x ∈ bytes, x.1 = a / 16 * 16 + j
    let touched := fun a => ∃ x ∈ bytes, x.1 / 16 = a / 16
    t = { st with face := t.face } ∧ smWf {} t.face = true ∧
    ∀ a,
      ((granAt t a).poison = true ↔ (granAt st a).poison = true ∧ ¬covered a) ∧
      (∀ b, touched a → fe = some b → (granAt t a).full = b) ∧
      (¬touched a ∨ fe = none → (granAt t a).full = (granAt st a).full) ∧
      ((∀ x ∈ bytes, x.1 ≠ a) → scrByte t a = scrByte st a) ∧
      (∀ l b r, bytes = l ++ (a, b) :: r → (∀ x ∈ r, x.1 ≠ a) → (granAt t a).poison = false → scrByte t a = b)) ∧
  (∀ (s : State) (u : UnitId) (at_ sc : Nat) (lvl : BitVec 2) (bytes : List (Nat × Byte)) (gs : List Nat),
    let run := fun fe => s.perform u { at_ := at_, sc := sc, lvl := lvl, op := .store bytes fe gs }
    let puts := fun (st : Stores) (q : List Undo) (h : List (Nat × Nat × Gran)) =>
      s.modUnit u fun x => { x with st := st, seq := { x.seq with undo := q }, cube := { x.cube with hidden := h } }
    (u ≠ brim → ∃ q h, run none = puts (scrStore (s.unit u).st bytes none) q h ∧ ((s.unit u).cube.hidden = [] → h = [])) ∧
    (∀ b, u ≠ brim → smWf {} (s.unit u).st.face = true → ∃ st q h, run (some b) = puts st q h ∧ ((s.unit u).cube.hidden = [] → h = []) ∧
      (∀ a, scrByte st a = scrByte (scrStore (s.unit u).st bytes none) a) ∧
      ∀ g, (smGet {} st.face g).full = if g ∈ gs then b else (smGet {} (s.unit u).st.face g).full) ∧
    (∀ fe, u = brim → smWf 0 s.dev.mem.cells = true → s.dev.mem.red = [] → s.dev.mem.retired = [] →
      (∀ v, v ≠ u → (run fe).unit v = s.unit v) ∧ (∃ q, (run fe).unit u = { s.unit u with seq := { (s.unit u).seq with undo := q } }) ∧ ∀ a,
        ((∀ x ∈ bytes, brimPa x.1 ≠ a) → (run fe).dev.byte a = s.dev.byte a) ∧
        (∀ l o b r, bytes = l ++ (o, b) :: r → brimPa o = a → (∀ x ∈ r, brimPa x.1 ≠ a) → (run fe).dev.byte a = b)))
end

