-- ==== Sys2Proof/Laws/State.lean ====
section
/-! SUPPORT. One lemma for each field and each update of the state, so that no proof unfolds a record update. -/
namespace Sys2Proof.Machine

@[simp] theorem State.unit_setUnit_self (s : State) (u : UnitId) (x : UnitSt) : (s.setUnit u x).unit u = x := by
  simp [State.unit, State.setUnit]
@[simp] theorem State.unit_setUnit_ne (s : State) {u v : UnitId} (x : UnitSt) (h : v ≠ u) :
    (s.setUnit u x).unit v = s.unit v := by
  have : u.val ≠ v.val := fun e => h (Fin.ext e.symm)
  simp [State.unit, State.setUnit, this]
@[simp] theorem State.dev_setUnit (s : State) (u : UnitId) (x : UnitSt) : (s.setUnit u x).dev = s.dev := rfl
@[simp] theorem State.agenda_setUnit (s : State) (u : UnitId) (x : UnitSt) : (s.setUnit u x).agenda = s.agenda := rfl
@[simp] theorem State.cur_setUnit (s : State) (u : UnitId) (x : UnitSt) : (s.setUnit u x).cur = s.cur := rfl
@[simp] theorem State.free_setUnit (s : State) (u : UnitId) (x : UnitSt) : (s.setUnit u x).free = s.free := rfl

@[simp] theorem State.unit_modUnit_self (s : State) (u : UnitId) (f : UnitSt → UnitSt) :
    (s.modUnit u f).unit u = f (s.unit u) := by simp [State.modUnit]
@[simp] theorem State.unit_modUnit_ne (s : State) {u v : UnitId} (f : UnitSt → UnitSt) (h : v ≠ u) :
    (s.modUnit u f).unit v = s.unit v := by simp [State.modUnit, h]
@[simp] theorem State.dev_modUnit (s : State) (u : UnitId) (f : UnitSt → UnitSt) : (s.modUnit u f).dev = s.dev := rfl
@[simp] theorem State.agenda_modUnit (s : State) (u : UnitId) (f : UnitSt → UnitSt) : (s.modUnit u f).agenda = s.agenda := rfl
@[simp] theorem State.cur_modUnit (s : State) (u : UnitId) (f : UnitSt → UnitSt) : (s.modUnit u f).cur = s.cur := rfl
@[simp] theorem State.free_modUnit (s : State) (u : UnitId) (f : UnitSt → UnitSt) : (s.modUnit u f).free = s.free := rfl

@[simp] theorem State.me_modMe (s : State) (f : UnitSt → UnitSt) : (s.modMe f).me = f s.me := by
  simp [State.modMe, State.me]
@[simp] theorem State.dev_modMe (s : State) (f : UnitSt → UnitSt) : (s.modMe f).dev = s.dev := rfl
@[simp] theorem State.agenda_modMe (s : State) (f : UnitSt → UnitSt) : (s.modMe f).agenda = s.agenda := rfl
@[simp] theorem State.cur_modMe (s : State) (f : UnitSt → UnitSt) : (s.modMe f).cur = s.cur := rfl
@[simp] theorem State.free_modMe (s : State) (f : UnitSt → UnitSt) : (s.modMe f).free = s.free := rfl
@[simp] theorem State.unit_modMe_ne (s : State) {v : UnitId} (f : UnitSt → UnitSt) (h : v ≠ s.cur) :
    (s.modMe f).unit v = s.unit v := by simp [State.modMe, h]

@[simp] theorem State.unit_modDev (s : State) (f : Dev → Dev) (u : UnitId) : (s.modDev f).unit u = s.unit u := rfl
@[simp] theorem State.me_modDev (s : State) (f : Dev → Dev) : (s.modDev f).me = s.me := rfl
@[simp] theorem State.dev_modDev (s : State) (f : Dev → Dev) : (s.modDev f).dev = f s.dev := rfl
@[simp] theorem State.agenda_modDev (s : State) (f : Dev → Dev) : (s.modDev f).agenda = s.agenda := rfl
@[simp] theorem State.cur_modDev (s : State) (f : Dev → Dev) : (s.modDev f).cur = s.cur := rfl
@[simp] theorem State.free_modDev (s : State) (f : Dev → Dev) : (s.modDev f).free = s.free := rfl

theorem State.modUnit_modUnit (s : State) (u : UnitId) (f g : UnitSt → UnitSt) :
    (s.modUnit u f).modUnit u g = s.modUnit u (g ∘ f) := by
  simp only [State.modUnit, State.unit_setUnit_self, Function.comp]
  simp [State.setUnit]
theorem State.setUnit_unit (s : State) (u : UnitId) : s.setUnit u (s.unit u) = s := by
  simp [State.setUnit, State.unit]
theorem State.modUnit_id (s : State) (u : UnitId) : s.modUnit u id = s := by
  simp [State.modUnit, State.setUnit, State.unit]
theorem State.ext_units {s t : State} (hu : ∀ u, s.unit u = t.unit u) (hd : s.dev = t.dev) (ha : s.agenda = t.agenda)
    (hc : s.cur = t.cur) (hf : s.free = t.free) : s = t := by
  cases s with | mk su sd sa sc sf => cases t with | mk tu td ta tc tf =>
  simp only [State.unit] at *
  have : su = tu := by
    apply Vector.ext
    intro i hi
    exact hu ⟨i, hi⟩
  subst this hd ha hc hf
  rfl

/-! ### Registers (R85) -/
@[simp] theorem Regs.rs_ws_zero (r : Regs) (v : Word) : (r.ws 0 v) = r := rfl
@[simp] theorem Regs.rs_ws_self (r : Regs) {n : Fin 64} (h : n ≠ 0) (v : Word) : (r.ws n v).rs n = v := by
  simp [Regs.ws, Regs.rs, h]
@[simp] theorem Regs.rs_ws_ne (r : Regs) {n m : Fin 64} (h : m ≠ n) (v : Word) : (r.ws n v).rs m = r.rs m := by
  unfold Regs.ws Regs.rs
  split
  · rfl
  · have : n.val ≠ m.val := fun e => h (Fin.ext e.symm)
    split <;> simp [this]
theorem Regs.ws_frame (r : Regs) (n : Fin 64) (v : Word) :
    (r.ws n v).a = r.a ∧ (r.ws n v).p = r.p ∧ (r.ws n v).v = r.v ∧ (r.ws n v).cb = r.cb ∧ (r.ws n v).cq = r.cq := by
  unfold Regs.ws; split <;> simp
theorem Regs.wp_frame (r : Regs) (n : PReg) (m v : Mask) :
    (r.wp n m v).s = r.s ∧ (r.wp n m v).a = r.a ∧ (r.wp n m v).v = r.v ∧ (r.wp n m v).cb = r.cb ∧ (r.wp n m v).cq = r.cq := by
  unfold Regs.wp; split <;> simp

end Sys2Proof.Machine
end

