-- ==== Sys2Proof/Laws/Issue.lean ====
section
/-! SUPPORT. What the issue of one slot operation can do (R43, R166, R371): the four cases of `runOp`, when an
operation meets no trap, and what putting a result in flight and charging energy leave alone. -/
namespace Sys2Proof.Machine

theorem runOp_nullified {o : Op} (s : State) (h : o.nul = true) : runOp o s = .next s := by simp [runOp, h]
theorem runOp_waits {o : Op} (s : State) {c n : Nat} (hn : o.nul = false) (hw : o.wait = some (c, n)) :
    runOp o s = .next ((o.onWait s).holdFor c) := by simp [runOp, hn, hw]
theorem runOp_traps {o : Op} (s : State) {a : TrapArg} (hn : o.nul = false) (hw : o.wait = none)
    (ht : o.trapOf s.me 0 [] = some a) : runOp o s = .next ((o.onFault s).takeTrap s.cur a) := by simp [runOp, hn, hw, ht]
theorem runOp_performs {o : Op} (s : State) (hn : o.nul = false) (hw : o.wait = none) (ht : o.trapOf s.me 0 [] = none) :
    runOp o s = .next (o.run s) := by simp [runOp, hn, hw, ht]
/-- Everything that the issue of an operation can do. -/
theorem runOp_cases {o : Op} {s t : State} (h : runOp o s = .next t) :
    (o.nul = true ∧ t = s) ∨ (o.nul = false ∧ ∃ c n, o.wait = some (c, n) ∧ t = (o.onWait s).holdFor c) ∨
    (o.nul = false ∧ o.wait = none ∧ ∃ a, o.trapOf s.me 0 [] = some a ∧ t = (o.onFault s).takeTrap s.cur a) ∨
    (o.nul = false ∧ o.wait = none ∧ o.trapOf s.me 0 [] = none ∧ t = o.run s) := by
  unfold runOp at h
  split at h
  · rename_i hn; injection h with h; exact .inl ⟨hn, h.symm⟩
  · rename_i hn
    have hn : o.nul = false := by simpa using hn
    split at h
    · rename_i c n hw; injection h with h; exact .inr (.inl ⟨hn, c, n, hw, h.symm⟩)
    · rename_i hw
      split at h
      · rename_i a ha; injection h with h; exact .inr (.inr (.inl ⟨hn, hw, a, ha, h.symm⟩))
      · rename_i ha; injection h with h; exact .inr (.inr (.inr ⟨hn, hw, ha, h.symm⟩))
/-- The issue of an operation always answers a next state. -/
theorem runOp_next (o : Op) (s : State) : ∃ t, runOp o s = .next t := by
  unfold runOp
  split
  · exact ⟨_, rfl⟩
  · split
    · exact ⟨_, rfl⟩
    · split <;> exact ⟨_, rfl⟩

/-- No trap: no cause of its own, no queue to enter, and room at its boost level. -/
theorem Op.trapOf_none {o : Op} {x : UnitSt} (hf : o.fault = none) (he : o.enq = []) (hl : o.late = none)
    (hb : ∀ l, o.lvl = some l → x.boostCount l < 8) : o.trapOf x 0 [] = none := by
  unfold Op.trapOf UnitSt.queueFull
  rw [hf, he, hl]
  cases h : o.lvl with
  | none => simp
  | some l =>
    have := hb l h
    simp; omega
/-- The trap of an operation whose own fault is a cause. -/
theorem Op.trapOf_fault {o : Op} {x : UnitSt} {c : BitVec 8} {v : Word} (hf : o.fault = some (c, v)) (hb : o.bstFault = none)
    (more : Nat) (pre : List EngId) : o.trapOf x more pre = some { code := c, slot := o.slot.val, tval := v } := by
  simp [Op.trapOf, hf, hb]
/-- A performed operation without wait and without fault takes its effect. -/
theorem runOp_effect {o : Op} {s : State} {b : Boost} {g : Guard} (hp : s.performs b g) (hn : o.nul = !s.me.guardOn b g)
    (hw : o.wait = none) (hf : o.fault = none) (he : o.enq = []) (hl : o.late = none) (hv : o.lvl = Boost.lvl b) :
    runOp o s = .next (o.run s) :=
  runOp_performs s (by simp [hn, hp.1]) hw (Op.trapOf_none hf he hl (hv ▸ hp.2))

/-! ### What a result in flight leaves alone -/
theorem UnitSt.emit_frame (x : UnitSt) (r : Result) :
    ∃ fl bo, x.emit r = { x with seq := { x.seq with nextId := x.seq.nextId + 1, flights := fl, boost := bo } } := by
  unfold UnitSt.emit
  cases Boost.lvl r.bst <;> exact ⟨_, _, rfl⟩
@[simp] theorem UnitSt.emit_regs (x : UnitSt) (r : Result) : (x.emit r).regs = x.regs := by
  obtain ⟨_, _, h⟩ := x.emit_frame r; rw [h]
@[simp] theorem UnitSt.emit_lat (x : UnitSt) (r : Result) : (x.emit r).lat = x.lat := by
  obtain ⟨_, _, h⟩ := x.emit_frame r; rw [h]
@[simp] theorem UnitSt.emit_fp (x : UnitSt) (r : Result) : (x.emit r).fp = x.fp := by
  obtain ⟨_, _, h⟩ := x.emit_frame r; rw [h]
@[simp] theorem UnitSt.emit_ck (x : UnitSt) (r : Result) : (x.emit r).ck = x.ck := by
  obtain ⟨_, _, h⟩ := x.emit_frame r; rw [h]
@[simp] theorem UnitSt.emit_st (x : UnitSt) (r : Result) : (x.emit r).st = x.st := by
  obtain ⟨_, _, h⟩ := x.emit_frame r; rw [h]
@[simp] theorem UnitSt.emit_trap (x : UnitSt) (r : Result) : (x.emit r).trap = x.trap := by
  obtain ⟨_, _, h⟩ := x.emit_frame r; rw [h]
@[simp] theorem UnitSt.emit_ctx (x : UnitSt) (r : Result) : (x.emit r).ctx = x.ctx := by
  obtain ⟨_, _, h⟩ := x.emit_frame r; rw [h]
/-- An unboosted result with no flags is one more flight. -/
theorem UnitSt.emit_flights (x : UnitSt) (r : Result) (hb : r.bst = .none) (hf : r.flags = 0) :
    (x.emit r).seq.flights = x.seq.flights ++
      [{ id := x.seq.nextId, slot := r.slot, dst := if r.nw then .none else r.dst, due := x.ck.scyc + r.lat, mask := r.mask,
         val := r.val, latch := r.latch }] := by
  simp [UnitSt.emit, hb, Boost.lvl, hf]
@[simp] theorem State.dev_emit (s : State) (r : Result) : (s.emit r).dev = s.dev := rfl
@[simp] theorem State.me_emit (s : State) (r : Result) : (s.emit r).me = s.me.emit r := by simp [State.emit]
@[simp] theorem State.cur_emit (s : State) (r : Result) : (s.emit r).cur = s.cur := rfl
/-- A charge changes nothing but ECTR of its unit. -/
theorem State.charge_frame (s : State) (u : UnitId) (c : Fin 16) (n : Nat) :
    ∃ e : Word, s.charge u c n = s.modUnit u fun x => { x with ck := { x.ck with ectr := e } } := by
  unfold State.charge
  cases h : (s.unit u).ctx with
  | none =>
    have e : ({ s.unit u with ck := { (s.unit u).ck with ectr := (s.unit u).ck.ectr } } : UnitSt) = s.unit u := rfl
    refine ⟨(s.unit u).ck.ectr, ?_⟩
    show s = s.setUnit u { s.unit u with ck := { (s.unit u).ck with ectr := (s.unit u).ck.ectr } }
    rw [e, s.setUnit_unit]
  | some _ =>
    refine ⟨addEnergy (s.unit u).ck.ectr (n * (s.dev.sched.weight[c]).toNat), ?_⟩
    simp only [State.modUnit]
@[simp] theorem State.dev_charge (s : State) (u : UnitId) (c : Fin 16) (n : Nat) : (s.charge u c n).dev = s.dev := by
  obtain ⟨e, h⟩ := s.charge_frame u c n; rw [h]; rfl

end Sys2Proof.Machine
end

