-- ==== Sys2Proof/Laws/Int.lean ====
section
/-! SUPPORT. The integer arithmetic of the S slots as bit vectors of the element width (R205, R206). -/
namespace Sys2Proof.Machine

theorem signedOf_eq_toInt (w n : Nat) : signedOf w n = (BitVec.ofNat w n).toInt := by
  simp only [signedOf, BitVec.toInt, BitVec.toNat_ofNat]
theorem wrapNat_eq_ofInt (w : Nat) (r : Int) : wrapNat w r = (BitVec.ofInt w r).toNat := by
  simp [wrapNat, BitVec.toNat_ofInt]
theorem readInt_eq (w : Nat) (u : Bool) (v : Word) : readInt w u v.toNat = operandInt u (v.setWidth w) := by
  cases u
  · have h := signedOf_eq_toInt w v.toNat
    rw [BitVec.ofNat_toNat] at h
    exact h
  · simp [readInt, operandInt]
theorem ofInt_operandInt (u : Bool) {w : Nat} (x : BitVec w) : BitVec.ofInt w (operandInt u x) = x := by
  cases u <;> simp [operandInt]
theorem satInt_eq (w : Nat) (u : Bool) (r : Int) : satInt w u r = clampInt u w r := by
  have h : intMin w u ≤ intMax w u := by
    have h1 : (0 : Int) < ((2 ^ w : Nat) : Int) := by positivity
    have h2 : (0 : Int) < ((2 ^ (w - 1) : Nat) : Int) := by positivity
    cases u <;> simp only [intMin, intMax, if_true, Bool.false_eq_true, if_false] <;> omega
  unfold satInt clampInt
  split
  · omega
  · split <;> omega
/-- A w-bit result extended to 64 bits. -/
theorem extW_eq (w : Nat) (u : Bool) (x : BitVec w) (hw : w ≤ 64) : extW w u x.toNat = (extend64 u x).toNat := by
  cases u
  · simp only [extW, extend64, Bool.false_eq_true, if_false, signedOf_eq_toInt, wrapNat_eq_ofInt, BitVec.ofNat_toNat,
      BitVec.setWidth_eq]
    rfl
  · have : 2 ^ w ≤ 2 ^ 64 := Nat.pow_le_pow_right (by omega) hw
    have h := x.isLt
    simp only [extW, extend64, if_true, BitVec.toNat_setWidth]
    rw [Nat.mod_eq_of_lt h, Nat.mod_eq_of_lt (lt_of_lt_of_le h this)]
theorem extW_mod (w : Nat) (u : Bool) (n : Nat) (hw : w ≤ 64) : extW w u n = (extend64 u (BitVec.ofNat w n)).toNat := by
  rw [← extW_eq w u _ hw]
  cases u <;> simp [extW, signedOf]
theorem wBits_le (w : IWidth) : wBits w ≤ 64 := by cases w <;> decide
theorem wBits_pos (w : IWidth) : 0 < wBits w := by cases w <;> decide
theorem wBits_dvd (w : IWidth) : wBits w ∣ 64 := by cases w <;> decide
theorem extW_ofInt (w : IWidth) (u : Bool) (r : Int) :
    extW (wBits w) u (wrapNat (wBits w) r) = (extend64 u (BitVec.ofInt (wBits w) r)).toNat := by
  rw [wrapNat_eq_ofInt, extW_eq _ _ _ (wBits_le w)]
theorem ofNat_toNat_4096 (v : Word) : BitVec.ofNat 4096 v.toNat = v.setWidth 4096 :=
  BitVec.ofNat_toNat 4096 v

theorem ofNat_shlN (w n d : Nat) : BitVec.ofNat w (shlN w n d) = BitVec.ofNat w n <<< d := by
  apply BitVec.eq_of_toNat_eq
  rw [BitVec.toNat_shiftLeft, BitVec.toNat_ofNat, BitVec.toNat_ofNat, Nat.shiftLeft_eq, Nat.mod_mul_mod]
  unfold shlN
  split
  · rename_i h
    obtain ⟨k, rfl⟩ := Nat.exists_eq_add_of_le h
    rw [Nat.pow_add, Nat.mul_left_comm, Nat.mul_mod_right, Nat.zero_mod]
  · exact Nat.mod_mod _ _
theorem ofNat_shrN (w n d : Nat) : BitVec.ofNat w (shrN w n d) = BitVec.ofNat w n >>> d := by
  have hl : n % 2 ^ w < 2 ^ w := Nat.mod_lt _ (Nat.two_pow_pos _)
  apply BitVec.eq_of_toNat_eq
  rw [BitVec.toNat_ushiftRight, BitVec.toNat_ofNat, BitVec.toNat_ofNat, Nat.shiftRight_eq_div_pow]
  unfold shrN
  split
  · rename_i h
    rw [Nat.zero_mod, Nat.div_eq_of_lt (lt_of_lt_of_le hl (Nat.pow_le_pow_right (by omega) h))]
  · exact Nat.mod_eq_of_lt (lt_of_le_of_lt (Nat.div_le_self _ _) hl)
theorem toInt_lt_zero_div {w d : Nat} (x : BitVec w) (h : w ≤ d) : x.toInt / (2 ^ d : Nat) = if x.toInt < 0 then -1 else 0 := by
  have h1 := BitVec.two_mul_toInt_lt (x := x)
  have h2 := BitVec.le_two_mul_toInt (x := x)
  have h3 : (2 ^ w : Nat) ≤ 2 ^ d := Nat.pow_le_pow_right (by omega) h
  have h4 : ((2 ^ w : Nat) : Int) ≤ ((2 ^ d : Nat) : Int) := by exact_mod_cast h3
  push_cast at *
  have h5 : (0 : Int) < 2 ^ d := by positivity
  split
  · rw [Int.ediv_eq_iff_of_pos h5]; omega
  · rw [Int.ediv_eq_iff_of_pos h5]; omega
theorem ofNat_wrapNat (w : Nat) (r : Int) : BitVec.ofNat w (wrapNat w r) = BitVec.ofInt w r := by
  rw [wrapNat_eq_ofInt, BitVec.ofNat_toNat, BitVec.setWidth_eq]
theorem ofNat_sarN (w n d : Nat) : BitVec.ofNat w (sarN w n d) = (BitVec.ofNat w n).sshiftRight d := by
  have hd : (if w ≤ d then (if (BitVec.ofNat w n).toInt < 0 then -1 else 0) else (BitVec.ofNat w n).toInt / (2 ^ d : Nat)) =
      (BitVec.ofNat w n).toInt / (2 ^ d : Nat) := by
    split
    · rename_i h; exact (toInt_lt_zero_div _ h).symm
    · rfl
  simp only [sarN, signedOf_eq_toInt]
  rw [hd, ofNat_wrapNat, BitVec.sshiftRight, Int.shiftRight_eq_div_pow]
theorem ofNat_rotlN (w n d : Nat) (hw : 0 < w) : BitVec.ofNat w (rotlN w n d) = (BitVec.ofNat w n).rotateLeft d := by
  apply BitVec.eq_of_toNat_eq
  have hs : rotlN w n d = ((BitVec.ofNat w n).rotateLeft d).toNat := by
    rw [BitVec.toNat_rotateLeft, BitVec.toNat_ofNat]
    simp only [rotlN]
    have hl : n % 2 ^ w < 2 ^ w := Nat.mod_lt _ (Nat.two_pow_pos _)
    have hk : d % w < w := Nat.mod_lt _ hw
    generalize n % 2 ^ w = x at hl ⊢
    generalize d % w = k at hk ⊢
    have hp : 2 ^ w = 2 ^ (w - k) * 2 ^ k := by rw [← Nat.pow_add]; congr 1; omega
    have hr : x >>> (w - k) < 2 ^ k := by
      rw [Nat.shiftRight_eq_div_pow]; apply Nat.div_lt_of_lt_mul; rw [← hp]; exact hl
    have hm : x * 2 ^ k % 2 ^ w = (x % 2 ^ (w - k)) <<< k := by
      rw [Nat.shiftLeft_eq, ← Nat.mul_mod_mul_right, ← hp]
    rw [Nat.shiftLeft_eq, hm, ← Nat.shiftLeft_add_eq_or_of_lt hr, Nat.shiftRight_eq_div_pow]
  rw [BitVec.toNat_ofNat, hs, Nat.mod_eq_of_lt (BitVec.isLt _)]
theorem readInt_toNat (w : Nat) (u : Bool) (x : BitVec w) : readInt w u x.toNat = operandInt u x := by
  cases u
  · simp only [readInt, operandInt, Bool.false_eq_true, if_false]
    rw [signedOf_eq_toInt, BitVec.ofNat_toNat, BitVec.setWidth_eq]
  · simp only [readInt, operandInt, if_true]
    rw [Nat.mod_eq_of_lt x.isLt]
theorem elt_eq (w : Nat) (v : VecVal) (e : Nat) : elt w v e = (el w v e).toNat := rfl

/-! ### Numbers from bits -/
theorem natOfBits_succ (k : Nat) (f : Nat → Bool) : natOfBits (k + 1) f = natOfBits k f + if f k then 2 ^ k else 0 := by
  simp only [natOfBits, List.range_succ, List.foldl_append, List.foldl_cons, List.foldl_nil]
  split <;> simp
theorem natOfBits_lt (k : Nat) (f : Nat → Bool) : natOfBits k f < 2 ^ k := by
  induction k with
  | zero => simp [natOfBits]
  | succ k ih => rw [natOfBits_succ, Nat.pow_succ]; split <;> omega
theorem testBit_natOfBits (k : Nat) (f : Nat → Bool) (i : Nat) : (natOfBits k f).testBit i = (decide (i < k) && f i) := by
  induction k with
  | zero => simp [natOfBits]
  | succ k ih =>
    have hl := natOfBits_lt k f
    rw [natOfBits_succ]
    by_cases hf : f k = true
    · rw [if_pos hf, Nat.add_comm, ← Nat.mul_one (2 ^ k), Nat.testBit_two_pow_mul_add _ hl]
      by_cases hi : i < k
      · simp [hi, ih, Nat.lt_succ_of_lt hi]
      · rcases Nat.lt_or_ge k i with h | h
        · have : ¬ i < k + 1 := by omega
          obtain ⟨m, hm⟩ : ∃ m, i - k = m + 1 := ⟨i - k - 1, by omega⟩
          simp [hi, this, hm, Nat.testBit_succ]
        · have : i = k := by omega
          subst this; simp [hf]
    · rw [if_neg hf, Nat.add_zero, ih]
      by_cases hi : i < k
      · simp [hi, Nat.lt_succ_of_lt hi]
      · rcases Nat.lt_or_ge k i with h | h
        · simp [hi]; omega
        · have : i = k := by omega
          subst this; simp [hf]
/-- A number with a field replaced, as high part, field and low part. -/
theorem setBits_eq (x lo len v : Nat) :
    setBits x lo len v = 2 ^ lo * (2 ^ len * (x / 2 ^ (lo + len)) + v % 2 ^ len) + x % 2 ^ lo := by
  have h1 := Nat.div_add_mod x (2 ^ lo)
  have h2 := Nat.div_add_mod (x / 2 ^ lo) (2 ^ len)
  rw [Nat.div_div_eq_div_mul, ← Nat.pow_add] at h2
  simp only [setBits, bitsOf, Nat.shiftRight_eq_div_pow]
  generalize hq : x / 2 ^ (lo + len) = q at *
  generalize hm : x / 2 ^ lo % 2 ^ len = m at *
  generalize hl : x % 2 ^ lo = l at *
  rw [← h2] at h1
  have : x - m * 2 ^ lo = 2 ^ lo * (2 ^ len * q) + l := by
    rw [← h1, Nat.mul_add, Nat.mul_comm m]; omega
  rw [this, Nat.mul_add, Nat.mul_comm (v % 2 ^ len)]
  omega
theorem testBit_setBits (x lo len v j : Nat) :
    (setBits x lo len v).testBit j = if lo ≤ j ∧ j < lo + len then v.testBit (j - lo) else x.testBit j := by
  rw [setBits_eq, Nat.testBit_two_pow_mul_add _ (Nat.mod_lt _ (Nat.two_pow_pos _)), Nat.testBit_mod_two_pow]
  by_cases h : j < lo
  · simp [h, Nat.not_le_of_lt h]
  · rw [if_neg h, Nat.testBit_two_pow_mul_add _ (Nat.mod_lt _ (Nat.two_pow_pos _)), Nat.testBit_mod_two_pow]
    by_cases h2 : j - lo < len
    · rw [if_pos h2, if_pos ⟨by omega, by omega⟩]; simp [h2]
    · rw [if_neg h2, if_neg (by omega), Nat.testBit_div_two_pow]
      congr 1; omega
theorem ctzGo_spec (a : Nat) : ∀ n k, k ≤ ctzGo a n k ∧ ctzGo a n k ≤ k + n ∧ (∀ j, k ≤ j → j < ctzGo a n k → a.testBit j = false) ∧
    (ctzGo a n k < k + n → a.testBit (ctzGo a n k) = true) := by
  intro n
  induction n with
  | zero => intro k; exact ⟨le_refl _, le_refl _, fun j h1 h2 => absurd h1 (by simp only [ctzGo] at h2; omega), fun h => absurd h (by simp [ctzGo])⟩
  | succ n ih =>
    intro k
    simp only [ctzGo]
    split
    · rename_i h; exact ⟨le_refl _, by omega, fun j h1 h2 => by omega, fun _ => h⟩
    · rename_i h
      obtain ⟨h1, h2, h3, h4⟩ := ih (k + 1)
      refine ⟨by omega, by omega, fun j hj1 hj2 => ?_, fun hj => h4 (by omega)⟩
      rcases Nat.eq_or_lt_of_le hj1 with rfl | hlt
      · simpa using h
      · exact h3 j hlt hj2

/-- What an S operation puts in flight. -/
def sResult (h : SHd) (dst : FDest) (lat val : Nat) (fl : FFlags) : Result :=
  { slot := sSlot h.slot1, bst := h.bst, nw := h.nw, dst := dst, lat := lat, val := BitVec.ofNat 4096 val,
    latch := latchOf (sLatch h.slot1) dst, flags := fl }
/-- The issue of an S operation without a cause of its own. -/
theorem runOp_sOp {s : State} {i : Instr} {h : SHd} {dst : FDest} {lat : Nat} {srcs : List SSrc} {val : Nat} {fl : FFlags}
    {own : List (Bool × BitVec 8 × Word)} (hp : s.performs h.bst h.g) (ho : firstFault own = none) :
    runOp (sOp s i h dst lat srcs val fl own) s = .next (s.sends 1 (sResult h dst lat val fl)) := by
  rw [runOp_effect hp rfl rfl (by simp [sOp, ho]) rfl rfl rfl]
  simp only [sOp, Op.run, State.sends, ho, ite_self, sResult]
/-- The issue of an S operation that writes a scalar register. -/
theorem runOp_sOp_s {s : State} {i : Instr} {h : SHd} {n : BitVec 6} {lat : Nat} {srcs : List SSrc} {v : Word} {val : Nat}
    {own : List (Bool × BitVec 8 × Word)} (hp : s.performs h.bst h.g) (ho : firstFault own = none) (hv : val = v.toNat) :
    runOp (sOp s i h (sd n) lat srcs val 0 own) s = .next (s.sends 1 (scalarTo h n lat v)) := by
  rw [runOp_sOp hp ho, hv, sResult, ofNat_toNat_4096]
  cases h with | mk s1 g b nw => cases s1 <;> rfl
/-- The issue of an S operation that writes a predicate. -/
theorem runOp_sOp_p {s : State} {i : Instr} {h : SHd} {n : PReg} {lat : Nat} {srcs : List SSrc} {v : Mask} {val : Nat}
    (hp : s.performs h.bst h.g) (hv : val = v.toNat) :
    runOp (sOp s i h (.p n) lat srcs val) s = .next (s.sends 1 (predTo h n lat v)) := by
  rw [runOp_sOp hp rfl, hv]
  have : BitVec.ofNat 4096 v.toNat = v.setWidth 4096 := BitVec.ofNat_toNat 4096 v
  rw [sResult, this]
  cases h with | mk s1 g b nw => cases s1 <;> rfl

end Sys2Proof.Machine
end

