-- ==== Sys2Proof/Laws/Memory.lean ====
section
/-! SUPPORT. Canonical sparse maps: what each operation on them keeps and reads back; and the bytes of physical memory
and of face scratch after a write. -/
namespace Sys2Proof.Machine

/-- The canonical form, as a fact about all entries. -/
theorem smWf_iff {α : Type} [DecidableEq α] (d : α) (l : List (Nat × α)) :
    smWf d l = true ↔ l.Pairwise (fun a b => a.1 < b.1) ∧ ∀ x ∈ l, x.2 ≠ d := by
  induction l with
  | nil => simp [smWf]
  | cons a t ih =>
    obtain ⟨k, v⟩ := a
    cases t with
    | nil => simp [smWf]
    | cons b t =>
      obtain ⟨k', v'⟩ := b
      simp only [smWf, Bool.and_eq_true, decide_eq_true_eq, ih, List.pairwise_cons, List.mem_cons]
      constructor
      · rintro ⟨⟨h1, h2⟩, ⟨h3, h4⟩, h5⟩
        refine ⟨⟨?_, h3, h4⟩, ?_⟩
        · rintro x (rfl | hx)
          · exact h1
          · have := h3 x hx; omega
        · rintro x (rfl | hx)
          · exact h2
          · exact h5 x hx
      · rintro ⟨⟨h1, h3⟩, h2⟩
        exact ⟨⟨h1 _ (.inl rfl), h2 _ (.inl rfl)⟩, h3, fun x hx => h2 x (.inr hx)⟩
theorem smWf_filter {α : Type} [DecidableEq α] {d : α} {l : List (Nat × α)} (p : Nat × α → Bool) (h : smWf d l = true) :
    smWf d (l.filter p) = true := by
  rw [smWf_iff] at *
  exact ⟨h.1.filter _, fun x hx => h.2 x (List.mem_filter.1 hx).1⟩
/-- A partial map that keeps the key of every entry it keeps. -/
theorem smWf_filterMap {α : Type} [DecidableEq α] {d : α} {l : List (Nat × α)} (f : Nat × α → Option (Nat × α))
    (hf : ∀ x y, f x = some y → y.1 = x.1 ∧ y.2 ≠ d) (h : smWf d l = true) : smWf d (l.filterMap f) = true := by
  rw [smWf_iff] at *
  refine ⟨List.pairwise_filterMap.2 (h.1.imp ?_), ?_⟩
  · intro a b hab x hx y hy
    rw [(hf a x hx).1, (hf b y hy).1]; exact hab
  · intro y hy
    obtain ⟨x, _, hx⟩ := List.mem_filterMap.1 hy
    exact (hf x y hx).2

/-- A key below all entries reads as the default. -/
theorem smGet_lt {α : Type} (d : α) {l : List (Nat × α)} {k : Nat} (h : ∀ x ∈ l, k < x.1) : smGet d l k = d := by
  cases l with
  | nil => rfl
  | cons a t =>
    have := h a (.head _)
    simp only [smGet]
    rw [if_neg (by omega), if_pos this]
/-- In a canonical map the value at a key is that of its entry. -/
theorem smGet_mem {α : Type} [DecidableEq α] {d : α} {l : List (Nat × α)} (h : smWf d l = true) {k : Nat} {v : α} (hm : (k, v) ∈ l) :
    smGet d l k = v := by
  rw [smWf_iff] at h
  induction l with
  | nil => cases hm
  | cons a t ih =>
    obtain ⟨h1, h2⟩ := h
    rw [List.pairwise_cons] at h1
    simp only [smGet]
    rcases List.mem_cons.1 hm with rfl | hm
    · simp
    · have := h1.1 _ hm
      rw [if_neg (by simp only at this; omega), if_neg (by simp only at this; omega)]
      exact ih ⟨h1.2, fun x hx => h2 x (.tail _ hx)⟩ hm
/-- In a canonical map a key without an entry reads as the default. -/
theorem smGet_none {α : Type} {d : α} {l : List (Nat × α)} {k : Nat} (hm : ∀ x ∈ l, x.1 ≠ k) : smGet d l k = d := by
  induction l with
  | nil => rfl
  | cons a t ih =>
    simp only [smGet]
    rw [if_neg fun e => hm a (.head _) e.symm]
    split
    · rfl
    · exact ih fun x hx => hm x (.tail _ hx)
/-- Two canonical maps with the same entries at a key read alike there. -/
theorem smGet_congr {α : Type} [DecidableEq α] {d : α} {l m : List (Nat × α)} (hl : smWf d l = true) (hm : smWf d m = true) {k : Nat}
    (h : ∀ v, (k, v) ∈ l ↔ (k, v) ∈ m) : smGet d l k = smGet d m k := by
  by_cases hk : ∃ v, (k, v) ∈ l
  · obtain ⟨v, hv⟩ := hk
    rw [smGet_mem hl hv, smGet_mem hm ((h v).1 hv)]
  · rw [smGet_none (l := l), smGet_none (l := m)]
    · rintro ⟨k', v⟩ hx rfl; exact hk ⟨v, (h v).2 hx⟩
    · rintro ⟨k', v⟩ hx rfl; exact hk ⟨v, hx⟩

/-- The entries after a set. -/
theorem mem_smSet {α : Type} [DecidableEq α] {d : α} {l : List (Nat × α)} (h : smWf d l = true) (k : Nat) (v : α) (x : Nat × α) :
    x ∈ smSet d l k v ↔ (x.1 ≠ k ∧ x ∈ l) ∨ (x = (k, v) ∧ v ≠ d) := by
  rw [smWf_iff] at h
  induction l with
  | nil => simp only [smSet, smCons]; split <;> simp_all
  | cons a t ih =>
    obtain ⟨k', v'⟩ := a
    obtain ⟨h1, h2⟩ := h
    rw [List.pairwise_cons] at h1
    have ih := ih ⟨h1.2, fun x hx => h2 x (.tail _ hx)⟩
    have ht : ∀ x ∈ t, k' < x.1 := fun x hx => h1.1 x hx
    simp only [smSet]
    split
    · rename_i e; subst e
      have hne : x ∈ t → x.1 ≠ k := fun hx => by have := ht x hx; omega
      simp only [smCons]
      split
      · rename_i e; subst e
        simp only [List.mem_cons, ne_eq, not_true, and_false, or_false]
        constructor
        · exact fun hx => ⟨hne hx, .inr hx⟩
        · rintro ⟨hn, rfl | hx⟩
          · exact absurd rfl hn
          · exact hx
      · rename_i e
        simp only [List.mem_cons]
        constructor
        · rintro (rfl | hx)
          · exact .inr ⟨rfl, e⟩
          · exact .inl ⟨hne hx, .inr hx⟩
        · rintro (⟨hn, rfl | hx⟩ | ⟨rfl, _⟩)
          · exact absurd rfl hn
          · exact .inr hx
          · exact .inl rfl
    · rename_i e
      split
      · rename_i hlt
        have hne : x ∈ (k', v') :: t → x.1 ≠ k := fun hx => by
          rcases List.mem_cons.1 hx with rfl | hx
          · exact fun e' => e e'.symm
          · have := ht x hx; omega
        simp only [smCons]
        split
        · rename_i e; subst e
          simp only [ne_eq, not_true, and_false, or_false]
          exact ⟨fun hx => ⟨hne hx, hx⟩, fun hx => hx.2⟩
        · rename_i e
          rw [List.mem_cons]
          constructor
          · rintro (rfl | hx)
            · exact .inr ⟨rfl, e⟩
            · exact .inl ⟨hne hx, hx⟩
          · rintro (⟨_, hx⟩ | ⟨rfl, _⟩)
            · exact .inr hx
            · exact .inl rfl
      · simp only [List.mem_cons, ih]
        constructor
        · rintro (rfl | ⟨hn, hx⟩ | hx)
          · exact .inl ⟨fun e' => e e'.symm, .inl rfl⟩
          · exact .inl ⟨hn, .inr hx⟩
          · exact .inr hx
        · rintro (⟨hn, rfl | hx⟩ | hx)
          · exact .inl rfl
          · exact .inr (.inl ⟨hn, hx⟩)
          · exact .inr (.inr hx)
theorem smWf_smSet {α : Type} [DecidableEq α] {d : α} {l : List (Nat × α)} (h : smWf d l = true) (k : Nat) (v : α) :
    smWf d (smSet d l k v) = true := by
  have hm := mem_smSet h k v
  rw [smWf_iff] at *
  refine ⟨?_, fun x hx => ?_⟩
  · clear hm
    induction l with
    | nil => simp only [smSet, smCons]; split <;> simp
    | cons a t ih =>
      obtain ⟨k', v'⟩ := a
      obtain ⟨h1, h2⟩ := h
      have h1' := List.pairwise_cons.1 h1
      have hwt : smWf d t = true := (smWf_iff d t).2 ⟨h1'.2, fun x hx => h2 x (.tail _ hx)⟩
      simp only [smSet]
      split
      · rename_i e; subst e
        simp only [smCons]
        split
        · exact h1'.2
        · exact List.pairwise_cons.2 ⟨h1'.1, h1'.2⟩
      · rename_i e
        split
        · rename_i hlt
          simp only [smCons]
          split
          · exact h1
          · refine List.pairwise_cons.2 ⟨fun x hx => ?_, h1⟩
            rcases List.mem_cons.1 hx with rfl | hx
            · exact hlt
            · have := h1'.1 x hx; simp only at this ⊢; omega
        · rename_i hlt
          refine List.pairwise_cons.2 ⟨fun x hx => ?_, ih ⟨h1'.2, fun x hx => h2 x (.tail _ hx)⟩⟩
          rcases (mem_smSet hwt k v x).1 hx with ⟨_, hx⟩ | ⟨rfl, _⟩
          · exact h1'.1 x hx
          · simp only; omega
  · rcases (hm x).1 hx with ⟨_, hx⟩ | ⟨rfl, hv⟩
    · exact h.2 x hx
    · exact hv
/-- Reading back what was set. -/
theorem smGet_smSet_self {α : Type} [DecidableEq α] {d : α} {l : List (Nat × α)} (h : smWf d l = true) (k : Nat) (v : α) :
    smGet d (smSet d l k v) k = v := by
  by_cases hv : v = d
  · subst hv
    refine smGet_none fun x hx => ?_
    rcases (mem_smSet h k v x).1 hx with ⟨hn, _⟩ | ⟨_, hv⟩
    · exact hn
    · exact absurd rfl hv
  · exact smGet_mem (smWf_smSet h k v) ((mem_smSet h k v _).2 (.inr ⟨rfl, hv⟩))
/-- A set leaves every other key alone. -/
theorem smGet_smSet_ne {α : Type} [DecidableEq α] {d : α} {l : List (Nat × α)} (h : smWf d l = true) {k j : Nat} (v : α) (hj : j ≠ k) :
    smGet d (smSet d l k v) j = smGet d l j := by
  refine smGet_congr (smWf_smSet h k v) h fun w => ?_
  rw [mem_smSet h]
  constructor
  · rintro (⟨_, hx⟩ | ⟨e, _⟩)
    · exact hx
    · injection e with e1; exact absurd e1 hj
  · exact fun hx => .inl ⟨hj, hx⟩

/-- The entries after a run of values is put. -/
theorem mem_smPut {α : Type} [DecidableEq α] {d : α} {l : List (Nat × α)} (k : Nat) (vs : List α) (x : Nat × α) :
    x ∈ smPut d l k vs ↔ (x ∈ l ∧ (x.1 < k ∨ k + vs.length ≤ x.1)) ∨ (∃ i, vs[i]? = some x.2 ∧ x.1 = k + i ∧ x.2 ≠ d) := by
  simp only [smPut, List.mem_append, List.mem_filter, decide_eq_true_eq, List.mem_map, Prod.exists, List.mem_zipIdx_iff_getElem?]
  constructor
  · rintro ((⟨h, h'⟩ | ⟨⟨v, i, hi, rfl⟩, hd⟩) | ⟨h, h'⟩)
    · exact .inl ⟨h, .inl h'⟩
    · exact .inr ⟨i, hi, rfl, hd⟩
    · exact .inl ⟨h, .inr h'⟩
  · rintro (⟨h, h' | h'⟩ | ⟨i, hi, h1, hd⟩)
    · exact .inl (.inl ⟨h, h'⟩)
    · exact .inr ⟨h, h'⟩
    · exact .inl (.inr ⟨⟨x.2, i, hi, by rw [← h1]⟩, hd⟩)
theorem smWf_smPut {α : Type} [DecidableEq α] {d : α} {l : List (Nat × α)} (h : smWf d l = true) (k : Nat) (vs : List α) :
    smWf d (smPut d l k vs) = true := by
  have hm := mem_smPut (d := d) (l := l) k vs
  rw [smWf_iff] at *
  refine ⟨?_, fun x hx => ?_⟩
  · unfold smPut
    refine List.pairwise_append.2 ⟨List.pairwise_append.2 ⟨h.1.filter _, List.Pairwise.filter _ ?_, ?_⟩, h.1.filter _, ?_⟩
    · rw [List.pairwise_map, List.pairwise_iff_getElem]
      intro i j hi hj hij
      simp only [List.getElem_zipIdx]; omega
    · intro a ha b hb
      simp only [List.mem_filter, decide_eq_true_eq, List.mem_map, Prod.exists, List.mem_zipIdx_iff_getElem?] at ha hb
      obtain ⟨⟨v, i, hi, rfl⟩, _⟩ := hb
      simp only; omega
    · intro a ha b hb
      simp only [List.mem_append, List.mem_filter, decide_eq_true_eq, List.mem_map, Prod.exists, List.mem_zipIdx_iff_getElem?] at ha hb
      rcases ha with ⟨_, ha⟩ | ⟨⟨v, i, hi, rfl⟩, _⟩
      · omega
      · have := (List.getElem?_eq_some_iff.1 hi).1
        simp only; omega
  · rcases (hm x).1 hx with ⟨hx, _⟩ | ⟨_, _, _, hd⟩
    · exact h.2 x hx
    · exact hd
/-- Every key after a run of values is put. -/
theorem smGet_smPut {α : Type} [DecidableEq α] {d : α} {l : List (Nat × α)} (h : smWf d l = true) (k : Nat) (vs : List α) (j : Nat) :
    smGet d (smPut d l k vs) j = if k ≤ j ∧ j < k + vs.length then vs.getD (j - k) d else smGet d l j := by
  have hw := smWf_smPut h k vs
  split
  · rename_i hj
    have hlt : j - k < vs.length := by omega
    have he : vs[j - k]? = some (vs.getD (j - k) d) := by
      rw [List.getD_eq_getElem?_getD, List.getElem?_eq_getElem hlt]; rfl
    by_cases hd : vs.getD (j - k) d = d
    · rw [hd]
      refine smGet_none fun x hx e => ?_
      rcases (mem_smPut k vs x).1 hx with ⟨_, hx⟩ | ⟨i, hi, h1, h2⟩
      · omega
      · have : i = j - k := by omega
        subst this
        rw [he] at hi
        exact h2 ((Option.some.inj hi).symm.trans hd)
    · exact smGet_mem hw ((mem_smPut k vs _).2 (.inr ⟨j - k, he, by simp only; omega, hd⟩))
  · rename_i hj
    refine smGet_congr hw h fun v => ?_
    rw [mem_smPut]
    constructor
    · rintro (⟨hx, _⟩ | ⟨i, hi, h1, _⟩)
      · exact hx
      · have := (List.getElem?_eq_some_iff.1 hi).1
        simp only at h1; omega
    · exact fun hx => .inl ⟨hx, by simp only; omega⟩
/-- A slice reads as the map in its range. -/
theorem smGet_smSlice {α : Type} [DecidableEq α] {d : α} {l : List (Nat × α)} (h : smWf d l = true) (k n j : Nat) (hj : k ≤ j ∧ j < k + n) :
    smGet d (smSlice l k n) j = smGet d l j := by
  refine smGet_congr (smWf_filter _ h) h fun v => ?_
  simp only [List.mem_filter, Bool.and_eq_true, decide_eq_true_eq]
  exact ⟨fun x => x.1, fun x => ⟨x, hj⟩⟩

/-! ### Physical memory -/
theorem Dev.putBytes_wf {d : Dev} (h : smWf 0 d.mem.cells = true) (pa : Nat) (bs : List Byte) :
    smWf 0 (d.putBytes pa bs).mem.cells = true := smWf_smPut h _ _
@[simp] theorem Dev.write_cells (d : Dev) (pa : Nat) (bs : List Byte) : (d.write pa bs).mem.cells = (d.putBytes pa bs).mem.cells := rfl
theorem Dev.write_wf {d : Dev} (h : smWf 0 d.mem.cells = true) (pa : Nat) (bs : List Byte) :
    smWf 0 (d.write pa bs).mem.cells = true := smWf_smPut h _ _
theorem Dev.wr64_wf {d : Dev} (h : smWf 0 d.mem.cells = true) (pa : Nat) (v : Word) : smWf 0 (d.wr64 pa v).mem.cells = true :=
  d.write_wf h _ _
@[simp] theorem Dev.taint_cells (d : Dev) (pa n : Nat) : (d.taint pa n).mem.cells = d.mem.cells := rfl
@[simp] theorem Dev.raise_mem (d : Dev) (c n : Nat) : (d.raise c n).mem = d.mem := rfl
theorem State.reset_memory_wf : smWf 0 State.reset.dev.mem.cells = true := rfl

/-! ### Face scratch -/
theorem modGran_frame (st : Stores) (g : Nat) (f : Gran → Gran) : modGran st g f = { st with face := (modGran st g f).face } := rfl
theorem modGran_wf {st : Stores} (h : smWf {} st.face = true) (g : Nat) (f : Gran → Gran) : smWf {} (modGran st g f).face = true :=
  smWf_smSet h _ _
theorem modGran_get {st : Stores} (h : smWf {} st.face = true) (g k : Nat) (f : Gran → Gran) :
    smGet {} (modGran st g f).face k = if k = g then f (smGet {} st.face k) else smGet {} st.face k := by
  split
  · rename_i e; subst e; exact smGet_smSet_self h _ _
  · rename_i e; exact smGet_smSet_ne h _ e

end Sys2Proof.Machine
end

