-- ==== Sys2Proof/Laws/Vector.lean ====
section
/-! SUPPORT. Vector values as digits: the elements of what `mapElts` and `ofLanes` build (R58, R219). -/
namespace Sys2Proof.Machine

/-- A number from digits in base b, the first the least significant. -/
def baseSum (b : Nat) (f : Nat → Nat) (n : Nat) : Nat := (List.range n).foldr (fun i acc => f i % b + b * acc) 0
theorem baseSum_succ (b : Nat) (f : Nat → Nat) (n : Nat) : baseSum b f (n + 1) = f 0 % b + b * baseSum b (fun i => f (i + 1)) n := by
  simp only [baseSum, List.range_succ_eq_map, List.foldr_cons, List.foldr_map, Nat.succ_eq_add_one]
theorem baseSum_get {b : Nat} (hb : 0 < b) : ∀ (n : Nat) (f : Nat → Nat) (e : Nat), e < n → baseSum b f n / b ^ e % b = f e % b := by
  intro n
  induction n with
  | zero => intro f e h; omega
  | succ n ih =>
    intro f e h
    rw [baseSum_succ]
    cases e with
    | zero => simp
    | succ e =>
      rw [Nat.pow_succ, Nat.mul_comm (b ^ e), ← Nat.div_div_eq_div_mul,
        Nat.add_mul_div_left _ _ hb, Nat.div_eq_of_lt (Nat.mod_lt _ hb), Nat.zero_add]
      exact ih (fun i => f (i + 1)) e (by omega)
theorem baseSum_lt {b : Nat} (hb : 0 < b) (n : Nat) : ∀ (f : Nat → Nat), baseSum b f n < b ^ n := by
  induction n with
  | zero => intro f; simp [baseSum]
  | succ n ih =>
    intro f
    rw [baseSum_succ, Nat.pow_succ]
    have h1 := ih fun i => f (i + 1)
    have h2 := Nat.mod_lt (f 0) hb
    nlinarith
/-- An element of a vector value given as digits. -/
theorem el_baseSum {w n : Nat} (f : Nat → Nat) (e : Nat) (he : e < n) (hn : w * n ≤ 4096) :
    el w (BitVec.ofNat 4096 (baseSum (2 ^ w) f n)) e = BitVec.ofNat w (f e) := by
  have hw : 0 < 2 ^ w := Nat.two_pow_pos w
  have hl : baseSum (2 ^ w) f n < 2 ^ 4096 :=
    lt_of_lt_of_le (baseSum_lt hw n f) (by rw [← Nat.pow_mul]; exact Nat.pow_le_pow_right (by omega) hn)
  apply BitVec.eq_of_toNat_eq
  simp only [el, BitVec.extractLsb'_toNat, BitVec.toNat_ofNat]
  rw [Nat.mod_eq_of_lt hl, Nat.shiftRight_eq_div_pow, Nat.pow_mul, baseSum_get hw n f e he]
theorem foldr_pair (l : List Nat) (b : Nat) (f : Nat → Nat × FFlags) (m : Nat → Bool) :
    l.foldr (fun e (acc : Nat × FFlags) => ((f e).1 % b + b * acc.1, if m e then acc.2 ||| (f e).2 else acc.2)) (0, 0) =
      (l.foldr (fun e acc => (f e).1 % b + b * acc) 0, l.foldr (fun e t => if m e then t ||| (f e).2 else t) 0) := by
  induction l with
  | nil => rfl
  | cons x t ih => simp only [List.foldr_cons, ih]
theorem mapElts_eq (w : Nat) (m : Mask) (f : Nat → Nat × FFlags) :
    mapElts w m f = (BitVec.ofNat 4096 (baseSum (2 ^ w) (fun e => (f e).1) (4096 / w)), activeFlags w m fun e => (f e).2) := by
  simp only [mapElts, baseSum, activeFlags]
  rw [foldr_pair]
/-- The elements of what mapElts builds. -/
theorem hasElements_mapElts (w : Nat) (m : Mask) (f : Nat → Nat × FFlags) :
    HasElements w (mapElts w m f).1 fun e => BitVec.ofNat w (f e).1 := by
  intro e he
  rw [mapElts_eq]
  exact el_baseSum _ _ he (Nat.mul_div_le _ _)
theorem mapElts_flags (w : Nat) (m : Mask) (f : Nat → Nat × FFlags) : (mapElts w m f).2 = activeFlags w m fun e => (f e).2 := by
  rw [mapElts_eq]
theorem activeFlags_zero (w : Nat) (m : Mask) : (activeFlags w m fun _ => (0 : FFlags)) = 0 := by
  unfold activeFlags
  induction List.range (4096 / w) with
  | nil => rfl
  | cons x t ih => simp only [List.foldr_cons, ih]; split <;> rfl
theorem ofLanes_eq (f : Nat → Nat) : ofLanes f = BitVec.ofNat 4096 (baseSum (2 ^ 32) f 128) := by
  simp only [ofLanes, baseSum]
/-- The lanes of what ofLanes builds. -/
theorem hasElements_ofLanes (f : Nat → Nat) : HasElements 32 (ofLanes f) fun k => BitVec.ofNat 32 (f k) := by
  intro k hk
  rw [ofLanes_eq]
  exact el_baseSum f k (by simpa using hk) (by norm_num)
theorem lane_ofLanes (f : Nat → Nat) {k : Nat} (hk : k < 128) : lane (ofLanes f) k = BitVec.ofNat 32 (f k) :=
  hasElements_ofLanes f k (by simpa using hk)
/-- Two vector values with the same lanes are one. -/
theorem lanes_ext {x y : VecVal} (h : ∀ k < 128, lane x k = lane y k) : x = y := by
  apply BitVec.eq_of_getLsbD_eq
  intro i hi
  have := congrArg (fun b : BitVec 32 => b.getLsbD (i % 32)) (h (i / 32) (by omega))
  simp only [lane, BitVec.getLsbD_extractLsb'] at this
  have e : 32 * (i / 32) + i % 32 = i := Nat.div_add_mod i 32
  rw [e] at this
  simpa [Nat.mod_lt] using this
/-- The lanes of a merge. -/
theorem lane_mergeLanes (m : Mask) (new old : VecVal) {k : Nat} (hk : k < 128) :
    lane (mergeLanes m new old) k = if m.getLsbD k then lane new k else lane old k := by
  rw [mergeLanes, lane_ofLanes _ hk]
  split <;> simp
theorem mergeLanes_allOnes (new old : VecVal) : mergeLanes (BitVec.allOnes 128) new old = new := by
  apply lanes_ext
  intro k hk
  rw [lane_mergeLanes _ _ _ hk, if_pos (by rw [BitVec.getLsbD_allOnes]; simpa using hk)]
theorem mergeLanes_zero (new old : VecVal) : mergeLanes 0 new old = old := by
  apply lanes_ext
  intro k hk
  rw [lane_mergeLanes _ _ _ hk]
  simp

/-- The issue of a V operation without a cause of its own. -/
theorem runOp_vOp {s : State} {i : Instr} {h : VHd} {dst : FDest} {lat : Nat} {cls : Fin 16} {srcs : List VSrc} {mask : Mask}
    {r : VecVal × FFlags} {own : List (Bool × BitVec 8 × Word)} (hr : s.room h.bst) (ho : firstFault own = none) :
    runOp (vOp s i h dst lat cls srcs mask r own) s =
      .next (s.sends cls { slot := vSlot h.slot1, bst := h.bst, nw := h.nw, dst := dst, lat := lat, mask := mask, val := r.1, latch := latchOf (vLatch h.slot1) dst, flags := r.2 }) := by
  rw [runOp_performs s rfl rfl (Op.trapOf_none (by simp [vOp, ho]) rfl rfl fun l hl => hr l hl)]
  simp only [vOp, Op.run, State.sends, ho, Bool.false_eq_true, if_false]
/-- The issue of a V operation that writes a vector register. -/
theorem runOp_vOp_v {s : State} {i : Instr} {h : VHd} {n : BitVec 6} {lat : Nat} {cls : Fin 16} {srcs : List VSrc} {mask : Mask}
    {r : VecVal × FFlags} {own : List (Bool × BitVec 8 × Word)} (hr : s.room h.bst) (ho : firstFault own = none) :
    runOp (vOp s i h (vd s n) lat cls srcs mask r own) s = .next (s.sends cls (vectorTo s h n lat mask r.1 r.2)) := by
  rw [runOp_vOp hr ho]
  cases h with | mk s1 p b nw st => cases s1 <;> rfl
/-- The issue of a V operation that writes a predicate. -/
theorem runOp_vOp_p {s : State} {i : Instr} {h : VHd} {n : PReg} {lat : Nat} {cls : Fin 16} {srcs : List VSrc} {mask : Mask}
    {v : Mask} {fl : FFlags} (hr : s.room h.bst) :
    runOp (vOp s i h (.p n) lat cls srcs mask (v.setWidth 4096, fl)) s = .next (s.sends cls (maskTo h n lat mask v fl)) := by
  rw [runOp_vOp hr rfl]
  cases h with | mk s1 p b nw st => cases s1 <;> rfl

end Sys2Proof.Machine
end

