-- ==== Sys2Proof/Tests/Slice0.lean ====
section
/-! SUPPORT. Tests: words of the spec's encodings and the instructions they stand for, ill-formed terms that the check
refuses, a few single steps with results from the spec's examples, and states that meet the hypotheses of the statements. -/
namespace Sys2Proof.Tests
set_option Elab.async false
open Sys2Proof.Machine

/-! ### Decoding -/
/-- The guard p0. -/
def on : Guard := ⟨0, false⟩
/-- An unboosted S or A operation in slot 0. -/
def sh : SHd := ⟨false, on, .none, false⟩
/-- The same, boosted to level 1. -/
def shB : SHd := ⟨false, on, .one, false⟩
/-- An unboosted V operation in V0. -/
def vh : VHd := ⟨false, 0, .none, false, 0⟩
/-- A VM operation of all lanes at EA(a1). -/
def mh : MHd := ⟨0, .none, false, 0, 1, false⟩

/-- Tables 8.2, 8.4 and the example of R195: LOOPP, B.F, and MOVI-free words of the BR slot. -/
theorem test_decode_br : decodeSlot 0 0x0900000010040002 = .ok (.loopp ⟨on, 0, 8, 2, 0, 2⟩) ∧
    decodeSlot 0 0x020000000C010000 = .ok (.bF ⟨on, 6, 1⟩) ∧ decodeSlot 0 0x1000000000000000 = .ok (.exit ⟨on⟩) := by decide
/-- Table 7.6 and Table 8.4. -/
theorem test_decode_s : decodeSlot 1 0x0101428600000000 = .ok (.add ⟨sh, 5, .reg 5, .reg 6, .w64, false, false⟩) ∧
    decodeSlot 2 0x0740C28400000000 = .ok (.div ⟨⟨true, on, .one, false⟩, 3, .reg 5, .reg 4, .w64⟩) ∧
    decodeSlot 1 0x5100120000000000 = .ok (.movq ⟨false, on, false, 0, .reg 36⟩) := by decide
/-- Tables 7.4 and 8.12: AADD a3, a4, a5, with DST at 46, SA at 39, SB at 32. -/
theorem test_decode_a : decodeSlot 3 0x0100C20500000000 = .ok (.aadd ⟨sh, 3, .reg 4, .reg 5⟩) := by decide
/-- Table 7.6, and the example of R171 with STEP code 1. -/
theorem test_decode_v : decodeSlot 5 0x2000C205001A0000 = .ok (.vfadd ⟨vh, 3, .reg 4, .reg 5, .f32, .rne⟩) ∧
    decodeSlot 5 0x20020818001A8000 = .ok (.vfadd ⟨⟨false, 0, .none, false, 1⟩, 8, .reg 16, .reg 24, .f32, .rne⟩) := by decide
/-- The example of R234. -/
theorem test_decode_vm : decodeSlot 7 0x01020000000080E8 = .ok (.vldFeC ⟨⟨0, .none, false, 1, 3, true⟩, 8⟩) := by decide
/-- The examples of chapter 10. -/
theorem test_decode_cb : decodeSlot 8 0x01000000000FF500 = .ok (.tmma ⟨on, 0xFF, true, 0⟩) ∧
    decodeSlot 8 0x0900000000000400 = .ok (.tdrain ⟨on, 0, 0, .raw⟩) := by decide
/-- Table 10.6: scw.b0.st1 v20, a6, pm: SA 39, STEP 15, AR 10, PM 9. -/
theorem test_decode_sc : decodeSlot 9 0x01000A0000009A00 = .ok (.scw ⟨on, .reg 20, 1, 6, true, false⟩) := by decide
/-- The examples of chapters 11 and 17. -/
theorem test_decode_cp : decodeSlot 10 0x0100000000000028 = .ok (.cpy ⟨on, 0, .weak, 0, 2, true⟩) ∧
    decodeSlot 10 0x18000000000215A0 = .ok (.amoFaddx ⟨on, 2, .weak, 10, .f32, false⟩) := by decide
/-- The examples of chapters 11, 14 and 17. -/
theorem test_decode_sy : decodeSlot 11 0x0300000000011800 = .ok (.barx ⟨on, 2, 0, 0x1800⟩) ∧
    decodeSlot 11 0x2800000000000104 = .ok (.trcon ⟨on, 0x104⟩) ∧ decodeSlot 11 0x18000A8000020000 = .ok (.tpost ⟨on, 21, 2⟩) := by decide
/-- R161, R181: a header of KIND 1 without slots, and one that names S0 with its word. -/
theorem test_decode_bundle : decodeTableWord 64 0x01000000 = some .segmentBegin ∧
    decodeTableWord 128 (0x0101428600000000 * 2 ^ 64 + 2) = some (.add ⟨sh, 5, .reg 5, .reg 6, .w64, false, false⟩) := by decide
/-- R165, R372: reserved opcodes, a field that must be zero, a reserved boost code and a boosted MOVQ are refused by name. -/
theorem test_decode_refuses : decodeSlot 1 0xEF00000000000000 = .error .illegalOpcode ∧
    decodeSlot 3 0x0100C20500000001 = .error .illegalOperand ∧ decodeSlot 1 0x51401200_00000000 = .error .boostIllegal ∧
    decodeSlot 1 0xF000000000000000 = .error .illegalPrefix := by decide

/-- A term that breaks each static limit is refused. -/
theorem test_ill_formed : ([.plog ⟨sh, 1, .not, 1, 1⟩, .fadd ⟨sh, 1, .reg 1, .reg 2, .i32, .rne⟩, .fsub ⟨sh, 1, .reg 1, .reg 2, .f32, .sr⟩,
    .fmul ⟨sh, 1, .reg 1, .reg 2, .i8, .rne⟩, .fdiv ⟨sh, 1, .reg 1, .reg 2, .f64, .sr⟩, .ffma ⟨sh, 1, .reg 1, .reg 2, .reg 3, .rns16, .rne⟩,
    .fsqrt ⟨sh, 1, .reg 1, .f32, .sr⟩, .fmin ⟨sh, 1, .reg 1, .reg 2, .i32⟩, .fmax ⟨sh, 1, .reg 1, .reg 2, .n8⟩,
    .fcmp ⟨sh, 1, .reg 1, .reg 2, .i16, .eq⟩, .fclass ⟨sh, 1, .reg 1, .i64⟩, .fcvt ⟨sh, 1, .reg 1, .i32, .i64, false, .rne⟩,
    .amode ⟨sh, 1, .bitrev (.reg 2) 25 0⟩, .amode ⟨sh, 1, .bitrev (.reg 2) 0 0⟩, .amode ⟨sh, 1, .bitrev (.reg 2) 8 13⟩,
    .lds ⟨sh, 1, .latch .la0, .b4, false, true, 0⟩, .sts ⟨false, on, false, .latch .la0, .reg 1, .b4, true, 0⟩,
    .vadd ⟨vh, 1, .reg 1, .reg 2, .rns16, true⟩, .vsub ⟨vh, 1, .reg 1, .reg 2, .f32, false⟩, .vmul ⟨vh, 1, .reg 1, .reg 2, .i64, false⟩,
    .vmulh ⟨vh, 1, .reg 1, .reg 2, .rns16⟩, .vmin ⟨vh, 1, .reg 1, .reg 2, .f32⟩, .vmad ⟨vh, 1, .reg 1, .reg 2, .reg 3, .rns16, false⟩,
    .vclmp ⟨vh, 1, .reg 1, .reg 2, .reg 3, .f16⟩, .vabs ⟨vh, 1, .reg 1, .f32, false⟩, .vfadd ⟨vh, 1, .reg 1, .reg 2, .i32, .rne⟩,
    .vfma ⟨vh, 1, .reg 1, .reg 2, .reg 3, .f32, .sr⟩, .vfmin ⟨vh, 1, .reg 1, .reg 2, .i8⟩, .vfabs ⟨vh, 1, .reg 1, .i16⟩,
    .vfcmp ⟨vh, 1, .reg 1, .reg 2, .f16, .eq⟩, .vbcast ⟨vh, 1, .reg 1, .i32, 128⟩, .viota ⟨vh, 1, .f32, 0⟩, .vshuf ⟨vh, 1, .reg 1, .clx, 8⟩,
    .vred ⟨vh, 1, .reg 1, .add, false, .i8, .rne⟩, .vred ⟨vh, 1, .reg 1, .min, false, .f32, .rtz⟩, .vscan ⟨vh, 1, .reg 1, .xor, false, .f32, .rne⟩,
    .vcvt ⟨vh, 1, .reg 1, .rns16, .i32, false, .rne⟩, .vpack ⟨vh, 1, .reg 1, .i8, .w16, 0, false⟩, .vpack ⟨vh, 1, .reg 1, .bf16, .w16, 0, true⟩,
    .vpack ⟨vh, 1, .reg 1, .i32, .w16, 2, false⟩, .vunpk ⟨vh, 1, .reg 1, .i8, .w16, 0⟩, .vexp2 ⟨0, .none, false, 0, 1, .reg 1, .f32, .sr⟩,
    .vldFeC ⟨⟨0, .one, false, 0, 1, false⟩, 1⟩, .vst ⟨⟨0, .one, false, 0, 1, false⟩, .reg 1⟩, .vlds ⟨mh, 1, .i64, 1⟩,
    .vsts ⟨⟨0, .two, false, 0, 1, false⟩, .reg 1, .i8, 1⟩, .vgth ⟨mh, 1, .reg 1, .f64⟩, .vsct ⟨mh, .reg 1, .reg 2, .i64⟩,
    .feset ⟨⟨0, .one, false, 0, 1, false⟩⟩, .feprob ⟨⟨0, .one, false, 0, 1, false⟩, 1⟩, .cpyw ⟨on, 0, 29, 0, false⟩, .cpyx ⟨on, 0, .weak, 26, 0, false⟩,
    .amoAdd ⟨on, 0, .weak, 27, .i32, false⟩, .amoXor ⟨on, 0, .weak, 0, .f32, false⟩, .amoFaddx ⟨on, 0, .weak, 0, .i32, false⟩,
    .amoCas ⟨on, 0, .weak, 0, .n32, true, false⟩, .pfh ⟨on, 0, 31⟩, .migr ⟨on, 0, 30⟩, .fenceq ⟨on, 0⟩, .bari ⟨on, 0, 0⟩,
    .evinc ⟨on, 0, 0⟩] : List Instr).all (fun i => !i.wf) = true := by decide

/-! ### Words of every form, from the encoding tables, with a value of its own in every field -/
/-- The guard !p3. -/
def gq : Guard := ⟨3, true⟩
/-- S1 or A1, boost 2, NW. -/
def hq : SHd := ⟨true, gq, .two, true⟩
/-- V1, lane predicate p3, boost 2, NW, STEP code 2. -/
def vq : VHd := ⟨true, 3, .two, true, 2⟩
/-- The same in VM with EA(a19), post-modified. -/
def mq : MHd := ⟨3, .two, true, 2, 19, true⟩
/-- Unboosted. -/
def mq0 : MHd := ⟨3, .none, true, 2, 19, true⟩
/-- The BR words (Tables 7.12, 8.1, 8.2, 8.5). -/
theorem test_words_br : ([
    (0, 0x010D4BE386770000, .bT ⟨gq, 0x6A5F1C3, 7⟩), (0, 0x020D4BE386770000, .bF ⟨gq, 0x6A5F1C3, 7⟩),
    (0, 0x030D4BE386700000, .j ⟨gq, 0x6A5F1C3⟩), (0, 0x0400150000700000, .jx ⟨gq, 42⟩), (0, 0x0600150000700000, .ret ⟨gq, 42⟩),
    (0, 0x05056BE386700000, .call ⟨gq, 21, 0x15F1C3⟩), (0, 0x080015638679ABCD, .loop ⟨gq, 42, 0x31C3, 0x9ABCD⟩),
    (0, 0x09001563867B3ABC, .loopp ⟨gq, 42, 0x31C3, 5, 19, 0xABC⟩), (0, 0x0A00000000700000, .lexit ⟨gq⟩), (0, 0x0C00000000700000, .commit ⟨gq⟩),
    (0, 0x0D00000000700000, .squash ⟨gq⟩), (0, 0x1000000000700000, .exit ⟨gq⟩), (0, 0x1200000000700000, .tret ⟨gq⟩),
    (0, 0x110000000079ABCD, .trapi ⟨gq, 0x9ABCD⟩), (0, 0x130000000079ABCD, .waitn ⟨gq, 0x9AB, 0xCD⟩)] :
    List (Fin 12 × Word × Instr)).all (fun x => decodeSlot x.1 x.2.1 = .ok x.2.2 && encode x.2.2 = some (x.1, x.2.1) && x.2.2.wf) = true := by decide +kernel
/-- The S words (Tables 7.13, 8.6–8.10, R176, R212, R213). -/
theorem test_words_s : ([
    (2, 0x01A55533007A8000, .add ⟨hq, 21, .reg 42, .reg 51, .w16, true, true⟩),
    (2, 0x03A55533007A8000, .sub ⟨hq, 21, .reg 42, .reg 51, .w16, true, true⟩),
    (2, 0x04A55533007A8000, .mul ⟨hq, 21, .reg 42, .reg 51, .w16, true, true⟩), (2, 0x05A55533007C0000, .mulh ⟨hq, 21, .reg 42, .reg 51, .w8⟩),
    (2, 0x06A55533007E0000, .mulhn ⟨hq, 21, .reg 42, .reg 51, .w8⟩), (2, 0x07A55533007C0000, .div ⟨hq, 21, .reg 42, .reg 51, .w8⟩),
    (2, 0x08A55533007E0000, .divn ⟨hq, 21, .reg 42, .reg 51, .w8⟩), (2, 0x09A55533007C0000, .rem ⟨hq, 21, .reg 42, .reg 51, .w8⟩),
    (2, 0x0AA55533007E0000, .remn ⟨hq, 21, .reg 42, .reg 51, .w8⟩), (2, 0x20A55533007C0000, .min ⟨hq, 21, .reg 42, .reg 51, .w8⟩),
    (2, 0x21A55533007E0000, .minn ⟨hq, 21, .reg 42, .reg 51, .w8⟩), (2, 0x22A55533007C0000, .max ⟨hq, 21, .reg 42, .reg 51, .w8⟩),
    (2, 0x23A55533007E0000, .maxn ⟨hq, 21, .reg 42, .reg 51, .w8⟩), (2, 0x10A5553300760000, .and ⟨hq, 21, .reg 42, .reg 51, .w32, true⟩),
    (2, 0x12A5553300760000, .or ⟨hq, 21, .reg 42, .reg 51, .w32, true⟩), (2, 0x14A5553300760000, .xor ⟨hq, 21, .reg 42, .reg 51, .w32, true⟩),
    (2, 0x16A5553300760000, .andn ⟨hq, 21, .reg 42, .reg 51, .w32, true⟩), (2, 0x17A5553300760000, .shl ⟨hq, 21, .reg 42, .reg 51, .w32, true⟩),
    (2, 0x19A5553300760000, .shr ⟨hq, 21, .reg 42, .reg 51, .w32, true⟩), (2, 0x1BA5553300760000, .sar ⟨hq, 21, .reg 42, .reg 51, .w32, true⟩),
    (2, 0x1DA5553300760000, .rotl ⟨hq, 21, .reg 42, .reg 51, .w32, true⟩), (2, 0x02A555000079ABCD, .addi ⟨hq, 21, .reg 42, 0x9ABCD⟩),
    (2, 0x11A555000079ABCD, .andi ⟨hq, 21, .reg 42, 0x9ABCD⟩), (2, 0x13A555000079ABCD, .ori ⟨hq, 21, .reg 42, 0x9ABCD⟩),
    (2, 0x15A555000079ABCD, .xori ⟨hq, 21, .reg 42, 0x9ABCD⟩), (2, 0x18A5550000700025, .shli ⟨hq, 21, .reg 42, 37⟩),
    (2, 0x1AA5550000700025, .shri ⟨hq, 21, .reg 42, 37⟩), (2, 0x1CA5550000700025, .sari ⟨hq, 21, .reg 42, 37⟩),
    (2, 0x28A55500007A0000, .clz ⟨hq, 21, .reg 42, .w16, true⟩), (2, 0x29A55500007A0000, .ctz ⟨hq, 21, .reg 42, .w16, true⟩),
    (2, 0x2AA55500007A0000, .popc ⟨hq, 21, .reg 42, .w16, true⟩), (2, 0x2BA55500007A0000, .brev ⟨hq, 21, .reg 42, .w16, true⟩),
    (2, 0x2CA5550000700956, .bext ⟨hq, 21, .reg 42, 37, 22⟩), (2, 0x2DA5553300700956, .bins ⟨hq, 21, .reg 42, .reg 51, 37, 22⟩),
    (2, 0x2EA5550000700016, .sext ⟨hq, 21, .reg 42, 22⟩), (2, 0x2FA5550000700016, .zext ⟨hq, 21, .reg 42, 22⟩),
    (2, 0x30A540000079ABCD, .movi ⟨hq, 21, 0x9ABCD⟩), (2, 0x31A5553300790000, .sel ⟨hq, 21, 9, .reg 42, .reg 51⟩),
    (2, 0x32A1D53300789000, .cmp ⟨hq, 7, .reg 42, .reg 51, .w16, .gtn⟩), (2, 0x33A1D533007A53C0, .pset ⟨hq, 7, .reg 42, .reg 51, 0xA5, 0x3C⟩),
    (2, 0x34A1C50B00760000, .plog ⟨hq, 7, .andn, 10, 11⟩), (2, 0x40A55533007E4000, .fadd ⟨hq, 21, .reg 42, .reg 51, .f64, .rna⟩),
    (2, 0x41A55533007E4000, .fsub ⟨hq, 21, .reg 42, .reg 51, .f64, .rna⟩), (2, 0x42A55533007E4000, .fmul ⟨hq, 21, .reg 42, .reg 51, .f64, .rna⟩),
    (2, 0x44A55533007E4000, .fdiv ⟨hq, 21, .reg 42, .reg 51, .f64, .rna⟩),
    (2, 0x43A55533387B6000, .ffma ⟨hq, 21, .reg 42, .reg 51, .reg 28, .bf16, .dyn⟩),
    (2, 0x45A55500007C3000, .fsqrt ⟨hq, 21, .reg 42, .f16, .rup⟩), (2, 0x46A55533007D0000, .fmin ⟨hq, 21, .reg 42, .reg 51, .f32⟩),
    (2, 0x47A55533007D0000, .fmax ⟨hq, 21, .reg 42, .reg 51, .f32⟩), (2, 0x48A1D533007E0500, .fcmp ⟨hq, 7, .reg 42, .reg 51, .f64, .ge⟩),
    (2, 0x49A5550000769E00, .fcvt ⟨hq, 21, .reg 42, .n32, .f64, true, .rtz⟩), (2, 0x4AA55500007C0000, .fclass ⟨hq, 21, .reg 42, .f16⟩),
    (2, 0x5022550000700000, .movcb ⟨true, gq, true, 9, .reg 42⟩), (2, 0x5125550000700000, .movq ⟨true, gq, true, 21, .reg 42⟩),
    (2, 0x52A540000079AB00, .csrr ⟨hq, 21, 0x9AB⟩), (2, 0x532015000079AB00, .csrw ⟨true, gq, true, .reg 42, 0x9AB⟩),
    (2, 0xF00009ABCDEF0123, .ximm ⟨0x9ABCDEF0123⟩)] :
    List (Fin 12 × Word × Instr)).all (fun x => decodeSlot x.1 x.2.1 = .ok x.2.2 && encode x.2.2 = some (x.1, x.2.1) && x.2.2.wf) = true := by decide +kernel
/-- The A words (Tables 7.14, 8.12, R177, R216, R217). -/
theorem test_words_a : ([
    (4, 0x01A5451300700000, .aadd ⟨hq, 21, .reg 10, .reg 19⟩), (4, 0x02A545000070ABCD, .aaddi ⟨hq, 21, .reg 10, 0xABCD⟩),
    (4, 0x03A5450000700000, .amov ⟨hq, 21, .reg 10⟩), (4, 0x04A5450000700000, .aget ⟨hq, 21, .reg 10⟩),
    (4, 0x05A5400000700000, .amode ⟨hq, 21, .plain⟩), (4, 0x05A540000076ABCD, .amode ⟨hq, 21, .incr 0x2ABCD⟩),
    (4, 0x05A54500007AABCD, .amode ⟨hq, 21, .modulo (.reg 10) 0x2ABCD⟩), (4, 0x05A54500007C00F3, .amode ⟨hq, 21, .bitrev (.reg 10) 19 7⟩),
    (4, 0x10A545000077ABCD, .lds ⟨hq, 21, .reg 10, .b2, true, true, 0xABCD⟩),
    (4, 0x112005130079ABCD, .sts ⟨true, gq, true, .reg 10, .reg 19, .b4, true, 0xABCD⟩), (4, 0xF00000000000ABCD, .xadr ⟨0xABCD⟩)] :
    List (Fin 12 × Word × Instr)).all (fun x => decodeSlot x.1 x.2.1 = .ok x.2.2 && encode x.2.2 = some (x.1, x.2.1) && x.2.2.wf) = true := by decide +kernel
/-- The V words (Tables 7.15, 9.2–9.6, R226–R230). -/
theorem test_words_v : ([
    (6, 0x01A55533006B0800, .vadd ⟨vq, 21, .reg 42, .reg 51, .n16, true⟩), (6, 0x02A55533006B0800, .vsub ⟨vq, 21, .reg 42, .reg 51, .n16, true⟩),
    (6, 0x03A55533006B0800, .vmul ⟨vq, 21, .reg 42, .reg 51, .n16, true⟩), (6, 0x04A5553300630000, .vmulh ⟨vq, 21, .reg 42, .reg 51, .i16⟩),
    (6, 0x06A5553300630000, .vmin ⟨vq, 21, .reg 42, .reg 51, .i16⟩), (6, 0x07A5553300630000, .vmax ⟨vq, 21, .reg 42, .reg 51, .i16⟩),
    (6, 0x0EA5553300630000, .vshl ⟨vq, 21, .reg 42, .reg 51, .i16⟩), (6, 0x0FA5553300630000, .vshr ⟨vq, 21, .reg 42, .reg 51, .i16⟩),
    (6, 0x10A5553300630000, .vsar ⟨vq, 21, .reg 42, .reg 51, .i16⟩),
    (6, 0x05A55533386D0800, .vmad ⟨vq, 21, .reg 42, .reg 51, .reg 28, .n32, true⟩),
    (6, 0x11A5553338690000, .vclmp ⟨vq, 21, .reg 42, .reg 51, .reg 28, .n8⟩), (6, 0x08A5550000610800, .vabs ⟨vq, 21, .reg 42, .i8, true⟩),
    (6, 0x09A5550000610800, .vneg ⟨vq, 21, .reg 42, .i8, true⟩), (6, 0x0AA5553300650000, .vand ⟨vq, 21, .reg 42, .reg 51⟩),
    (6, 0x0BA5553300650000, .vor ⟨vq, 21, .reg 42, .reg 51⟩), (6, 0x0CA5553300650000, .vxor ⟨vq, 21, .reg 42, .reg 51⟩),
    (6, 0x40A5553300650000, .vperm ⟨vq, 21, .reg 42, .reg 51⟩), (6, 0x0DA5550000650000, .vnot ⟨vq, 21, .reg 42⟩),
    (6, 0x33A5550000650000, .vmov ⟨vq, 21, .reg 42⟩), (6, 0x53A55500007F0000, .vrns ⟨vq, 21, .reg 42⟩),
    (6, 0x54A55500007F0000, .vcrt ⟨vq, 21, .reg 42⟩), (6, 0x20A5553300792000, .vfadd ⟨vq, 21, .reg 42, .reg 51, .f16, .rdn⟩),
    (6, 0x21A5553300792000, .vfsub ⟨vq, 21, .reg 42, .reg 51, .f16, .rdn⟩),
    (6, 0x22A5553300792000, .vfmul ⟨vq, 21, .reg 42, .reg 51, .f16, .rdn⟩),
    (6, 0x23A55533387D4000, .vfma ⟨vq, 21, .reg 42, .reg 51, .reg 28, .f64, .rna⟩),
    (6, 0x24A5553300770000, .vfmin ⟨vq, 21, .reg 42, .reg 51, .bf16⟩), (6, 0x25A5553300770000, .vfmax ⟨vq, 21, .reg 42, .reg 51, .bf16⟩),
    (6, 0x26A55500007D0000, .vfabs ⟨vq, 21, .reg 42, .f64⟩), (6, 0x27A55500007D0000, .vfneg ⟨vq, 21, .reg 42, .f64⟩),
    (6, 0x30A1D53300650400, .vcmp ⟨vq, 7, .reg 42, .reg 51, .len⟩), (6, 0x31A1D533007D0180, .vfcmp ⟨vq, 7, .reg 42, .reg 51, .f64, .un⟩),
    (6, 0x32A5553300650480, .vsel ⟨vq, 21, 9, .reg 42, .reg 51⟩), (6, 0x34A55500006101A5, .vbcast ⟨vq, 21, .reg 42, .i8, 0x1A5⟩),
    (6, 0x35A5553300650055, .vext ⟨vq, 21, .reg 42, .reg 51, 0x55⟩), (6, 0x36A54000006B05A5, .viota ⟨vq, 21, .n16, 0x5A5⟩),
    (6, 0x41A5550000650055, .vrot ⟨vq, 21, .reg 42, 0x55⟩), (6, 0x42A5550000650305, .vshuf ⟨vq, 21, .reg 42, .clx, 5⟩),
    (6, 0x48A55500006D0280, .vred ⟨vq, 21, .reg 42, .max, true, .n32, .rne⟩),
    (6, 0x49A55500007B3000, .vscan ⟨vq, 21, .reg 42, .add, false, .f32, .rup⟩),
    (6, 0x50A5550000615F00, .vcvt ⟨vq, 21, .reg 42, .i8, .f64, true, .sr⟩),
    (6, 0x51A5550000650AC0, .vpack ⟨vq, 21, .reg 42, .i32, .w8, 3, true⟩), (6, 0x52A5550000690540, .vunpk ⟨vq, 21, .reg 42, .n8, .w4, 5⟩),
    (6, 0x60A55500007B1000, .vexp2 ⟨3, .two, true, 2, 21, .reg 42, .f32, .rtz⟩),
    (6, 0x61A55500007B1000, .vlog2 ⟨3, .two, true, 2, 21, .reg 42, .f32, .rtz⟩),
    (6, 0x62A55500007B1000, .vrcp ⟨3, .two, true, 2, 21, .reg 42, .f32, .rtz⟩),
    (6, 0x63A55500007B1000, .vrsq ⟨3, .two, true, 2, 21, .reg 42, .f32, .rtz⟩),
    (6, 0x64A55500007B1000, .vtanh ⟨3, .two, true, 2, 21, .reg 42, .f32, .rtz⟩)] :
    List (Fin 12 × Word × Instr)).all (fun x => decodeSlot x.1 x.2.1 = .ok x.2.2 && encode x.2.2 = some (x.1, x.2.1) && x.2.2.wf) = true := by decide +kernel
/-- The VM words (Tables 7.16, 9.9, 9.10). -/
theorem test_words_vm : ([
    (7, 0x01A54000006104E0, .vld ⟨mq, 21⟩), (7, 0x01254000006104E8, .vldFeC ⟨mq0, 21⟩), (7, 0x01254000006104F0, .vldFeK ⟨mq0, 21⟩),
    (7, 0x10A54000006104E0, .accrd ⟨mq, 21⟩), (7, 0x02201500006104E0, .vst ⟨mq0, .reg 42⟩), (7, 0x02201500006104E8, .vstF ⟨mq0, .reg 42⟩),
    (7, 0x02201500006104F0, .vstE ⟨mq0, .reg 42⟩), (7, 0x11201500006104E0, .accwr ⟨mq0, .reg 42⟩),
    (7, 0x03A54000007304FC, .vlds ⟨mq, 21, .e5m2, 28⟩), (7, 0x04201500007F04FC, .vsts ⟨mq0, .reg 42, .rns16, 28⟩),
    (7, 0x05A54033006D04E0, .vgth ⟨mq, 21, .reg 51, .n32⟩), (7, 0x06201533006304E0, .vsct ⟨mq0, .reg 42, .reg 51, .i16⟩),
    (7, 0x18200000006104E0, .feset ⟨mq0⟩), (7, 0x19200000006104E0, .feclr ⟨mq0⟩), (7, 0x1A21C000006104E0, .feprob ⟨mq0, 7⟩)] :
    List (Fin 12 × Word × Instr)).all (fun x => decodeSlot x.1 x.2.1 = .ok x.2.2 && encode x.2.2 = some (x.1, x.2.1) && x.2.2.wf) = true := by decide +kernel
/-- The CB and SC words (Tables 7.17, 10.1, 10.6). -/
theorem test_words_cb : ([
    (8, 0x01000000007A5513, .tmma ⟨gq, 0xA5, true, 19⟩), (8, 0x02000000007A5513, .tmmas ⟨gq, 0xA5, true, 19⟩),
    (8, 0x01000000007A5700, .tmmaPkg ⟨gq, 0xA5, true⟩), (8, 0x01000000007A5900, .tmmaGang ⟨gq, 0xA5, true⟩),
    (8, 0x03000000007A5500, .tmmaP ⟨gq, 0xA5, true⟩), (8, 0x0800000000715413, .tzero ⟨gq, 21, 19⟩), (8, 0x0A00000000715413, .tload ⟨gq, 21, 19⟩),
    (8, 0x0900000000715453, .tdrain ⟨gq, 21, 19, .f16⟩), (8, 0x0B00000000700400, .ttrn ⟨gq⟩),
    (8, 0x0C000000007A5453, .tjoin ⟨gq, 0xA5, .rns16, 19⟩), (8, 0x0C000000007A5533, .tjoinSum ⟨gq, 0xA5, .i32, 19⟩),
    (8, 0x1000000000700400, .tstop ⟨gq, .crown⟩), (8, 0x1100000000700600, .tres ⟨gq, .package⟩), (8, 0x1205400000700800, .tprog ⟨gq, .gang, 21⟩),
    (9, 0x0100150000714F00, .scw ⟨gq, .reg 42, 2, 19, true, true⟩), (9, 0x02000000007A5100, .scs ⟨gq, 0xA5, true⟩),
    (9, 0x0300000000700000, .scz ⟨gq⟩), (9, 0x0400000000700003, .scsel ⟨gq, 3⟩)] :
    List (Fin 12 × Word × Instr)).all (fun x => decodeSlot x.1 x.2.1 = .ok x.2.2 && encode x.2.2 = some (x.1, x.2.1) && x.2.2.wf) = true := by decide +kernel
/-- The CP words (Tables 7.18, 11.1, 11.9). -/
theorem test_words_cp : ([
    (10, 0x01000000007B8758, .cpy ⟨gq, 11, .acq, 3, 21, true⟩), (10, 0x03000000007B8758, .cpyx ⟨gq, 11, .acq, 3, 21, true⟩),
    (10, 0x04000000007B8758, .cpyf ⟨gq, 11, .acq, 3, 21, true⟩), (10, 0x02000000007B0758, .cpyw ⟨gq, 11, 3, 21, true⟩),
    (10, 0x10000000007AE6E8, .amoAdd ⟨gq, 10, .rel, 19, .n64, true⟩), (10, 0x11000000007AE6E8, .amoMin ⟨gq, 10, .rel, 19, .n64, true⟩),
    (10, 0x12000000007AE6E8, .amoMax ⟨gq, 10, .rel, 19, .n64, true⟩), (10, 0x13000000007AE6E8, .amoAnd ⟨gq, 10, .rel, 19, .n64, true⟩),
    (10, 0x14000000007AE6E8, .amoOr ⟨gq, 10, .rel, 19, .n64, true⟩), (10, 0x15000000007AE6E8, .amoXor ⟨gq, 10, .rel, 19, .n64, true⟩),
    (10, 0x16000000007AE6E8, .amoSwp ⟨gq, 10, .rel, 19, .n64, true⟩), (10, 0x17000000007A66F0, .amoCas ⟨gq, 10, .strong, 19, .n64, true, false⟩),
    (10, 0x18000000007A2768, .amoFaddx ⟨gq, 10, .weak, 19, .bf16, true⟩), (10, 0x20000000007A6600, .flushx ⟨gq, 10, .strong, 19⟩),
    (10, 0x21000000007A2600, .pfh ⟨gq, 10, 19⟩), (10, 0x22000000007A2600, .migr ⟨gq, 10, 19⟩), (10, 0x28054000007A0000, .cpq ⟨gq, 21, 10⟩),
    (10, 0x290000000079AB00, .cpstop ⟨gq, 0x9AB⟩), (10, 0x2A0000000079AB00, .cpres ⟨gq, 0x9AB⟩)] :
    List (Fin 12 × Word × Instr)).all (fun x => decodeSlot x.1 x.2.1 = .ok x.2.2 && encode x.2.2 = some (x.1, x.2.1) && x.2.2.wf) = true := by decide +kernel
/-- The SY words (Tables 7.19, 11.11, 11.12, R286–R295). -/
theorem test_words_sy : ([
    (11, 0x010000000079D280, .bari ⟨gq, 19, 0xA5⟩), (11, 0x0200000000798000, .bara ⟨gq, 19⟩),
    (11, 0x030015000079DABC, .barx ⟨gq, 19, 42, 0x5ABC⟩), (11, 0x040000000079C000, .barw ⟨gq, 19, true⟩),
    (11, 0x0800000000700000, .phaseCommit ⟨gq⟩), (11, 0x0800000000700001, .phaseOn ⟨gq⟩), (11, 0x0800000000700002, .phaseOff ⟨gq⟩),
    (11, 0x0900000000700000, .cbwait ⟨gq⟩), (11, 0x1000000000700000, .fenceAcq ⟨gq⟩), (11, 0x1000000000740000, .fenceRel ⟨gq⟩),
    (11, 0x1000000000780000, .fenceFull ⟨gq⟩), (11, 0x3000000000700000, .gangc ⟨gq⟩), (11, 0x3100000000700000, .yield ⟨gq⟩),
    (11, 0x110000000079AB00, .fenceq ⟨gq, 0x9AB⟩), (11, 0x18001500007D0000, .tpost ⟨gq, 42, 13⟩),
    (11, 0x190000000079ABCD, .evinc ⟨gq, 0x9AB, 0xCD⟩), (11, 0x1A0015000079AB00, .evwait ⟨gq, 42, 0x9AB⟩),
    (11, 0x2000153300780000, .tlbi ⟨gq, .page, 42, 51⟩), (11, 0x210000000079AB00, .sldrain ⟨gq, 0x9AB⟩),
    (11, 0x280000000070ABCD, .trcon ⟨gq, 0xABCD⟩), (11, 0x290000000070ABCD, .trcoff ⟨gq, 0xABCD⟩), (11, 0x2A05400000700025, .pmrd ⟨gq, 21, 37⟩),
    (11, 0x2B05400000700000, .enrd ⟨gq, 21⟩)] :
    List (Fin 12 × Word × Instr)).all (fun x => decodeSlot x.1 x.2.1 = .ok x.2.2 && encode x.2.2 = some (x.1, x.2.1) && x.2.2.wf) = true := by decide +kernel
/-- R190: the word 0 is NOP in every slot. -/
theorem test_nop : ∀ sl : Fin 12, decodeSlot sl 0 = .ok (.nop sl) ∧ encode (.nop sl) = some (sl, 0) := by decide +kernel

/-! ### States -/
/-- A task record whose context has four accumulator slots, two 64 KiB blocks of the west face and four of the south. -/
def tr0 : Vector Word 8 := #v[0x1000, 0, 0x1000, 0x100000800, 0, 0, 0, 0]
/-- Its context. -/
def ctx0 : Ctx := { pool := 0, ent := 0, dx := 0, dy := 0, org := 0, tr := tr0 }
/-- A machine whose crown 0 runs that context. -/
def crown (f : UnitSt → UnitSt := id) : State := State.reset.setUnit 0 (f { status := .running, ctx := some ctx0 })
/-- A machine whose brim core runs it. -/
def brimS (f : UnitSt → UnitSt := id) : State := { State.reset.setUnit 8 (f { status := .running, ctx := some ctx0 }) with cur := 8 }
/-- A unit with s[n] changed. -/
def withS (n : Fin 64) (v : Word) (x : UnitSt) : UnitSt := { x with regs := x.regs.ws n v }
/-- A unit with p[n] changed. -/
def withP (n : PReg) (v : Mask) (x : UnitSt) : UnitSt := { x with regs := x.regs.wp n (BitVec.allOnes 128) v }
/-- A unit with a[n] changed. -/
def withA (n : Fin 32) (v : BitVec 32) (x : UnitSt) : UnitSt := { x with regs := { x.regs with a := x.regs.a.set n { val := v } } }
/-- The unit that an outcome leaves at an index. -/
def after (o : Host.Outcome State Fault Refusal) (u : UnitId) : UnitSt := match o with | .next t => t.unit u | _ => {}

theorem performs_on (s : State) (h : s.me.guardOn .none on = true) : s.performs .none on := ⟨h, fun _ e => by cases e⟩
theorem room_none (s : State) : s.room .none := fun _ e => by cases e

/-! ### Single steps -/
/-- R205: 2^63 − 1 + 1 with SAT stays at the greatest signed value; one result is in flight for the next schedule cycle. -/
theorem test_add_saturates : ((after (exec (.add ⟨sh, 5, .reg 5, .reg 6, .w64, false, true⟩)
    (crown (withS 5 0x7FFFFFFFFFFFFFFF ∘ withS 6 1))) 0).seq.flights.map fun f => (f.due, f.val.toNat)) = [(1, 0x7FFFFFFFFFFFFFFF)] := by
  decide +kernel
/-- The example of R216: uses of a1 in bit-reversed order from 0x4000. -/
theorem test_bit_reverse : (List.range 4).map (fun i => ((({ val := BitVec.ofNat 32 i, md := { mode := 3, base := 0x4000, k := 8, esh := 2 } } : AReg).ea).toNat)) =
    [0x4000, 0x4200, 0x4100, 0x4300] := by decide +kernel
/-- R193, Table 18.7: a mixed predicate traps with the number of ones; TCAUSE1 holds the code and PC is at ENTRY + 16. -/
theorem test_mixed_branch : let y := after (exec (.bT ⟨on, 6, 1⟩) (crown (withP 1 0x7))) 0
    (y.trap.tl = 1 ∧ fld (y.trap.cause[0]) 0 8 = 0x08 ∧ y.trap.tval[0] = 3 ∧ y.seq.pc = 0x1010) := by decide +kernel
/-- R285: the arrival that completes a barrier flips its phase and clears the count. -/
theorem test_barrier_flips : (after (exec (.bara ⟨on, 2⟩)
    (crown fun x => { x with bars := x.bars.set 2 { expect := 1 } })) 0).bars[2] = { expect := 1, phase := true } := by decide +kernel
/-- R85: a result for s0 is discarded. -/
theorem test_s0_discards : ((crown.land 0 ⟨0, 1, .s 0, 0, BitVec.allOnes 128, 7, none⟩).unit 0).regs.s[0] = 0 := by decide +kernel
/-- R207: the remainder keeps the sign of the dividend: −7 rem 2 = −1, at latency 18. -/
theorem test_rem_sign : ((after (exec (.rem ⟨sh, 4, .reg 1, .reg 2, .w32⟩) (crown (withS 1 0xFFFFFFFFFFFFFFF9 ∘ withS 2 2))) 0).seq.flights.map
    fun f => (f.due, f.val.toNat)) = [(18, 0xFFFFFFFFFFFFFFFF)] := by decide +kernel
/-- R91, R233, R97: a store with FE sets the bits of its granule and a later read gives the byte back. -/
theorem test_scratch_store : let t := scrStore {} [(17, 0xAB)] (some true)
    ((granAt t 16).full = true ∧ scrByte t 17 = 0xAB ∧ scrByte t 18 = 0 ∧ (granAt t 0).full = false) := by decide +kernel
/-- R114: a write to memory reads back, and its canonical form drops zeros. -/
theorem test_memory_write : let d := State.reset.dev.write 0x20000000000 [1, 0, 3]
    (d.mem.cells = [(0x20000000000, 1), (0x20000000002, 3)] ∧ d.byte 0x20000000002 = 3) := by decide +kernel
/-- R376: the bundle placed at PC runs as the next step. -/
theorem test_step_runs_word : (after (step (State.reset.withFetchWord 128 (0x0101428600000000 * 2 ^ 64 + 2))) 0).seq.pc = 16 := by
  decide +kernel

/-! ### States that meet the hypotheses of the statements: one theorem a statement, one conjunct a clause -/

theorem witness_ScalarArithmeticAndDivision : crown.performs .none on ∧
    operandInt false ((crown (withS 6 (-1))).opnd .none .w8 (.reg 6)) ≠ 0 ∧ crown.opnd .none .w8 (.reg 6) = 0 ∧
    (crown.me.guardOn .one on = true ∧ ∀ l, crown.me.boostCount l < 8) :=
  ⟨performs_on _ (by decide +kernel), by decide +kernel, by decide +kernel, by decide +kernel⟩
theorem witness_ScalarLogicShiftsAndCounts : crown.performs .none on ∧ (crown (withS 5 0)).opnd .none .w16 (.reg 5) = 0 :=
  ⟨performs_on _ (by decide +kernel), by decide +kernel⟩
theorem witness_ScalarImmediatesAndBitFields : (crown (withS 5 3)).performs sh.bst sh.g := performs_on _ (by decide +kernel)
theorem witness_ScalarPredicates : (crown (withS 5 127)).performs sh.bst sh.g := performs_on _ (by decide +kernel)
theorem witness_ScalarFloat : crown.performs .none on ∧ crown.me.drmBad .rne = false ∧
    (crown fun x => { x with fp := { x.fp with vctl := 5 } }).me.drmBad .dyn = true ∧
    (crown fun x => { x with fp := { x.fp with vctl := 5 } }).me.guardOn .none on = true :=
  ⟨performs_on _ (by decide +kernel), by decide +kernel, by decide +kernel, by decide +kernel⟩
theorem witness_VectorInteger : crown.room .none ∧ Fmt.i8.inIW = true ∧ Fmt.n32.inIW = true := ⟨room_none _, rfl, rfl⟩
theorem witness_VectorLogicAndMovement : crown.room vh.bst ∧ Fmt.i16.inIW = true := ⟨room_none _, rfl⟩
theorem witness_VectorFloat : crown.room vh.bst ∧ Fmt.f64.inFA = true ∧ Fmt.bf16.inSpec = true ∧ crown.me.drmBad .rna = false :=
  ⟨room_none _, rfl, rfl, by decide +kernel⟩
theorem witness_VectorReductions : crown.room vh.bst ∧ crown.me.drmBad .rne = false := ⟨room_none _, by decide +kernel⟩
theorem witness_VectorConversions : crown.room vh.bst ∧ (-31248 : Int) ≤ -31248 ∧ (31247 : Int) ≤ 31247 := ⟨room_none _, by decide, by decide⟩
theorem witness_PrefixesStagingAndCsrAccess : stickyIdx 0 = none ∧ stickyIdx 9 = some 3 ∧ crown.performs .none on ∧
    csrExists false 0 = true ∧ csrExists false 0xFFF = false ∧ (fld (crown (withS 5 6)).me.regs.s[5] 0 3).toNat = 6 ∧
    (∃ n, n ≠ 0 ∧ csrExists false n = true ∧ csrPriv n = true) ∧ (crown.desc 0).priv = false ∧
    (let f : Flight := ⟨0, 1, .csr 0x91, 0, BitVec.allOnes 128, 7, none⟩
     f.dst = .csr 0x91 ∧ f.latch = none) ∧ crown.dev.hbmcfg.getLsbD 0 = false ∧ (crown.modDev fun d => { d with hbmcfg := 1 }).dev.hbmcfg.getLsbD 0 = true ∧
    (let x := (crown fun x => { x with ck := { x.ck with ixsel := 0x4000017F } }).me
     (0 : UnitId) ≠ brim ∧ fld x.ck.ixsel 30 2 = 1 ∧ (fld x.ck.ixsel 0 16).toNat < 384 ∧ smWf 0 x.cfg.qostab = true) :=
  ⟨rfl, rfl, performs_on _ (by decide +kernel), by decide, by decide, by decide +kernel, ⟨0x80, by decide⟩, by decide +kernel, by decide +kernel⟩
theorem witness_AddressRegistersAndScratchAccess : crown.performs .none on ∧ (0x20 : BitVec 18).toInt.natAbs < (0x40 : BitVec 32).toNat ∧
    (0 : BitVec 32).toNat ≤ (0 : BitVec 18).toInt.natAbs ∧ (0x1FFFC % 4 = 0 ∧ crown.me.inRes false 0x1FFFC 4 = true) ∧
    (0x2000000 % 4 = 0 ∧ crown.me.inRes false 0x2000000 4 = true) ∧ crown.me.inRes false 0x20000 4 = false :=
  ⟨performs_on _ (by decide +kernel), by decide, by decide, by decide +kernel, by decide +kernel, by decide +kernel⟩
theorem witness_Branches : crown.me.guardOn .none on = true ∧
    (List.range 128).countP (fun i => (crown.me.rdP .none 0).getLsbD i) = 128 ∧
    (List.range 128).countP (fun i => (crown.me.rdP .none 1).getLsbD i) = 0 ∧
    (List.range 128).countP (fun i => ((crown (withP 1 1)).me.rdP .none 1).getLsbD i) = 1 ∧
    ((crown (withS 5 0xFFFFFFFFFFFFF8)).me.rdS .none 5).toNat % 8 = 0 ∧ ((crown (withS 5 0xFFFFFFFFFFFFF8)).me.rdS .none 5).toNat < 2 ^ 56 ∧
    ((crown (withS 5 4)).me.rdS .none 5).toNat % 8 ≠ 0 := by decide +kernel
/-- A loop entry. -/
def ent (n : BitVec 32) (e : BitVec 3) (endA : BitVec 56) : LoopEnt := ⟨true, 3, e, n, 0x40, endA⟩
theorem witness_Loops : crown.me.guardOn .none on = true ∧
    (crown fun x => { x with seq := { x.seq with loops := List.replicate 6 (ent 1 0 8) } }).me.seq.loops.length = 6 ∧
    ((crown fun x => { x with seq := { x.seq with loops := [ent 1 0 0] } }).me.seq.loops.getLast?.map (·.endA)) = some crown.me.seq.pc ∧
    (1 * 8 < crown.bundleLen ∧ ¬(2 * 8 < crown.bundleLen) ∧ crown.me.seq.loops = []) := by decide +kernel
/-- A crown with a transfer pending and one loop entry, its bundle of 16 bytes at address 0 in the I-cache. -/
def ends (br : Option BrAct) (l : List LoopEnt) : State :=
  crown fun x => { x with seq := { x.seq with br := br, loops := l }, es := { x.es with icache := x.placeBundle 0 2 } }
theorem witness_AfterTheBundle : (ends (some (.goto 8)) []).me.seq.br = some (.goto 8) ∧
    (ends (some (.push false 0 0 0 0)) []).lenAt 0 0 = some 16 ∧ (ends (some (.push false 0 0 0 0)) []).lenAt 0 0x1000 = none ∧ (ends (some .lexit) [ent 1 0 0]).lenAt 0 0 = some 16 ∧
    (ends none [ent 1 0 8]).me.seq.loops.getLast? = some (ent 1 0 8) ∧ (ends none [ent 1 0 0]).me.seq.pc = (ent 1 0 0).endA ∧
    (ent 0 1 0).epi ≠ 0 ∧ (ent 0 0 0).count = 0 := by decide +kernel
/-- A boosted operation outstanding, with or without a held fault. -/
def boosted (l : Bool) (f : Option (BitVec 8 × Word)) : BoostEnt := ⟨l, ⟨3, 1, .s 4, 1, BitVec.allOnes 128, 9, none⟩, 0, f⟩
theorem witness_BoostResolution : crown.me.guardOn .none on = true ∧
    [boosted true none, boosted false (some (cDIV_ZERO, 1))].find? (fun e => !e.lvl && e.fault.isSome) = some (boosted false (some (cDIV_ZERO, 1))) ∧
    (∀ e ∈ [boosted false none, boosted true (some (cDIV_ZERO, 1))], e.lvl = false → e.fault = none) := by decide +kernel
/-- A crown in trap level 1, entered at loop depth 0 from an address. -/
def inTrap (epc : BitVec 56) (b : List BoostEnt) (f : UnitSt → UnitSt := id) : State :=
  crown fun x => f { x with trap := { x.trap with tl := 1, epc := x.trap.epc.set 0 epc }, seq := { x.seq with boost := b } }
theorem witness_ExitTrapAndWait : crown.me.guardOn .none on = true ∧ crown.me.trap.tl = 0 ∧ (inTrap 8 []).me.trap.tl = 1 ∧
    (fld ((inTrap 8 []).me.trap.cause[0]) 18 3).toNat = (inTrap 8 []).me.seq.loops.length ∧ (inTrap 8 [boosted false none]).me.seq.boost ≠ [] ∧
    (inTrap 4 []).me.trap.epc[0].toNat % 8 ≠ 0 ∧ (inTrap 8 []).me.trap.epc[0].toNat % 8 = 0 ∧
    (inTrap 8 [] fun x => { x with seq := { x.seq with loops := [ent 1 0 0] } }).me.seq.loops.length ≠ 0 ∧
    ((crown fun x => { x with es := { x.es with eng := x.es.eng.set 3 { x.es.eng[3] with q := [{ id := 0, kind := .cmd }] } } }).me.es.eng[3]).q.length = 1 := by
  decide +kernel
/-- A crown whose mask p1 has lane 3 alone. -/
def lane3 (f : UnitSt → UnitSt := id) : State := crown (f ∘ withP 1 8 ∘ withA 1 0x1F0)
/-- A VM operation of that lane. -/
def mh3 : MHd := ⟨1, .none, false, 0, 1, false⟩
theorem witness_VectorLoadsAndStores : lane3.room mh3.bst ∧ lane3.rowOk false mh3 ∧ lane3.rowOk true mh3 ∧
    lane3.bytesOk true 1 [(3, 0x1FFFF)] ∧ Fmt.e4m3.bits = 8 ∧ gransOf ((lane3.vmRow mh3).map Prod.snd) = [31] ∧
    (smGet ({} : Gran) (lane3 fun x => { x with st := { x.st with face := [(31, { full := true })] } }).me.st.face 31).full = true ∧
    (smGet ({} : Gran) lane3.me.st.face 31).full = false := by
  refine ⟨room_none _, ?_, ?_, ?_, rfl, ?_⟩
  · unfold State.rowOk State.bytesOk; decide +kernel
  · unfold State.rowOk State.bytesOk; decide +kernel
  · unfold State.bytesOk; decide +kernel
  · decide +kernel
theorem witness_FullEmptyBitsAndAccessFaults : ¬(crown (withP 1 8 ∘ withA 1 8)).rowOk false mh3 ∧ lane3.rowOk false mh3 ∧ lane3.room mh3.bst ∧
    ¬(crown (withP 1 8 ∘ withA 1 0x20000)).rowOk true mh3 ∧
    (∀ wb, ¬(crown (withP 1 8 ∘ withA 1 3)).bytesOk wb (Fmt.i16.bits / 8) [(3, 3)]) ∧ ¬lane3.bytesOk false (Fmt.f32.bits / 8) [(3, 0x4000000)] := by
  refine ⟨?_, ?_, room_none _, ?_, ?_, ?_⟩ <;> try unfold State.rowOk
  all_goals (unfold State.bytesOk; decide +kernel)
theorem witness_AccumulatorRowsAndScaleLatches : crown.room mh.bst ∧ (crown (withA 1 0x1FF)).vmBase mh = 0x1FF ∧ crown.me.accn = 4 ∧
    crown.me.st.accPoison = [] ∧ crown.vmMask mh ≠ 0 ∧ crown.vmMask ⟨1, .none, false, 0, 1, false⟩ = 0 ∧
    crown.me.accn ≤ (crown (withA 1 0x200)).vmBase mh / 128 ∧ 4096 ≤ (crown (withA 1 0x1000)).vmBase mh ∧
    crown.me.guardOn .none on = true ∧ ((crown (withA 6 0x180)).me.rdA .none 6).ea.toNat % 512 % 128 = 0 ∧
    ((crown (withA 6 64)).me.rdA .none 6).ea.toNat % 512 % 128 ≠ 0 := by
  refine ⟨room_none _, ?_⟩; decide +kernel
/-- A crown whose staging registers hold the matrix product of the example of chapter 10, its operands in the weight buffer. -/
def cubeS (f : UnitSt → UnitSt := id) : State :=
  crown fun x => f { x with regs := { x.regs with cb := #v[0x000000C004000000, 0x40, 0x000000C004400000, 0x40, 0x0000004000010001, 0xBB,
    0, 0, 0, 0, 0, 0, 0, 0, 0, 0] } }
/-- Its command. -/
def mmaCmd : CubeCmd := { id := 0, hdr := 0x01000000000FF500, cb := cubeS.me.regs.cb, t := 0 }
theorem witness_CrownCubeCommands :
    let x := cubeS.me
    let h := wordOf (.tmma ⟨on, 0xFF, true, 0⟩)
    let cb := x.regs.cb
    (x.guardOn .none on = true ∧ isBrim cubeS.cur = false ∧ snapIllegal h cb = false ∧ x.phase.on = false ∧ snapShape h cb = false ∧
      (snapRange x h cb).isSome = false ∧ hdrAcc h + slotsOf h cb ≤ Nat.min 32 x.accn ∧ snapBanks h cb = false ∧ x.cube.deliv = [] ∧
      x.cube.cmds = [] ∧ x.busy (x.cube.cmd h cb x.cube.scsel x.ck.run x.trap.tl) = false ∧ x.cube.stopped = none) ∧ isBrim brimS.cur = true := by decide +kernel
/-- Staging registers like those of chapter 17, for one block of e2m1 staged at the start of both faces. -/
def pkgCb : Snap := #v[0x40000, 0x50000, 0x60000, 0x0000006000000060, 0x0000006000010001, 0xAA,
    0x0000006000000400, 0, 0x0200000000000000, 0x8000, 0x0001005002010000, 0, 0, 0, 0, 0]
/-- A brim core that drives a task on crowns 0 and 1. -/
def pkgS (p : Option PkgCmd := none) : State :=
  let kid := fun (dx : BitVec 2) (x : UnitSt) => { x with status := .running, ctx := some { ctx0 with pool := 2, ent := 1, dx := dx } }
  let s := ((brimS fun x => { x with regs := { x.regs with cb := pkgCb } }).modUnit 0 (kid 0)).modUnit 1 (kid 1)
  s.modDev fun d => { d with
    pkg := p,
    sched := { d.sched with
      desc := d.sched.desc.set 0 { w2 := 0xFFF000 },
      ents := [{ pool := 2, ent := 1, st := .resident, units := [0, 1], left := [0, 1], brimOf := some (0, 0), tr := tr0 }] } }
theorem setIns_last (l : List Nat) (x : Nat) (h : ∀ y ∈ l, y < x) : setIns l x = l ++ [x] := by
  induction l with
  | nil => rfl
  | cons y l ih =>
    have hy := h y (by simp)
    simp [setIns, Nat.ne_of_gt hy, Nat.not_lt.mpr (Nat.le_of_lt hy), ih fun z hz => h z (by simp [hz])]
theorem setIns_sorted (l p : List Nat) (h : (p ++ l).Pairwise (· < ·)) : l.foldl setIns p = p ++ l := by
  induction l generalizing p with
  | nil => simp
  | cons x l ih =>
    have hx : setIns p x = p ++ [x] := setIns_last p x fun y hy => (List.pairwise_append.1 h).2.2 y hy x (by simp)
    rw [List.foldl_cons, hx, ih _ (by simpa using h)]
    simp
/-- Lines among fewer than 129 consecutive ones, in rising order, fall in distinct pairs. -/
theorem distinctLines_sublist (a n : Nat) (h : n ≤ 128) {l : List Nat} (hl : l.Sublist (List.range' a n)) : distinctLines l = true := by
  have hs : l.Pairwise (· < ·) := List.Pairwise.sublist hl List.pairwise_lt_range'
  simp only [distinctLines, setIns_sorted l [] (by simpa using hs), List.nil_append]
  refine decide_eq_true (List.Nodup.map_on (fun x hx y hy e => ?_) (hs.imp fun h => Nat.ne_of_lt h))
  have hx := hl.subset hx
  have hy := hl.subset hy
  simp [List.mem_range'_1] at hx hy
  omega
/-- Consecutive lines meet no conflict in either face. -/
theorem faceLines_range (a n : Nat) (h : n ≤ 128) : faceLinesOk (List.range' a n) = true := by
  simp only [faceLinesOk, distinctLines_sublist a n h List.filter_sublist, Bool.and_self]
/-- A drain of one slot to consecutive rows meets no bank conflict. -/
theorem drain_noConflict (h : Word) (cb : Snap) (b : Nat) (hk : tkind h = .drain) (rb : rowBytes h = 512) (hn : hdrN h = 1)
    (ho : Snap.opnd cb 0 1 0 = ⟨64 * b, 512, 0, 65536⟩)
    (e : ∀ g < 8, ((List.range 16).flatMap fun r => (⟨64 * b, 512, 0, 65536⟩ : Opnd).lines 0 (g * 16 + r) 512) = List.range' (b + 128 * g) 128) :
    snapBanks h cb = false := by
  simp only [snapBanks, ho, hk, rb, hn, moveLinesOk, Bool.not_eq_false', List.all_eq_true, List.mem_range, Nat.lt_one_iff, Nat.reduceDiv,
    Nat.reduceMul]
  rintro i rfl g hg
  rw [e g hg, faceLines_range _ _ (Nat.le_refl _)]
/-- A package of one child meets no bank conflict when none of its commands does. -/
theorem pkgBank_noConflict (s : State) (h : Word) (cb : Snap) (c : Child) (hk : Snap.kids cb = [c])
    (hg : (pkgGiven h cb c).any (fun g => snapBanks g.1 g.2) = false) : s.pkgBank h cb = false := by
  simp only [State.pkgBank, State.overKids, hk, hg, Bool.false_eq_true, if_false, List.findSome?_cons, List.findSome?_nil]
  cases s.driven with
  | none => rfl
  | some t => simp
theorem pkgCb_banks : (pkgGiven (wordOf (.tmmaPkg ⟨on, 0xFF, true⟩)) pkgCb ⟨0, 0, 0, 1, 0, 1⟩).any (fun g => snapBanks g.1 g.2) = false := by
  have hg : pkgGiven (wordOf (.tmmaPkg ⟨on, 0xFF, true⟩)) pkgCb ⟨0, 0, 0, 1, 0, 1⟩ =
      [(pkgTmma (wordOf (.tmmaPkg ⟨on, 0xFF, true⟩)) pkgCb 0, pkgSnap pkgCb ⟨0, 0, 0, 1, 0, 1⟩ 0),
       (pkgDrain pkgCb ⟨0, 0, 0, 1, 0, 1⟩, pkgDrainSnap pkgCb)] := by decide +kernel
  have hm : snapBanks (pkgTmma (wordOf (.tmmaPkg ⟨on, 0xFF, true⟩)) pkgCb 0) (pkgSnap pkgCb ⟨0, 0, 0, 1, 0, 1⟩ 0) = false := by decide +kernel
  have hd : snapBanks (pkgDrain pkgCb ⟨0, 0, 0, 1, 0, 1⟩) (pkgDrainSnap pkgCb) = false :=
    drain_noConflict _ _ 525312 (by decide +kernel) (by decide +kernel) (by decide +kernel) (by decide +kernel) (by decide +kernel)
  rw [hg]
  simp only [List.any_cons, List.any_nil, hm, hd, Bool.or_self]
theorem pkgS_banks : pkgS.pkgBank (wordOf (.tmmaPkg ⟨on, 0xFF, true⟩)) (pkgS.pkgEff (wordOf (.tmmaPkg ⟨on, 0xFF, true⟩)) pkgS.me.regs.cb) = false := by
  have hd : pkgS.pkgEff (wordOf (.tmmaPkg ⟨on, 0xFF, true⟩)) pkgS.me.regs.cb = pkgCb := by decide +kernel
  rw [hd]
  exact pkgBank_noConflict _ _ _ ⟨0, 0, 0, 1, 0, 1⟩ (by decide +kernel) pkgCb_banks
theorem witness_PackageCommandsAndControl :
    (let s := pkgS
     let x := s.me
     let h := wordOf (.tmmaPkg ⟨on, 0xFF, true⟩)
     let cb := x.regs.cb
     let e := s.pkgEff h cb
     (x.guardOn .none on = true ∧ isBrim s.cur = true ∧ pkgIllegal cb = false ∧ pkgShape cb = false ∧ s.pkgRange h e = none ∧ s.pkgAcc e = none ∧
       s.pkgBank h e = false ∧ x.cube.deliv = [] ∧ x.cube.cmds = [] ∧ s.dev.pkgBusy = false ∧ s.dev.pkgStopped = false ∧ s.placesOk cb = true ∧
       (s.desc s.cur).inRange (Snap.f cb 10 32 16) = true)) ∧
    (let p : PkgCmd := { hdr := 0, cb := pkgCb }
     let s := fun p => pkgS (some p)
     pkgS.dev.pkg = none ∧ (s p).cur = brim ∧ (s p).me.cube.deliv = [] ∧ (s p).me.cube.cmds = [] ∧ (s p).me.guardOn .none on = true ∧
       (s p).me.flag2 21 = false ∧ (TileLvl.package ≠ .crown ∧ TileLvl.package ≠ .gang) ∧ p.done = false ∧ p.stopped = false ∧
       ({ p with done := true } : PkgCmd).done = true ∧ ({ p with stopped := true } : PkgCmd).stopped = true ∧ p.u < 2 ^ 16) ∧
    (cubeS.cur ≠ brim ∧ isProduct mmaCmd = true ∧ mmaCmd.last = none ∧ stopLimit mmaCmd 0 < stepsOf mmaCmd.hdr mmaCmd.cb ∧
      ¬(stopLimit mmaCmd 100 < stepsOf mmaCmd.hdr mmaCmd.cb) ∧ (cubeS fun x => { x with cube := { x.cube with stopped := some mmaCmd } }).me.busy (mmaCmd.resumeAt 9) = false) :=
  ⟨⟨by decide +kernel, by decide +kernel, by decide +kernel, by decide +kernel, by decide +kernel, by decide +kernel, pkgS_banks,
    by decide +kernel, by decide +kernel, by decide +kernel, by decide +kernel, by decide +kernel, by decide +kernel⟩, by decide +kernel, by decide +kernel⟩
/-- The command of the example of chapter 11. -/
def cpyW : Word := 0x0100000000000028
/-- Its staging registers, with a source address. -/
def cpyQ (sa da : Word) : Vector Word 32 :=
  ((((((Vector.replicate 32 0).set 0 sa).set 1 da).set 2 0x21).set 3 0x0018000000000002).set 4 2).set 5 0x0080000000000100 |>.set 6 0x40
/-- A crown whose engine ce0 holds a queue. -/
def queued (q : List QEnt) (f : UnitSt → UnitSt := id) : State :=
  crown fun x => f { x with regs := { x.regs with cq := cpyQ 0x100000000000 0x1000000000008000 }, es := { x.es with eng := x.es.eng.set 0 { q := q } } }
/-- Thirty-two entries. -/
def full32 : List QEnt := (List.range 32).map fun i => { id := i, kind := .cmd }
theorem witness_CopyCommands :
    (let s := queued []
     let x := s.me
     let q := x.regs.cq
     (x.guardOn .none on = true ∧ wordOf (.cpy ⟨on, 0, .weak, 0, 2, true⟩) = cpyW ∧ cpIllegal false cpyW q = false ∧ x.phase.on = false ∧
       cpShape cpyW q = false ∧ cpRange x false (some x) cpyW q = none ∧ cpAlign cpyW q = false ∧ (x.es.eng[0]).q.length + (x.es.eng[0]).freed < 32 ∧
       cpCntr cpyW q = none)) ∧
    ((queued full32).me.es.eng[0]).q.length = 32 := by decide +kernel
/-- A machine whose pool 3 is enabled with one entry, taken or not. -/
def pool3 (l : List PoolEnt) : State :=
  crown.modDev fun d => { d with sched := { d.sched with desc := d.sched.desc.set 3 { w1 := 0x1000000000000 }, ents := l } }
theorem witness_EngineControlCountersAndPosts : (1#12).getLsbD 0 = true ∧ (1#12).getLsbD 3 = false ∧ crown.me.guardOn .none on = true ∧ crown.me.phase.on = false ∧
    (crown.desc crown.cur).inRange 0 = true ∧ (crown.desc crown.cur).inRange 1 = false ∧ (∀ e : EngId, (crown.me.es.eng[e]).q.length + (crown.me.es.eng[e]).freed < 32) ∧
    (crown.dev.counter 0 - ((crown (withS 5 1)).me.rdS .none 5).setWidth 32).msb = true ∧ (crown.dev.counter 0 - (crown.me.rdS .none 5).setWidth 32).msb = false ∧
    crown.me.firstOut false 0x1FFC0 (0x1FFC0 + 64) = none ∧ ((pool3 []).dev.sched.desc[3]).en = true ∧ (pool3 []).dev.sched.freeEnt 3 = some 0 ∧
    (pool3 [{ pool := 3, ent := 0, st := .posted }]).dev.sched.freeEnt 3 = none := by decide +kernel
theorem witness_Barriers : crown.me.guardOn .none on = true ∧
    (let b : Barrier := { expect := 1, phase := true, flipped := true }; ¬((b.arrived = b.expect ∧ b.bytes ≠ 0) ∨ 2 ^ 31 ≤ b.bytes + 0) ∧ b.flipped = true ∧ b.broken = false) ∧
    ({ broken := true } : Barrier).broken = true ∧ (crown.me.bars[2]).flipped = false ∧
    (let b : Barrier := { expect := 1, arrived := 1, bytes := 1 }; b.arrived = b.expect ∧ b.bytes ≠ 0) ∧
    (let b : Barrier := { expect := 2, arrived := 1, bytes := 1 }; ¬((b.arrived = b.expect ∧ b.bytes ≠ 0) ∨ 2 ^ 31 ≤ b.bytes + 0) ∧ 2 ^ 31 ≤ b.bytes + (2 ^ 31 - 1 : Nat)) ∧
    (0x7FFFFFFF#32).msb = false ∧ (0x80000000#32).msb = true ∧ (crown.me.bars[2]).phase = false := by decide +kernel
theorem witness_PhasesFencesAndCubeWaits : brimS.cur = brim ∧ brimS.me.guardOn .none on = true ∧ crown.cur ≠ brim ∧ crown.me.guardOn .none on = true ∧
    crown.me.cube.cmds = [] ∧ crown.me.cube.deliv = [] ∧ (cubeS fun x => { x with cube := { x.cube with cmds := [mmaCmd] } }).me.cube.cmds ≠ [] ∧
    (crown fun x => { x with phase := { x.phase with on := true } }).me.phase.on = true ∧ crown.me.phase.on = false ∧
    (0xFFF#12).getLsbD 0 = true ∧ (1#12).getLsbD 3 = false ∧ 32 ≤ ((queued full32).me.es.eng[0]).q.length := by decide +kernel
/-- A gang of one member, with its context on crown 0. -/
def gang1 (committed : Bool) : State :=
  let tr : Vector Word 8 := tr0.set 2 0x201000
  (crown fun x => { x with ctx := some { ctx0 with tr := tr } }).modDev fun d => { d with fab := { d.fab with
    gangs := [{ gtag := 0, owner := 0, leader := 0, gm := 0, gn1 := 0, committed := committed }] } }
theorem witness_SystemInstructions : crown.me.guardOn .none on = true ∧
    (crown fun x => { x with es := { x.es with tlbiDone := true } }).me.es.tlbiDone = true ∧
    (let s := crown fun x => { x with pm := { x.pm with ctl := 0x0500000 } }
     s.me.pm.ctl.getLsbD 1 = false ∧ s.ownerOf s.cur ≠ some (fld s.me.pm.ctl 20 12)) ∧ 48 ≤ (63#6).toNat ∧
    (crown fun x => { x with phase := { x.phase with on := true } }).me.phase.on = true ∧ (crown.desc 0).priv = false ∧
    ((crown.modDev fun d => { d with sched := { d.sched with desc := d.sched.desc.set 0 { w1 := 0x800000000 } } }).desc 0).priv = true ∧
    crown.me.es.tlbiDone = false ∧ crown.me.es.sy = [] ∧ (0xFFF#12).getLsbD 0 = true ∧
    (let l : LogEnt := { cmd := 0, elt := 0, va := 0, bytes := [], gang := false }; l.gang = false) ∧ crown.me.seq.held = none ∧
    (crown.me.pm.ctl.getLsbD 1 = false ∧ crown.ownerOf 0 = some (fld crown.me.pm.ctl 20 12)) ∧
    ((gang1 false).unitGang 0).map (·.committed) = some false ∧ ((gang1 true).unitGang 0).map (·.committed) = some true ∧
    (gang1 false).me.guardOn .none on = true ∧ crown.unitGang 0 = none := by decide +kernel
/-- A crown that is about to issue a bundle: its header and the words of its slots. -/
def fetching (h : Nat) (l : List Instr) (f : UnitSt → UnitSt := id) : State :=
  crown fun x => f { x with es := { x.es with icache := x.placeBundle 0 (l.foldr (fun i n => (n * 2 ^ 64) + (wordOf i).toNat) 0 * 2 ^ 64 + h) } }
/-- A property of the bundle that its clock fetches, with a sound header. -/
def issuing (s : State) (f : State → Header → List Op → Bool) : Bool :=
  let b := s.startClock
  s.me.canIssue && match b.me.fetch b.me.seq.pc.toNat with
    | .ok h ws _ => !headerBad (isBrim b.cur) h ws && f b h ((b.issued h ws).filterMap Issued.op)
    | .miss _ => false
/-- A crown without a context. -/
def idle0 : State := crown fun x => { x with status := .idle, ctx := none }
/-- An FFMA of three registers. -/
def ffma (a b c : Fin 64) : Instr := .ffma ⟨sh, 1, .reg a, .reg b, .reg c, .f32, .rne⟩
theorem witness_UnitClocks :
    issuing (fetching 0x800 [.barw ⟨on, 0, false⟩]) (fun _ _ l => (firstWait l).isSome) = true ∧
    issuing (fetching 6 [ffma 2 4 6, ffma 8 10 12]) (fun _ _ l => (firstWait l).isNone && portsBad l) = true ∧
    issuing (fetching 0x2000000 []) (fun b h l => (firstWait l).isNone && !portsBad l && segmentBad b.me h) = true ∧
    issuing (fetching 1 [.bF ⟨on, 6, 1⟩] (withP 1 7)) (fun b h l => (firstWait l).isNone && !portsBad l && !segmentBad b.me h &&
      (slotFault b.me l 0 0 []).isSome) = true ∧
    issuing (fetching 0 []) (fun b h l => (firstWait l).isNone && !portsBad l && !segmentBad b.me h && (slotFault b.me l 0 0 []).isNone) = true ∧
    idle0.me.status = .idle ∧ idle0.me.stop.stopped = false ∧ idle0.me.seq.accs = [] ∧ idle0.me.seq.undo = [] ∧ idle0.me.ck.gateRun = 0 := by decide +kernel
/-- A crown with a segment open. -/
def inSeg (crc : BitVec 32) (f : UnitSt → UnitSt := id) : State := crown fun x => f { x with seg := { opened := true, cnt := 5, crc := crc, phased := false } }
theorem witness_SegmentsMarkersAndUnitRegisters : crown.me.seg.opened = false ∧ (inSeg 7).me.seg.opened = true ∧
    ((inSeg 7).me.seg.cnt = (5#32).setWidth 64 ∧ ~~~(inSeg 7).me.seg.crc = ~~~(7#32)) ∧ ~~~(inSeg 7).me.seg.crc ≠ 0 ∧ (inSeg 7).me.phase.on = false ∧
    ((inSeg 7 fun x => { x with phase := { x.phase with on := true } }).me.phase.on = true ∧ (inSeg 7).me.seg.phased = false) ∧
    (inTrap 8 []).me.trap.tl ≠ 0 ∧ crown.me.trap.tl = 0 ∧ (crown fun x => { x with obs := { x.obs with cclkBase := true } }).me.obs.cclkBase = true ∧
    (crown fun x => { x with obs := { x.obs with cclkBase := false } }).me.obs.cclkBase = false ∧ (0 : UnitId) ≠ brim ∧
    (2 : Fin 18).val = (0 : Fin 16).val + 2 ∧ (let p := (crown fun x => { x with pm := { x.pm with per := 9, since := 9 } }).me.pm; p.per ≠ 0 ∧ p.per.toNat ≤ p.since.toNat) := by
  decide +kernel
/-- A page table in LP6 that maps the first page of address space 0 by one leaf. -/
def tables (leaf : Nat) : List Host.Cell :=
  [0x10001 + 2 ^ 41, 0x20001 + 2 ^ 41, 0x30001 + 2 ^ 41, leaf].zipIdx.flatMap fun e =>
    (leBytes 8 e.1).zipIdx.filterMap fun b => if b.1 = 0 then none else some (2 ^ 41 + 0x10000 * e.2 + b.2, b.1)
/-- A unit under that table. -/
def base41 (x : UnitSt) : UnitSt := { x with ck := { x.ck with xlbase := 0x20000000000 } }
/-- A leaf: a page of LP6 of package scope, or of the host. -/
def leafLp : Nat := 2 ^ 55 + 2 ^ 41 + 0x40003
/-- The same page, that may migrate. -/
def leafMig : Nat := 2 ^ 60 + leafLp
/-- A page of the host. -/
def leafHost : Nat := 2 ^ 55 + 2 ^ 51 + 3
/-- A crown that a precise stop holds. -/
def held (f : UnitSt → UnitSt := id) : State := crown fun x => f { x with stop := { x.stop with stopped := true } }
theorem witness_PreciseStopAndInjection : crown.me.stop.stopped = false ∧ held.me.stop.stopped = true ∧ held.me.status = .running ∧ held.me.stop.dumped = false ∧
    held.me.ck.gateRun = 0 ∧ (let b : Barrier := { expect := 1, arrived := 1 }; b.expect ≠ 0 ∧ b.arrived = b.expect ∧ b.bytes = 0 ∧ b.broken = false) ∧
    ((held fun x => { x with stop := { x.stop with dumped := true } }).me.stop.stopped = true) ∧
    (let s := (held fun x => base41 { x with obs := { x.obs with rxl := 0x20000000000 } }).modDev fun d => { d with mem := { d.mem with cells := tables leafHost } }
     s.me.stop.stopped = true ∧ s.me.stop.dumped = false ∧ (s.saveAll s.cur 10 s.me.obs.rxl s.me.stop.dumpva.toNat s.me.crownFixed).2 = 0) ∧
    (crown fun x => { x with stop := { x.stop with stopReq := true } }).me.stop.stopReq = true ∧
    (let x := (cubeS fun x => { x with stop := { x.stop with stopped := true } }).me
     let h : Word := 0x01000000000FF300
     (0 : UnitId) ≠ brim ∧ x.stop.stopped = true ∧ x.cube.cmds = [] ∧ x.cube.stopped = none ∧ x.stop.inj = none ∧ hdrLvl h ≤ 1 ∧ hdrOpc h = 1 ∧
       snapIllegal h x.regs.cb = false ∧ snapShape h x.regs.cb = false) ∧
    2 ≤ hdrLvl mmaCmd.hdr ∧ (held.endHeader 0).2 = true ∧
    (let s := (held fun x => base41 { x with seq := { x.seq with br := some .lexit, loops := [⟨false, 0, 0, 1, 0, 0x1F8⟩] } }).modDev fun d =>
       { d with mem := { d.mem with cells := tables leafHost } }
     s.me.stop.dumped = false ∧ s.me.stop.going = false ∧ (s.endHeader 0).2 = false) ∧
    (let r := fun leaf => ((held fun x => { x with obs := { x.obs with rxl := 0x20000000000 }, stop := { x.stop with reload := true } }).modDev fun d =>
       { d with mem := { d.mem with cells := tables leaf } })
     let b := fun leaf => (r leaf).noteReload 0 10 (r leaf).me.obs.rxl (r leaf).me.stop.dumpva.toNat ((r leaf).dumpChunks 0)
     (b leafHost).reloadOut 0 = true ∧ (b leafLp).reloadOut 0 = false ∧
       ((b leafHost).modUnit 0 fun x => { x with stop := { x.stop with going := true } }).reloadOut 0 = true) ∧
    (let s := held fun x => { x with stop := { x.stop with going := true } }
     s.me.stop.stopped = true ∧ s.me.stop.going = true ∧ s.reloadOut 0 = false) ∧
    (let inj := fun h => cubeS fun x => { x with regs := { x.regs with cb := x.regs.cb.set 4 0x0000000100010001 }, stop := { x.stop with stopped := true, inj := some h } }
     let cb := (inj 0).me.regs.cb
     (inj 0x01000000000FF100).me.stop.inj = some 0x01000000000FF100 ∧ tkind 0x01000000000FF100 = .mma ∧ stepsOf 0x01000000000FF100 cb = 1 ∧ Snap.fmtA cb ≠ .f64 ∧
       hdrLvl 0x01000000000FF100 = 0 ∧ hdrLvl 0x01000000000FF300 ≠ 0 ∧ tkind 0x03000000000FF300 = .mmap ∧ Snap.nch 0x03000000000FF300 cb = 1 ∧
       tkind 0x0C000000000FF300 = .join ∧ hdrOpc 0x0C000000000FF300 = 12 ∧ hdrLvl 0x0C000000000FF300 = 1 ∧ hdrOpc 0x09000000000FF300 = 9 ∧
       (inj 0).me.st.face = [] ∧ (inj 0).me.st.accPoison = [] ∧ (inj 0).me.st.planePoison = [] ∧ smWf 0 (inj 0).me.st.acc = true ∧ smWf 0 (inj 0).me.st.planes = true) ∧
    (held fun x => { x with stop := { x.stop with inj := some mmaCmd.hdr } }).me.stop.inj = some mmaCmd.hdr := by decide +kernel
/-- A machine whose launch slot 3 holds a sound record without its last word. -/
def slot3 (x : LaunchSlot) (l : List PoolEnt) : State := (pool3 l).modDev fun d => { d with sched := { d.sched with slots := d.sched.slots.set 3 x } }
theorem witness_LaunchWindow : ((slot3 { w := tr0, pending := true } []).dev.sched.slots[3]).pending = true ∧
    (let s := slot3 { w := tr0 } []
     (s.dev.sched.slots[3]).pending = false ∧ (s.dev.sched.desc[3]).en = true ∧ (s.dev.sched.desc[4]).en = false ∧ s.dev.sched.freeEnt 3 = some 0 ∧
       recordBad s.dev.sched.desc[3] ((s.dev.sched.slots[3]).w.set 7 0) = false ∧ recordBad s.dev.sched.desc[3] ((s.dev.sched.slots[3]).w.set 7 0x1000) = true) ∧
    (slot3 { w := tr0 } [{ pool := 3, ent := 0, st := .posted }]).dev.sched.freeEnt 3 = none ∧
    ((56#6).toNat = 56 ∧ 56 % 8 = 0 ∧ (8#6).toNat = 8 * (1 : Fin 8).val ∧ (1 : Fin 8) ≠ 7) := by decide +kernel
/-- A machine with pool 3 enabled, dispatch on, crown 0 in partition 0, and a posted record of priority 1. -/
def posting (s : State) : State := s.modDev fun d => { d with
  part := d.part.set 0 0x100001
  sched := { d.sched with ctl := 1, desc := d.sched.desc.set 3 { w1 := 0x1000000000000 }, ents := [{ pool := 3, ent := 0, st := .posted, tr := tr0.set 2 0x11000 }] } }
/-- Its entry. -/
def entry : PoolEnt := { pool := 3, ent := 0, st := .posted, tr := tr0.set 2 0x11000 }
theorem witness_Dispatching : State.reset.dev.sched.ctl.getLsbD 0 = false ∧ (posting idle0).dev.choice 0 = [entry] ∧
    (posting idle0).dev.sched.ctl.getLsbD 0 = true ∧ (recBrim entry.tr && recGang entry.tr) = false ∧
    ((posting idle0).rects entry).find? (fun ks => !ks.isEmpty && ks.all ((posting idle0).freeFor entry)) = some [0] ∧
    (let s := posting (crown fun x => { x with ctx := some { ctx0 with tr := tr0.set 2 0x101000 } })
     s.dev.choice 0 = [entry] ∧ (s.rects entry).find? (fun ks => !ks.isEmpty && ks.all (s.freeFor entry)) = none ∧ s.holding entry = false ∧
       (s.rects entry).find? (fun ks => !ks.isEmpty && ks.all fun k => s.freeFor entry k || s.victim entry (s.dev.effPrio entry) k) = some [0]) := by
  decide +kernel
/-- A crown under that table. -/
def paged (leaf : Nat) (f : UnitSt → UnitSt := id) : State :=
  (crown (f ∘ base41)).modDev fun d => { d with mem := { d.mem with cells := tables leaf } }
/-- A machine with the entry of the context that runs. -/
def owned (st : EntSt) (us : List Nat) (s : State) : State := s.modDev fun d =>
  { d with sched := { d.sched with ents := [{ pool := 0, ent := 0, st := st, tr := tr0.set 2 0x401000, units := us, left := us }] } }
/-- A request of a unit that is outstanding. -/
def pendingReq : OutReq := { id := 9, u := 0, e := 0, cmd := 4, elt := 0, host := true, port := none, wr := false }
/-- A machine with it. -/
def waiting (s : State) : State := s.modDev fun d => { d with fab := { d.fab with out := [pendingReq] } }
/-- A crown whose unit has a status. -/
def having (st : UStatus) (f : UnitSt → UnitSt := id) : State := crown fun x => f { x with status := st }
theorem witness_ContextEnds :
    (let s := owned .stopping [8] ((brimS fun x => base41 { x with status := .saving }).modDev fun d => { d with mem := { d.mem with cells := tables leafHost } })
     let x := s.me
     let b := (s.endHeader s.cur).1
     x.status = .saving ∧ x.ctx = some ctx0 ∧ (∀ e, s.entOf 0 0 = some e → ∀ k ∈ e.units, s.stopReady e k = true) ∧ (s.entOf 0 0).isSome = true ∧
       (s.endHeader s.cur).2 = true ∧
       (b.saveAll s.cur 0 (b.unit s.cur).ck.xlbase (b.saveVa s.cur) b.brimRecord).2 = 0) ∧
    (let s := owned .stopping [8] (brimS fun x => { x with status := .saving })
     (∀ e, s.entOf 0 0 = some e → ∀ k ∈ e.units, s.stopReady e k = true) ∧ (s.endHeader s.cur).2 = true ∧
       (let b := (s.endHeader s.cur).1
        (b.saveAll s.cur 0 (b.unit s.cur).ck.xlbase (b.saveVa s.cur) b.brimRecord).2 ≠ 0)) ∧
    (let s := owned .stopping [0] ((having .saving fun x => base41 { x with seq := { x.seq with
        br := some .lexit, loops := [⟨false, 0, 0, 1, 0, 0x1F8⟩] } }).modDev fun d =>
          { d with mem := { d.mem with cells := tables leafHost } })
     (∀ e, s.entOf 0 0 = some e → ∀ k ∈ e.units, s.stopReady e k = true) ∧ (s.endHeader 0).2 = false) ∧
    (let s := owned .stopping [0] (waiting (having .saving))
     (s.entOf 0 0).map (s.stopReady · 0) = some false) ∧
    (let s := owned .stopping [0] (having .stored)
     let w := s.modDev fun d => { d with fab := { d.fab with out := [{ pendingReq with side := true }] } }
     s.me.status = .stored ∧ s.me.ctx = some ctx0 ∧ (s.entOf 0 0).isSome = true ∧ s.sideOut 0 = false ∧ w.sideOut 0 = true) ∧
    (let s := owned .resident [0] (having .reloading)
     let w := s.modDev fun d => { d with fab := { d.fab with out := [{ pendingReq with reload := some 0x1000 }] } }
     s.me.status = .reloading ∧ s.me.ctx = some ctx0 ∧ (s.entOf 0 0).isSome = true ∧ s.reloadOut 0 = false ∧ w.reloadOut 0 = true) ∧
    (let s := fun us => owned .resident us (having .exiting)
     (s [0]).me.status = .exiting ∧ (s [0]).exitDone 0 = true ∧ ((s [0]).entOf 0 0).map (·.left) = some [0] ∧ ((s [0, 1]).entOf 0 0).map (·.left) = some [0, 1] ∧
       (waiting (s [0])).exitDone 0 = false ∧ ((s [0]).entOf 0 0).map (·.saved) = some [] ∧ ((s [0]).entOf 0 0).map (fun e => recDv e.tr) = some true) ∧
    (let s := owned .resident [0] (having .killed)
     let us := fun (e : PoolEnt) => ((s.holders e).filter fun h => !h.2.1).map Prod.fst
     s.me.status = .killed ∧ s.me.ctx = some ctx0 ∧ (s.entOf 0 0).map us = some [0] ∧ (∀ y ∈ s.dev.sched.ents, y.st ≠ .ended) ∧
       s.killRests 0 = true ∧ (waiting s).killRests 0 = false ∧ ((s.gangKilled 0).entOf 0 0).isSome = true) ∧
    smWf 0 crown.dev.counters = true := by decide +kernel
/-- A snapshot of a phase. -/
def snap0 : PhaseSnap := {
  loops := [], p := Vector.replicate 12 0, s := Vector.replicate 64 0, a := Vector.replicate 32 {}, cb := Vector.replicate 16 0
  cq := Vector.replicate 32 0, sticky := Vector.replicate 4 {}, scsel := 0, bars := Vector.replicate 32 {} }
theorem witness_ContextEvents :
    (let x := (crown fun x => { x with ck := { x.ck with preq := true, reqClks := 2 ^ 40 } }).me
     x.status = .running ∧ x.ck.preq = true ∧ x.imax + 2048 ≤ x.ck.reqClks) ∧
    (let x := (queued [{ id := 7, kind := .cmd, sent := [0] }] fun x => { x with status := .saving, ck := { x.ck with reqClks := 2 ^ 40 } }).me
     x.status = .saving ∧ x.enginesRest = false ∧ x.imax + 2048 ≤ x.ck.reqClks) ∧ crown.me.ck.preq = false ∧ crown.me.status = .running ∧
    (0 : UnitId).val = (0 : CrownId).val ∧ crown.me.ctx ≠ none ∧ crown.me.ck.clk % 4096 = 0 ∧
    ((crown.modDev fun d => { d with pow := { d.pow with mhz := d.pow.mhz.set 0 425 } }).dev.pow.mhz[0]).toNat ≠ 0 ∧ idle0.me.ctx = none ∧
    (let x := (crown fun x => { x with trap := { x.trap with pend := [{ code := cDIV_ZERO, tval := 0, lvl := 0, eng := 3, sc := 5 }] } }).me
     x.atBoundary = true ∧ ∃ p ∈ x.trap.pend, x.trap.tl.toNat ≤ p.lvl.toNat) ∧ crown.me.trap.pend = [] ∧
    (let x := fun q => (queued q fun x => { x with phase := { x.phase with refetching := some (0, 0, 7), snap := some snap0 } }).me
     (x []).phase.refetching = some (0, 0, 7) ∧ (x []).phase.snap = some snap0 ∧ (∀ c ∈ ((x []).es.eng[0]).q, c.id ≠ 7) ∧
       ∃ c ∈ ((x [{ id := 7, kind := .cmd }]).es.eng[0]).q, c.id = 7) ∧
    (let x := fun r q => (queued q fun x => { x with phase := { x.phase with closing := some r, snap := some snap0 } })
     let y := fun r q => (x r q).me
     let c : QEnt := { id := 7, kind := .cmd }
     (x none []).me.phase.refetching = none ∧ crown.me.phase.closing = none ∧ (y none []).phase.closing = some none ∧ (y none []).phase.snap = some snap0 ∧
       (y none []).seq.accs = [] ∧ (∀ e : EngId, ∀ q ∈ ((y none []).es.eng[e]).q, ¬(q.dropped = true ∧ q.unfinished = true)) ∧
       (y (some (0, 0, c)) []).phase.closing = some (some (0, 0, c)) ∧
       ∃ q ∈ ((y none [{ c with dropped := true, sent := [0] }]).es.eng[0]).q, q.dropped = true ∧ q.unfinished = true) := by decide +kernel
/-- An engine that walks for an element of a command. -/
def walking (w : Word) (f : UnitSt → UnitSt := id) : UnitSt → UnitSt := fun x =>
  let g : Engine := { q := [{ id := 4, kind := .cmd, word := w, snap := cpyQ 0x40 0x1000000000008000 }], walk := some (0x40, 4, 0) }
  f { x with es := { x.es with eng := x.es.eng.set 0 g } }
theorem witness_FillsAndWalks : crown.me.es.fetchMiss = none ∧
    (let s := paged leafLp fun x => { x with es := { x.es with fetchMiss := some 64 } }
     let x := s.me
     let tr : Xlat := { pa := 2 ^ 41 + 0x40040, attr := 8, large := false, leaf := 2 ^ 41 + 0x30000, va := 64 }
     x.es.fetchMiss = some 64 ∧ x.xlat 11 64 = none ∧ s.dev.walk x.ck.xlbase 64 = .ok tr ∧ ((s.pmEvent 0 11 1).walkNote 0 x.ck.xlbase 64).refusal 0 .read tr 64 = 0 ∧
       s.dev.tier tr.pa = .lp6 ∧ s.dev.asleep (s.dev.home tr.pa) = false ∧ s.dev.loadPoison tr.pa 64 = false) ∧
    (paged leafLp).dev.walk (paged leafLp).me.ck.xlbase 0x10000 = .miss ∧ (paged 1).dev.walk (paged 1).me.ck.xlbase 0 = .table (2 ^ 41 + 0x30000) ∧
    (let s := paged leafLp (walking cpyW)
     (s.me.es.eng[0]).replay = false ∧ (s.me.es.eng[0]).walk = some (0x40, 4, 0) ∧ (s.me.es.eng[0]).held = false ∧
       (s.cmdOf 0 0 4).any (fun q => !mayLog q 0 0x40 && ckind q.word != .pfh) = true) ∧
    (paged leafLp).pending 0 = 0 ∧ (paged leafLp).me.status = .running ∧
    (let s := (paged leafLp (walking cpyW)).modUnit 0 fun x => { x with es := { x.es with ports := [portOf 0x8000] } }
     let s := s.modCmd 0 0 4 fun q => { q with snap := cpyQ 0x1000000000008000 0x40 }
     (s.cmdOf 0 0 4).any (fun q => mayLog q 0 0x40 && !s.portsOpen 0 0 q 0) = true) ∧
    (crown.me.es.eng[1]).walk = none ∧ (crown.me.es.eng[1]).log = [] ∧
    ((paged leafLp (walking 0x1000000000000000)).cmdOf 0 0 4).any (fun q => ckind q.word == .amo .add && cpStr q.word == 0 &&
      (cWrite q.word q.snap 0).any fun w => w.addr % 2 ^ 56 == 0x40) = true := by decide +kernel
/-- The command of an engine that may start, with or without its page in the TLB. -/
def moving (w : Word) (hit : Bool) (leaf : Nat) : State := paged leaf (walking w fun x =>
  let l : List Tlb := if hit then [⟨0, 0, false, 2 ^ 41 + 0x40000, BitVec.ofNat 9 (leaf / 2 ^ 52), 2 ^ 41 + 0x30000⟩] else []
  { x with es := { x.es with eng := x.es.eng.set 0 { x.es.eng[0] with walk := none, tlb := l } } })
theorem witness_CopyElements :
    (let s := moving cpyW true leafLp
     let n := moving cpyW false leafLp
     let busy := s.modUnit 0 fun x => { x with es := { x.es with ports := [portOf 0x8000] } }
     (s.cmdOf 0 0 4).any (fun q => s.canStart 0 0 q 0 && !s.canStart 0 0 q 1000000 && (s.me.es.eng[0]).stage == [] &&
       n.needWalk 0 0 (sides q 0).1 (sides q 0).2 == some 0x40 && (s.needWalk 0 0 (sides q 0).1 (sides q 0).2).isNone &&
       ckind q.word == .cpy && q.next == 0 && q.done == [] && !s.me.phase.cancelling && decide (0 + 1 < cElems q.word q.snap) && cpStr q.word == 0 &&
       (cRead q.word q.snap q.off 0).any fun r => (cWrite q.word q.snap 0).any fun w =>
         match s.locate 0 0 r.aw r.addr, s.locate 0 0 w.aw w.addr with
         | .found (.mem tr), .found (.face k ad) => k == 0 && s.refusal 0 .read tr r.len == 0 && !(s.me.es.eng[0]).logged r.addr &&
             s.dev.tier tr.pa == .lp6 && !s.dev.asleep (s.dev.home tr.pa) && !s.dev.loadPoison tr.pa r.len && s.portsOpen 0 0 q 0 &&
             decide (0 < (s.dev.load tr.pa r.len).length) && decide (ad % 16 + (s.dev.load tr.pa r.len).length < 16) && decide (ad < 0x4000000)
         | _, _ => false) = true ∧
     busy.me.portFree 0x8000 = false ∧ s.me.portFree 0x8000 = true ∧
     (let c := moving 0x0100000000004028 true leafLp
      (c.cmdOf 0 0 4).any (fun q => c.canStart 0 0 q 0 && cpStr q.word != 0) = true) ∧
     (let r := (moving cpyW true leafLp).modCmd 0 0 4 fun q => { q with snap := cpyQ 0x1000000000000000 0x40 }
      let r := r.modUnit 0 fun x => { x with es := { x.es with ports := [portOf 0] } }
      (r.cmdOf 0 0 4).any (fun q => r.canStart 0 0 q 0 && (r.needWalk 0 0 (sides q 0).1 (sides q 0).2).isNone && !r.portsOpen 0 0 q 0) = true)) ∧
    (let s := moving 0x2100000000000000 true leafLp
     (s.cmdOf 0 0 4).any (fun q => s.canStart 0 0 q 0 && ckind q.word == .pfh && s.portsOpen 0 0 q 0) = true) ∧
    (let s := (moving 0x2200000000000000 true leafMig).modDev fun d => { d with card := { d.card with ctl := d.card.ctl ||| 1 } }
     (s.cmdOf 0 0 4).any (fun q => s.canStart 0 0 q 0 && ckind q.word == .migr && s.portsOpen 0 0 q 0 && s.dev.card.en && decide (s.dev.card.reqs.length < 64) &&
       (s.me.xlat 0 (awAddr (qv q.word q.snap 0))).any fun tr => !attrPin tr.attr && attrMig tr.attr && !tr.large) = true) ∧
    5 < 2 ^ (Fmt.i32).bits := by decide +kernel
/-- A performed copy command. -/
def doneCmd : QEnt := { id := 4, kind := .cmd, word := cpyW, snap := cpyQ 0x40 0x1000000000008000, next := 1000000000 }
/-- A crown with operations of SY that wait, and a queue on engine 0. -/
def sying (q : List QEnt) (l : List SyOp) : State := queued q fun x => { x with es := { x.es with sy := l } }
/-- A machine whose pool 3 has an entry taken. -/
def taken (en : Bool) (s : State) : State := s.modDev fun d =>
  { d with sched := { d.sched with desc := d.sched.desc.set 3 { w1 := if en then 0x1000000000000 else 0 }, ents := [{ pool := 3, ent := 1, st := .taken }] } }
theorem witness_CompletionsAndMarkers : (queued []).completable 0 0 = none ∧
    ((queued [doneCmd]).completable 0 0 = some doneCmd ∧ doneCmd.counted = false ∧ doneCmd.cntr = none ∧ hasBar doneCmd = true ∧ doneCmd.refetch = false) ∧
    (let m : QEnt := { id := 6, kind := .fence true true 1 2 }
     (queued [m]).markerDone 0 0 m.kind = true ∧ (queued [{ doneCmd with next := 0 }, m]).markerDone 0 0 m.kind = false) ∧
    (let s := sying [{ id := 6, kind := .evinc 2 }] [.evinc 2 5 1]
     s.me.es.sy = [.evinc 2 5 1] ∧ ∃ q ∈ (s.me.es.eng[0]).q, q.kind.marks 2 = true) ∧
    ((sying [] [.evinc 2 5 1]).me.es.sy = [.evinc 2 5 1] ∧ ∀ e : EngId, ((sying [] [.evinc 2 5 1]).me.es.eng[e]).q = []) ∧
    (let s := fun en => taken en (sying [] [.tpost 2 3 (some 1) 0x100 tr0 0 0])
     let tr := gangRecord (s true).me.ctx tr0
     (s true).me.seq.accs = [] ∧ (s true).me.unmarked 2 = true ∧ recordBad (s true).dev.sched.desc[3] tr = false ∧
       recordBad (s false).dev.sched.desc[3] tr = true ∧ (s false).me.status = .running) ∧
    (let s := fun q => sying q [.tlbi .page 0 0 none]
     (s []).me.allPerformed = true ∧ (s []).underNamed .page 0 0 = [] ∧ (waiting (s [])).underNamed .page 0 0 = [9] ∧
       (s [{ doneCmd with next := 0 }]).me.allPerformed = false) ∧
    ((sying [] []).pending 0 = 0 ∧ (sying [] []).me.status = .running) ∧
    (let s := sying [] [.tlbi .page 0 0 (some [9])]
     (∃ r ∈ (waiting s).dev.fab.out, r.id = 9) ∧ s.dev.fab.out = []) := by decide +kernel
/-- A crown with an empty bundle at PC whose cube holds commands in a run clock. -/
def cubing (l : List CubeCmd) (n : Nat) (f : Cube → Cube := id) : State :=
  cubeS fun x => { x with cube := f { x.cube with cmds := l }, ck := { x.ck with run := n }, es := { x.es with icache := x.placeBundle 0 0 } }
/-- A TZERO of one slot. -/
def zeroCmd : CubeCmd := { id := 1, hdr := wordOf (.tzero ⟨on, 1, 0⟩), cb := cubeS.me.regs.cb, t := 0 }
/-- A captured step of 128 empty rows. -/
def cap0 : ChunkCap := { cmd := 7, at_ := 5, slot := 1, fmtA := .e4m3, fmtB := .e4m3, zero := true, a := List.replicate 128 [], b := List.replicate 128 [] }
theorem witness_CubeSteps : held.me.cubeMoves = false ∧ (crown.me.stepDue = none ∧ crown.me.rowsDue = [] ∧ crown.me.capDue = none) ∧
    ((cubing [zeroCmd] 9).me.cubeMoves = true ∧ (cubing [zeroCmd] 9).me.stepDue = some zeroCmd ∧ tkind zeroCmd.hdr = .zero ∧
      smWf 0 (cubing [zeroCmd] 9).me.st.acc = true) ∧
    (zeroCmd.hdr ≠ 0 ∧ (cubing [zeroCmd] 9).me.secondDue = none ∧ (cubing [zeroCmd] 9).me.cube.fresh = []) ∧
    ((cubing [mmaCmd] 9).me.cubeMoves = true ∧ (cubing [mmaCmd] 9).me.secondDue = none ∧ (cubing [mmaCmd] 9).me.stepDue = some mmaCmd ∧
      tkind mmaCmd.hdr = .mma ∧ Snap.fmtA mmaCmd.cb ≠ .f64 ∧ (cubing [mmaCmd] 9).me.st.face = []) ∧
    (let k : CubeCmd := { mmaCmd with cb := mmaCmd.cb.set 5 0xEE }
     (cubing [k] 9).me.cubeMoves = true ∧ (cubing [k] 9).me.stepDue = some k ∧ (cubing [k] 9).me.secondDue = none ∧ Snap.fmtA k.cb = .f64) ∧
    (let k : CubeCmd := { mmaCmd with cb := mmaCmd.cb.set 5 0xEE, next := 1, second := some (5, 0, []) }
     (cubing [k] 9).me.cubeMoves = true ∧ (cubing [k] 9).me.secondDue = some (k, 0, []) ∧ (cubing [k] 9).me.st.face = []) ∧
    (let x := (cubing [] 9 fun c => { c with caps := [cap0] }).me
     x.cubeMoves = true ∧ x.secondDue = none ∧ x.cube.fresh = [] ∧ x.stepDue = none ∧ x.rowsDue = [] ∧ x.capDue = some cap0 ∧ cap0.fmtA ≠ .f64 ∧ cap0.a.length = 128 ∧ x.st.accPoison = []) ∧
    crown.me.cmdDone = none ∧ ((cubing [{ mmaCmd with next := 4096 }] 1000000).me.cmdDone = some { mmaCmd with next := 4096 } ∧ mmaCmd.delivered = false) := by
  decide +kernel
/-- A step of batt 2 that has computed. -/
def plane2 : PlaneStep := { b := 2, s := 0, left := 0, cap := cap0 }
/-- A TJOIN of batts 4 to 7, from chapter 19. -/
def joinCmd : CubeCmd := { id := 3, hdr := 0x0C000000000F0420, cb := cubeS.me.regs.cb, t := 0 }
/-- A delivered TMMA. -/
def delivCmd : CubeCmd := { mmaCmd with delivered := true, round := 2 }
theorem witness_PlanesAndDeliveries :
    (let x := (cubing [] 9 fun c => { c with planes := [plane2] }).me
     x.planesMove = true ∧ x.planeDue 2 = some plane2 ∧ x.planeDue 3 = none ∧ plane2.cap.fmtA ≠ .f64 ∧ plane2.cap.a.length = 128 ∧ x.st.planePoison = [] ∧ smWf 0 x.st.planes = true) ∧
    crown.me.joinNext = none ∧
    (let x := fun n => (cubing [joinCmd] n).me
     (x 9).cubeMoves = true ∧ (x 9).joinNext = some (joinCmd, 4, 7) ∧ (x 6).joinNext = some (joinCmd, 4, 7) ∧ (x 9).st.accPoison = [] ∧ (x 9).st.planePoison = [] ∧ (x 9).cube.fresh = []) ∧
    crown.me.delivDue = none ∧ ((cubing [] 9 fun c => { c with deliv := [delivCmd] }).me.delivDue.isSome = true ∧
      (cubing [] 9 fun c => { c with deliv := [delivCmd] }).me.status = .running) := by decide +kernel
/-- A package in a stage, one clock after its last action. -/
def staged (n : Nat) (f : PkgCmd → PkgCmd := id) : State := (pkgS (some (f { hdr := wordOf (.tmmaPkg ⟨on, 0xFF, true⟩), cb := pkgCb, stage := n }))).modMe fun x =>
  { x with ck := { x.ck with clk := 1 } }
theorem witness_Decomposition : crown.dev.pkg = none ∧ ((staged 0).unit brim).status = .running ∧
    (staged 0).dev.pkg.map (fun p => (p.done, p.stopped, p.clk, p.stage)) = some (false, false, 0, 0) ∧ ((staged 0).unit brim).ck.clk = 1 ∧
    Snap.kids ((staged 0).pkgEff (wordOf (.tmmaPkg ⟨on, 0xFF, true⟩)) pkgCb) = [⟨0, 0, 0, 1, 0, 1⟩] ∧ (staged 0).driven.isSome = true ∧
    (let s := staged 0
     let e : PoolEnt := { pool := 2, ent := 1, st := .resident, units := [0, 1], left := [0, 1], brimOf := some (0, 0), tr := tr0 }
     s.driven = some e ∧ (∀ pl ∈ Snap.places (s.pkgEff (wordOf (.tmmaPkg ⟨on, 0xFF, true⟩)) pkgCb), s.childPlace e pl.1.toNat pl.2.1.toNat ≠ none) ∧
       let g := s.modUnit 0 fun x => { x with status := .stored }
       ∃ pl ∈ Snap.places (g.pkgEff (wordOf (.tmmaPkg ⟨on, 0xFF, true⟩)) pkgCb), g.childPlace e pl.1.toNat pl.2.1.toNat = none) ∧
    (staged 2).dev.pkg.map (·.stage) = some 2 ∧ (staged 3).childAt ⟨0, 0, 0, 1, 0, 1⟩ = some 0 ∧ (staged 4).childAt ⟨0, 0, 0, 1, 0, 1⟩ = some 0 ∧
    ((staged 3).modUnit 0 fun x => { x with status := .killed }).childAt ⟨0, 0, 0, 1, 0, 1⟩ = none ∧
    (staged 7).dev.pkg.map (fun p => (p.stage, p.done, p.evid)) = some (7, false, none) ∧ (staged 7 fun p => { p with done := true }).dev.pkg.map (·.done) = some true := by
  decide +kernel
/-- A machine whose carder holds requests and moves. -/
def carding (f : Carder → Carder) : State := crown.modDev fun d => { d with card := f d.card }
/-- A request. -/
def req1 (dst : Option Nat) : MigReq := { src := 0x40000, leaf := 0x30000, leafVal := 0, dst := dst, part := 0, hot := 0, cnt := none, accepted := 0 }
theorem witness_CarderQueues : (3#64).getLsbD 0 = true ∧ (2#64).getLsbD 0 = false ∧ crown.dev.card.reqs = [] ∧
    (let c := (carding fun c => { c with reqs := [req1 (some 0x50000)] }).dev.card
     c.reqs = [] ++ req1 (some 0x50000) :: [] ∧ c.pause = false ∧ c.moves.length < c.maxAct ∧ c.moves = [] ∧ 0 < c.cqRoom) ∧
    (let c := (carding fun c => { c with reqs := [req1 none], fq := 0x0001000000000000 }).dev.card
     (req1 none).dst = none ∧ c.fqEmpty = false) ∧
    (let c := (carding fun c => { c with declines := [⟨#v[0, 0, 0, 0], 0, []⟩] }).dev.card
     c.declines ≠ [] ∧ 0 < c.cqRoom ∧ (carding fun c => { c with cq := 0x000003FF00000000 }).dev.card.cqRoom = 0) ∧
    smWf 0 crown.dev.mem.cells = true ∧ (fld crown.dev.card.ctl 32 32 ≠ 0 ∧ (carding fun c => { c with ctl := 0 }).dev.card.ctl = 0) ∧
    (carding fun c => { c with hot := 0x20000000000 }).dev.tier ((fld (carding fun c => { c with hot := 0x20000000000 }).dev.card.hot 16 36).toNat * 65536) = .lp6 := by
  decide +kernel
/-- A move of a page of LP6. -/
def move1 : Move := { src := 2 ^ 41 + 0x40000, dst := 2 ^ 41 + 0x50000, leaf := 2 ^ 41 + 0x30000, leafVal := 0, part := 0, hot := 0, byMigr := true, cnt := none, accepted := 0 }
/-- A machine with a move. -/
def moves (m : Move) : State := carding fun c => { c with moves := [m] }
theorem witness_PageMoves :
    (let s := moves move1
     s.dev.moveOf move1.leaf = some move1 ∧ move1.st = .moving ∧ move1.todo = 0 :: (List.range 16).tail ∧ move1.bad = false ∧
       s.dev.retiredIn (move1.dst + 4096 * 0) 4096 = false ∧ s.dev.mem.red = [] ∧ s.dev.mem.retired = [] ∧ smWf 0 s.dev.mem.cells = true) ∧
    ((moves { move1 with bad := true }).dev.moveOf move1.leaf = some { move1 with bad := true }) ∧ crown.dev.moveOf 0 = none ∧
    (let m := { move1 with todo := [], chunks := move1.chunks.set 3 .dirty }
     let dirty := fun (m : Move) => (List.range 16).filter fun c => m.chunks[Fin.ofNat 16 c] = .dirty
     (moves m).dev.moveOf m.leaf = some m ∧ dirty m ≠ [] ∧ m.pass < 4 ∧ dirty move1 = [] ∧ 4 ≤ ({ m with pass := 4 } : Move).pass) ∧
    (let m := { move1 with todo := [] }
     (moves m).dev.moveOf m.leaf = some m ∧ m.bad = false ∧ (List.range 16).filter (fun c => m.chunks[Fin.ofNat 16 c] = .dirty) = []) ∧
    (let m := { move1 with todo := [], st := .cutting, sw := 3, chunks := move1.chunks.set 3 .dirty }
     (moves m).dev.moveOf m.leaf = some m ∧ m.bad = false ∧ m.sw < 16 ∧ (moves m).dev.mem.red = [] ∧ (moves m).dev.mem.retired = []) ∧
    (let m := { move1 with todo := [], st := .cutting, bad := true }
     (moves m).dev.moveOf m.leaf = some m ∧ m.sw = 0) ∧
    (let m := { move1 with todo := [], st := .cutting, sw := 16 }
     (moves m).dev.moveOf m.leaf = some m ∧ 16 ≤ m.sw) ∧
    (let m := { move1 with todo := [], st := .returning, sw := 3 }
     (moves m).dev.moveOf m.leaf = some m ∧ (moves { m with sw := 16 }).dev.moveOf m.leaf = some { m with sw := 16 }) ∧
    ({ move1 with st := .shooting } : Move).out = true ∧ crown.dev.card.moves = [] ∧
    (let m := { move1 with st := .shooting, acks := List.range 108 }
     m ∈ (moves m).dev.card.moves ∧ m.out = true ∧ (moves m).allAcked m = true) := by decide +kernel
/-- A read of eight bytes through window 0 from device 5. -/
def fr : FabReq := { port := 0, id := 1, dest := 0, src := 5, owner := 0, key := 7, rwin := 0, off := 0, op := .read 8 }
/-- A machine with window 0 (word 0, key) of one page of LP6, and partition 0 of owner 0 enabled or not. -/
def windowed (w0 : Word) (key : Word) (part : Word := 0x100001) (pa : Word := 0x20000040000) : State := crown.modDev fun d =>
  { d with fab := { d.fab with wins := [(0, { w0 := w0, key := key, w2 := pa, w3 := 1 })] }, part := d.part.set 0 part }
theorem witness_FabricIngress : crown.ahead 146 = none ∧ (.fabricIngress fr : Instr) ≠ .fabricIngress { fr with port := 3 } ∧
    ({ crown with agenda := [.fabricIngress fr] } : State).ahead (146 + 3) = some (.fabricIngress fr) ∧ fr.dest = crown.dev.myid ∧ ({ fr with dest := 9 } : FabReq).dest ≠ crown.dev.myid ∧ crown.dev.route 9 = none ∧
    (let s := windowed 5 7
     let w := s.dev.win 0
     w.w0.getLsbD 1 = false ∧ fld w.w0 8 12 = fr.owner ∧ w.w0.getLsbD 0 = true ∧ w.key = fr.key ∧ s.dev.winSound w = true ∧
       (w.f 2 3).testBit (remPerm fr.op) = true ∧ fr.off + remLen fr.op ≤ w.size ∧ ¬(2 ^ 56 + remLen fr.op ≤ w.size) ∧
       s.dev.asleep (s.dev.home (w.base + fr.off)) = false ∧ s.dev.tier (w.base + fr.off) ≠ .none ∧ s.dev.mem.red.length ≤ 256) ∧
    ((windowed 5 8).dev.win 0).key ≠ fr.key ∧ ((windowed 7 7).dev.win 0).w0.getLsbD 1 = true ∧ fld ((windowed 0x105 7).dev.win 0).w0 8 12 ≠ fr.owner ∧
    (windowed 5 7 0).dev.winSound ((windowed 5 7 0).dev.win 0) = false ∧ (((windowed 1 7).dev.win 0).f 2 3).testBit (remPerm fr.op) = false ∧
    (windowed 5 7 0x100001 0x38000000000).dev.tier ((windowed 5 7 0x100001 0x38000000000).dev.win 0).base = .none ∧
    crown.dev.myid = 0 ∧ (5#14) ≠ crown.dev.myid := by decide +kernel
/-- A machine with one request outstanding. -/
def asked (r : OutReq) (s : State := queued [{ doneCmd with next := 0 }]) : State := s.modDev fun d => { d with fab := { d.fab with out := [r] } }
/-- A machine with a port of the fabric. -/
def port0 (p : FPort) : State := crown.modDev fun d => { d with fab := { d.fab with ports := d.fab.ports.set 0 p } }
theorem witness_FabricAnswersAndLinks : crown.outReq 9 = none ∧ ((asked pendingReq).outReq 9 = some pendingReq ∧ pendingReq.host = true ∧ pendingReq.gang = none) ∧
    (let r := { pendingReq with side := true }
     (asked r).outReq 9 = some r ∧ r.line = none ∧ r.side = true ∧ r.gang = none ∧ r.reload = none ∧
       ({ r with reload := some 0x1000 } : OutReq).reload = some 0x1000 ∧ r.e = 0 ∧ (having .stored).me.status = .stored ∧ r.u = 0 ∧ crown.me.status ≠ .stored) ∧
    (let r := { pendingReq with host := false, line := some 0x40 }
     (asked r).outReq 9 = some r ∧ r.host = false ∧ r.line = some 0x40 ∧ 0x40 % 64 = 0) ∧
    (let r := { pendingReq with host := false }
     (asked r).outReq 9 = some r ∧ r.line = none ∧ r.side = false ∧ (asked r).cmdOf r.u r.e r.cmd = some { doneCmd with next := 0 } ∧ (0x53 : BitVec 8) ≠ 0 ∧ (0x53 : BitVec 8) ≠ 0x40) ∧
    (let r := { pendingReq with wr := true }
     (asked r).outReq 9 = some r ∧ r.line = none ∧ r.side = false ∧ r.wr = true ∧ (asked r).cmdOf r.u r.e r.cmd = some { doneCmd with next := 0 } ∧ ckind doneCmd.word = .cpy) ∧
    smWf {} (windowed 5 7).dev.fab.wins = true ∧ (crown.dev.fab.ports[0]).up = false ∧ (port0 { up := true }).dev.fab.ports[0] = { up := true } ∧
    ((port0 { retraining := true }).dev.fab.ports[0]).retraining = true ∧ (crown.dev.fab.ports[0]).retraining = false ∧
    (let n := (fld crown.dev.fab.retry 32 16).toNat
     (({ up := true } : FPort)).winRetries < n ∧ n ≤ ({ up := true, winRetries := 64 } : FPort).winRetries) := by decide +kernel
/-- A gang whose leader is this device. -/
def lead : Gang := { gtag := 1, owner := 0, leader := 0, gm := 0, gn1 := 2 }
/-- A machine with a gang. -/
def ganged (g : Gang) (f : Fabric → Fabric := id) : State := crown.modDev fun d => { d with fab := f { d.fab with gangs := [g] } }
/-- A message of member 1. -/
def gmsg : GangMsg := { gtag := 1, owner := 0, src := 4, gm := 1, gn1 := 2 }
/-- A task record of that gang. -/
def trG : Vector Word 8 := (tr0.set 2 0x201000).set 3 0x0040000100000800
theorem witness_Gangs : (ganged lead).dev.fab.gangs.find? (fun g => g.gtag == gmsg.gtag) = some lead ∧ lead.owner ≠ ({ gmsg with owner := 3 } : GangMsg).owner ∧
    lead.owner = gmsg.owner ∧ lead.gm = 0 ∧ lead.aborted = false ∧ lead.committed = false ∧ gmsg.gn1 = lead.gn1 ∧ gmsg.gm.toNat ≤ lead.gn1.toNat ∧ gmsg.gm ≠ 0 ∧
    lead.acks = [] ∧ gmsg.gm ∉ lead.votes ∧ ({ lead with aborted := true } : Gang).aborted = true ∧ ({ lead with committed := true } : Gang).committed = true ∧
    (let all := fun (g : Gang) => (List.range (g.gn1.toNat + 1)).all fun i => (g.votes ++ [gmsg.gm]).any fun v => v.toNat == i
     all { lead with votes := [0, 2] } = true ∧ all lead = false) ∧
    (ganged lead).dev.fab.gangs.find? (fun g => g.gtag == gmsg.gtag && g.owner == gmsg.owner) = some lead ∧
    (ganged lead).dev.fab.gangs.find? (fun g => g.gtag == 1 && g.gm == 0) = some lead ∧ lead.acks.length < lead.gn1.toNat ∧
    ({ lead with acks := [(1, 4), (2, 5)] } : Gang).gn1.toNat ≤ ({ lead with acks := [(1, 4), (2, 5)] } : Gang).acks.length ∧
    (crown.dev.fab.gangs = [] ∧ crown.dev.fab.decisions = [] ∧ gmsg ∉ crown.dev.fab.heldAcks) ∧ gmsg ∈ (ganged lead fun f => { f with heldAcks := [gmsg] }).dev.fab.heldAcks ∧
    lead ∈ (ganged lead fun f => { f with decisions := [lead] }).dev.fab.decisions ∧
    (let s := crown.modDev fun d => { d with fab := { d.fab with decisions := [lead] } }
     s.dev.fab.gangs = [] ∧ s.dev.fab.decisions.find? (fun g => g.gtag == gmsg.gtag) = some lead) ∧
    (let e : PoolEnt := { pool := 0, ent := 0, st := .resident, tr := trG }
     let s := crown.modDev fun d => { d with sched := { d.sched with ents := [e] } }
     e.inGang lead = true ∧ ({ ctx0 with tr := trG } : Ctx).inGang lead = true ∧ ctx0.inGang lead = false ∧ e ∈ s.dev.sched.ents ∧
       (∀ f ∈ s.dev.sched.ents, f.inGang lead = true → f.st ≠ .stopped) ∧ ∀ p : Fin 16, (s.dev.sched.slots[p]).pending = false) := by decide +kernel
/-- A group of i32 elements, enabled, of owner 0, with two children and device 5 for its parent. -/
def grp0 (f : ArGrp → ArGrp := id) : ArGrp := f { w0 := 0x5201, round := 1 }
/-- A machine with that group. -/
def grouped (g : ArGrp) (n : BitVec 32 := 1) : State := crown.modDev fun d => { d with fab := { d.fab with grps := [(0, g)] }, counters := [(0, n)] }
/-- A partial of round 1. -/
def armsg : ArMsg := { g := 0, round := 1, owner := 0, src := 8, vals := [] }
theorem witness_AllReduce :
    (let g := (grouped grp0).dev.grp 0
     g.on = true ∧ g.running = false ∧ ((grouped grp0).dev.counter (g.f 39 12) - g.round).msb = false ∧ ((grouped grp0 0).dev.counter (g.f 39 12) - g.round).msb = true ∧
       g.sent = false ∧ g.got = [] ∧ g.early = [] ∧ 0 < g.f 8 4 ∧ fld g.w0 27 12 = armsg.owner) ∧ (crown.dev.grp 0).on = false ∧
    (let g := (grouped (grp0 fun g => { g with running := true })).dev.grp 0
     g.running = true ∧ armsg.round = g.round ∧ g.got = [] ∧ g.got.length + 1 < g.f 8 4) ∧
    (let g := (grouped (grp0 fun g => { g with running := true, got := [(9, [])] })).dev.grp 0
     g.got.length + 1 = g.f 8 4 ∧ (∀ c ∈ g.got, c.1 ≠ armsg.src) ∧ g.f 26 1 = 0 ∧ g.parent ≠ crown.dev.myid) ∧
    (({ armsg with round := 2 } : ArMsg).round ≠ 1 ∧ (2#32 - 1#32).msb = false) ∧
    (let g := (grouped (grp0 fun g => { g with running := true, sent := true })).dev.grp 0
     g.running = true ∧ g.sent = true ∧ smWf 0 (grouped grp0).dev.counters = true) ∧
    (let d := (windowed 5 7).dev
     (d.part[0]).getLsbD 20 = true ∧ fld d.part[0] 8 12 = fld (d.grp 0).w0 27 12) ∧ (∀ q : Fin 8, (crown.dev.part[q]).getLsbD 20 = false) := by decide +kernel
/-- A machine whose host link speaks CXL. -/
def cxl : State := crown.modDev fun d => { d with hl := { d.hl with link := .cxl } }
theorem witness_HostRegisters : (4#21).toNat % 8 ≠ 0 ∧ (0x1C0008#21).toNat = 0x1C0008 ∧ (0x180000#21).toNat = 0x180000 + 8 * (0 : Fin 8).val ∧
    (0x478#21).toNat = 0x400 + 8 * (15 : Fin 16).val ∧ (0x12FFF8#21).toNat = 0x110000 + 32 * 4095 + 8 * 3 ∧ (0x100100#21).toNat = 0x100100 + 8 * (0 : Fin 24).val ∧
    (0x20008#21).toNat = 0x20008 + 32 * (0 : Fin 16).val ∧ (0x8F0#21).toNat = 0x810 + 32 * (7 : Fin 8).val ∧ crown.dev.hl.link ≠ .cxl ∧
    (cxl.dev.hl.link = .cxl ∧ 0x20000000000 + 64 ≤ 2 ^ 44 ∧ cxl.dev.tier 0x20000000000 ≠ .none ∧ cxl.dev.tier 0x38000000000 = .none ∧ cxl.dev.card.moves = [] ∧
      cxl.dev.mem.red = [] ∧ cxl.dev.mem.retired = [] ∧ smWf 0 cxl.dev.mem.cells = true) := by decide +kernel
/-- What the boot finds: six working crowns or five. -/
def boot (ok : BitVec 8) : BootArg :=
  { failed := [], dieOk := ok, stackOk := 0xFF, routerOk := ok, brimLinkOk := 0xFF, linkOk := 0x3FF, repair := [], stage1 := [], stage2 := [], microcode := [],
    ixsize := 64, spill := [], hotBase := 0, fab := [], part := [] }
/-- A machine with attestation state. -/
def attested (f : Attest → Attest) : State := crown.modDev fun d => { d with att := f d.att }
theorem witness_BootLinksAndAttestation :
    (let good := fun (a : BootArg) => (List.range 8).filter fun k =>
       a.dieOk.getLsbD k && a.stackOk.getLsbD k && a.routerOk.getLsbD k && a.brimLinkOk.getLsbD k &&
         decide (8 ≤ ((List.range 9).filter fun p => !(a.failed.getD k 0).getLsbD p).length)
     let felt := fun (a : BootArg) => ({ links := a.linkOk, routers := a.routerOk, brimLinks := a.brimLinkOk } : Felt)
     let sound := fun (a : BootArg) o x y => (felt a).sound (feltPath o x y)
     6 ≤ (good (boot 0x3F)).length ∧ (∀ x ∈ good (boot 0x3F), ∀ y ∈ good (boot 0x3F), x ≠ y → sound (boot 0x3F) .cxFirst x y = true ∨ sound (boot 0x3F) .cyFirst x y = true) ∧
       sound (boot 0x3F) .cxFirst 4 3 = false ∧ sound (boot 0x3F) .cyFirst 4 3 = true ∧ (good (boot 0x1F)).length < 6) ∧
    ((attested fun x => { x with failed := true }).agenda = [] ∧ (attested fun x => { x with failed := true }).dev.att.failed = true) ∧
    (2 < (attested fun x => { x with arg := 3 }).dev.att.arg.toNat ∧ crown.dev.att.arg.toNat ≤ 2) ∧
    (let q : List (Option (BitVec 14) × BitVec 256) := List.replicate 16 (none, 0)
     16 ≤ (attested fun x => { x with queue := q }).dev.att.queue.length) ∧
    (let x := (attested fun x => { x with signing := some (none, 0, []) }).dev.att
     x.queue.length < 15 ∧ x.signing = some (none, 0, []) ∧ x.queue = []) ∧
    (attested fun x => { x with signing := some (some 4, 0, []), queue := [(none, 5)] }).dev.att.signing = some (some 4, 0, []) ∧
    crown.dev.att.signing = none ∧ crown.dev.att.queue = [] := by decide +kernel
/-- A machine at a clock and a target, with COOL or without. -/
def powered (mhz : BitVec 10) (stat : Word := 0) : State := crown.modDev fun d => { d with pow := { d.pow with mhz := d.pow.mhz.set 0 mhz, stat := stat } }
/-- A crown whose batt 2 has tripped, or not. -/
def dcg2 (x : Dcg) : State := crown fun y => { y with cfg := { y.cfg with dcg := y.cfg.dcg.set 2 x } }
theorem witness_ClocksAndGovernor : (powered 800 0x0100000000000000).dev.pow.stat.getLsbD 56 = true ∧ (powered 425).dev.pow.stat.getLsbD 56 = false ∧
    (425#10 ≤ 425#10 ∧ ¬(426#10 ≤ 425#10)) ∧ crown.cur ≠ brim ∧ crown.me.ck.gateRun = 0 ∧
    (crown fun x => { x with ck := { x.ck with gateRun := 1, nextMhz := 425 } }).me.ck.gateRun ≠ 0 ∧
    (let out := fun (a : CoolArg) => 40 < a.inlet.toNat ∨ a.flow < 15; out ⟨41, 20⟩ ∧ out ⟨40, 14⟩ ∧ ¬out ⟨40, 15⟩) ∧ (powered 425).dev.pow.lim.toNat < (0xFFFF#16).toNat ∧ (0#16).toNat + 100 < (powered 425).dev.pow.lim.toNat ∧
    ((powered 425).dev.pow.mhz[0] < (powered 425).dev.pow.target[0]) ∧ (crown.unit (crownUnit 0)).status = .running ∧ (crown.unit (crownUnit 3)).status = .absent ∧
    0 < (fld crown.dev.pow.dcgcfg 32 16).toNat ∧
    (let tw := (fld crown.dev.pow.dcgcfg 0 8).toNat
     tw < (0xFF#8).toNat ∧ (tw ≤ tw ∧ tw < tw + (fld crown.dev.pow.dcgcfg 24 4).toNat) ∧ 0 + (fld crown.dev.pow.dcgcfg 24 4).toNat ≤ tw) ∧
    ((crown.unit 0).cfg.dcg[2]).trip = false ∧ (((dcg2 { trip := true }).unit 0).cfg.dcg[2]).trip = true ∧ (0 + 1 < (fld crown.dev.pow.dcgcfg 32 16).toNat) ∧
    ((dcg2 { trip := true }).unit (crownUnit 0)).tripDue = true ∧ (∀ k < 8, (crown.unit (crownUnit k)).tripDue = false) ∧
    ((crown.unit (crownUnit 0)).status ≠ .absent ∧ (crown.unit (crownUnit 0)).cfg.failed = false ∧ crown.dev.sched.ents = []) := by decide +kernel
/-- A machine with six survivors and their banks. -/
def hbm (f : Health → Health := id) : State := crown.modDev fun d => { d with hbmcfg := 0x1603F004001, hl := f d.hl }
theorem witness_MemoryErrors : regionOf (0x3FFFFFF#32).toNat ≠ .reserved ∧ smWf {} (crown.unit (crownUnit 0)).st.face = true ∧ regionOf (0x8000000#32).toNat = .reserved ∧
    crown.dev.ctl (0x38000000000#52).toNat = none ∧ (crown.unit (crownUnit 0)).phase.on = false ∧ crown.dev.mem.poison.contains ((0#52).toNat / 64) = false ∧
    (crown.modDev fun d => { d with mem := { d.mem with poison := [0] } }).dev.mem.poison.contains ((0#52).toNat / 64) = true ∧
    hbm.dev.ctl (0#52).toNat = some (0 : Fin 16).val ∧ hbm.dev.mem.poison = [] ∧
    (crown.unit 0).ctx.isSome = true ∧ (crown.unit 0).status ≠ .killed ∧ idle0.me.ctx = none ∧
    (let x := (crown fun x => { x with phase := { x.phase with on := true } }).me
     x.phase.on = true ∧ x.phase.cancels < 2) ∧
    crown.dev.mem.cellOf 0 = none ∧ ((crown.modDev fun d => { d with mem := { d.mem with red := [⟨0, 0, .f32, .finite, 0, false, none⟩] } }).dev.mem.cellOf 0).isSome = true ∧
    crown.dev.remapOf 0 0 0 0 = none ∧
    (crown.modDev fun d => { d with hl := { d.hl with remap := [{ k := 0, pc := 0, bank := 0, row := 0, spare := 5, copy := 5 }] } }).dev.remapOf 0 0 0 0 ≠ none := by
  decide +kernel
/-- A bank with a row whose refresh is due. -/
def bank1 : Bank := { key := 5, row := some 9, cnts := [(9, 4096)], rfm := [9] }
theorem witness_MemoryRefresh : (∀ b ∈ crown.dev.hl.banks, b.rfm = []) ∧
    ((hbm fun h => { h with banks := [bank1] }).dev.hl.banks = [] ++ bank1 :: [] ∧ bank1.rfm = 9 :: [] ∧
      (hbm fun h => { h with banks := [bank1] }).dev.hl.bank bank1.key = bank1 ∧ (hbm fun h => { h with banks := [bank1] }).dev.fab.unanswered = []) ∧
    (hbm fun h => { h with selfRef := [0] }).dev.hl.selfRef.contains (128 * 0 + 0) = true ∧ crown.dev.hl.selfRef.contains (128 * 0 + 0) = false ∧
    (crown.dev.hl.hbm[hbmCtl 0 0]).sridle ≠ 0 ∧ ((hbm fun h => { h with hbm := h.hbm.set 0 { sridle := 0 } }).dev.hl.hbm[0]).sridle = 0 ∧
    crown.dev.fab.unanswered = [] ∧ (fld (63#64) 0 16).toNat < 64 ∧ 32768 < (fld (0xFFFF#64) 0 16).toNat := by decide +kernel
/-- The ADD of chapter 8. -/
def add5 : Instr := .add ⟨sh, 5, .reg 5, .reg 6, .w64, false, false⟩
theorem witness_StepRunsTheFetchedInstruction :
    (let s := fetching 2 [add5]
     let b := s.startClock
     let pc := b.me.seq.pc.toNat
     let h : Header := ⟨2⟩
     s.agenda = [] ∧ s.dev.att.failed = false ∧ s.me.canIssue = true ∧ b.me.seq.rix = 0 ∧ b.me.icBytes pc 8 = some (leBytes 8 2) ∧
       (b.me.icBytes (pc + 8) (h.len - 8)).map (fun bs => h.words (wordsOf (h.len / 8 - 1) bs)) = some [(1, 0x0101428600000000)] ∧
       (∀ q : Fin 4, (b.me.seq.sticky[q]).released = true) ∧ headerBad (isBrim b.cur) h [(1, 0x0101428600000000)] = false ∧ segmentBad b.me h = false ∧
       decodeSlot 1 0x0101428600000000 = .ok add5) ∧
    (({ crown with agenda := [.battTrip] } : State).agenda = .battTrip :: []) ∧ (idle0.agenda = [] ∧ idle0.dev.att.failed = false ∧ idle0.me.canIssue = false) := by
  decide +kernel
theorem witness_EncodeDecode : add5.wf = true ∧ encode add5 = some (1, 0x0101428600000000) ∧ decodeSlot 1 0x0101428600000000 = .ok add5 := by decide
/-- The state that a step leaves. -/
def stepped (s : State) : Option State := match step s with | .next t => some t | _ => none
theorem witness_MemoryInvariant : smWf 0 State.reset.dev.mem.cells = true ∧ (stepped State.reset).isSome = true := by decide +kernel
/-- A result for s4 and ls0. -/
def fl4 (id : Nat) (due : Nat) : Flight := ⟨id, 1, .s 4, due, BitVec.allOnes 128, 7, some .ls0⟩
theorem witness_ResultsAndFrames : (fl4 0 1).dst ≠ .csr 0 ∧ (fl4 0 1).mask ≠ 0 ∧ (∀ f ∈ (crown fun x => { x with seq := { x.seq with flights := [fl4 0 1, fl4 1 1] } }).me.seq.flights,
    f.due ≤ 1 ∧ f.dst = .s 4) ∧ (∀ n, (fl4 0 1).dst ≠ .csr n) ∧ (fl4 0 1).id < (fl4 1 1).id := by decide +kernel
theorem witness_NullifiedOperations : crown.me.guardOn .none ⟨0, true⟩ = false ∧ crown.me.guardOn .one ⟨0, true⟩ = false := by decide +kernel
theorem witness_TakingAndReturningFromATrap : ¬(2 < crown.me.trap.tl.toNat + 1) ∧ crown.me.wrs ≠ 0 ∧
    2 < (crown fun x => { x with trap := { x.trap with tl := 2 } }).me.trap.tl.toNat + 1 ∧
    (crown fun x => { x with ctx := some { ctx0 with tr := tr0.set 3 0 } }).me.wrs = 0 := by decide +kernel
theorem witness_StoresToScratchAndMemory : smWf 0 crown.dev.mem.cells = true ∧ crown.dev.mem.red = [] ∧ crown.dev.mem.retired = [] ∧
    smWf {} crown.me.st.face = true ∧ (0 : UnitId) ≠ brim ∧ crown.me.cube.hidden = [] ∧ (granAt ({} : Stores) 0).poison = false := by decide +kernel

end Sys2Proof.Tests
end

section
/-! SUPPORT. Results (R85, R89, R167, R185, R186): what putting one in flight leaves alone, what one that lands writes, and
which of several that land in one place remains. -/
namespace Sys2Proof.Machine

/-! ### The constant registers (R85) -/
@[simp] theorem Regs.rs_zero (r : Regs) : r.rs 0 = 0 := rfl
@[simp] theorem Regs.rp_zero (r : Regs) : r.rp 0 = BitVec.allOnes 128 := rfl
@[simp] theorem UnitSt.rdS_zero (x : UnitSt) (b : Boost) : x.rdS b 0 = 0 := rfl
@[simp] theorem UnitSt.rdP_zero (x : UnitSt) (b : Boost) : x.rdP b 0 = BitVec.allOnes 128 := rfl

/-! ### Writes of one register (R85, R167) -/
@[simp] theorem Regs.a_ws (r : Regs) (n : Fin 64) (v : Word) : (r.ws n v).a = r.a := (r.ws_frame n v).1
@[simp] theorem Regs.p_ws (r : Regs) (n : Fin 64) (v : Word) : (r.ws n v).p = r.p := (r.ws_frame n v).2.1
@[simp] theorem Regs.v_ws (r : Regs) (n : Fin 64) (v : Word) : (r.ws n v).v = r.v := (r.ws_frame n v).2.2.1
@[simp] theorem Regs.cb_ws (r : Regs) (n : Fin 64) (v : Word) : (r.ws n v).cb = r.cb := (r.ws_frame n v).2.2.2.1
@[simp] theorem Regs.cq_ws (r : Regs) (n : Fin 64) (v : Word) : (r.ws n v).cq = r.cq := (r.ws_frame n v).2.2.2.2
@[simp] theorem Regs.s_wp (r : Regs) (n : PReg) (m v : Mask) : (r.wp n m v).s = r.s := (r.wp_frame n m v).1
@[simp] theorem Regs.a_wp (r : Regs) (n : PReg) (m v : Mask) : (r.wp n m v).a = r.a := (r.wp_frame n m v).2.1
@[simp] theorem Regs.v_wp (r : Regs) (n : PReg) (m v : Mask) : (r.wp n m v).v = r.v := (r.wp_frame n m v).2.2.1
@[simp] theorem Regs.cb_wp (r : Regs) (n : PReg) (m v : Mask) : (r.wp n m v).cb = r.cb := (r.wp_frame n m v).2.2.2.1
@[simp] theorem Regs.cq_wp (r : Regs) (n : PReg) (m v : Mask) : (r.wp n m v).cq = r.cq := (r.wp_frame n m v).2.2.2.2
theorem Regs.rs_ws (r : Regs) (n k : Fin 64) (v : Word) : (r.ws n v).rs k = if n = k ∧ k ≠ 0 then v else r.rs k := by
  by_cases h : n = k
  · subst h
    by_cases h0 : n = 0
    · simp [h0]
    · simp [h0, r.rs_ws_self h0]
  · simp [h, r.rs_ws_ne (Ne.symm h)]
theorem Regs.getLsbD_rp_wp (r : Regs) (n k : PReg) (m v : Mask) {i : Nat} (hi : i < 128) :
    ((r.wp n m v).rp k).getLsbD i = if n = k ∧ k ≠ 0 ∧ m.getLsbD i = true then v.getLsbD i else (r.rp k).getLsbD i := by
  by_cases hk : k = 0
  · simp [hk]
  by_cases h : n = k
  · subst h
    cases hm : m.getLsbD i <;> simp_all [Regs.wp, Regs.rp]
  · have : n.val ≠ k.val := fun e => h (Fin.ext e)
    by_cases hn : n = 0
    · simp [Regs.wp, hn, Ne.symm hk]
    · simp [Regs.wp, Regs.rp, hn, hk, h, this]
/-- The model's short form of a masked vector write is the merge itself. -/
theorem maskedWrite_eq_mergeLanes (m : Mask) (new old : VecVal) :
    (if m = BitVec.allOnes 128 then new else mergeLanes m new old) = mergeLanes m new old := by
  split
  · next h => rw [h, mergeLanes_allOnes]
  · rfl
theorem Regs.lane_wv (r : Regs) (n k : Fin 64) (m : Mask) (v : VecVal) {i : Nat} (hi : i < 128) :
    lane (r.wv n m v).v[k] i = if n = k ∧ m.getLsbD i = true then lane v i else lane r.v[k] i := by
  rw [Regs.wv, maskedWrite_eq_mergeLanes]
  by_cases h : n = k
  · subst h
    simpa using lane_mergeLanes m v r.v[n] hi
  · have : n.val ≠ k.val := fun e => h (Fin.ext e)
    simp [h, this]

/-! ### The register write of a landing result, file by file -/
theorem Regs.rs_landOne (r : Regs) (f : Flight) (n : Fin 64) :
    (r.landOne f).rs n = if f.dst = .s n ∧ n ≠ 0 then f.val.setWidth 64 else r.rs n := by
  unfold Regs.landOne
  cases f.dst with
  | s k => simp [Regs.rs_ws]
  | _ => simp [Regs.rs, Regs.wv]
theorem Regs.getLsbD_rp_landOne (r : Regs) (f : Flight) (n : PReg) {i : Nat} (hi : i < 128) :
    ((r.landOne f).rp n).getLsbD i =
      if f.dst = .p n ∧ n ≠ 0 ∧ f.mask.getLsbD i = true then f.val.getLsbD i else (r.rp n).getLsbD i := by
  unfold Regs.landOne
  cases f.dst with
  | p k => simp only [Regs.getLsbD_rp_wp _ _ _ _ _ hi, FDest.p.injEq, BitVec.getLsbD_setWidth, hi, decide_true, Bool.true_and]
  | _ => simp [Regs.rp, Regs.wv]
theorem Regs.val_landOne (r : Regs) (f : Flight) (n : Fin 32) : ((r.landOne f).a[n]).val =
    match f.dst with
    | .a m => if m = n then f.val.setWidth 32 else (r.a[n]).val
    | .am m md => if m = n then ((r.a[n]).setMode md).val else (r.a[n]).val
    | _ => (r.a[n]).val := by
  unfold Regs.landOne
  cases f.dst with
  | a k | am k md =>
    by_cases h : k = n
    · subst h; simp
    · have : k.val ≠ n.val := fun e => h (Fin.ext e)
      simp [h, this]
  | _ => simp [Regs.wv]
theorem Regs.md_landOne (r : Regs) (f : Flight) (n : Fin 32) (h : ∀ md, f.dst ≠ .am n md) :
    ((r.landOne f).a[n]).md = (r.a[n]).md := by
  unfold Regs.landOne
  cases hd : f.dst with
  | a k =>
    by_cases e : k.val = n.val <;> simp [e]
  | am k md =>
    have : k.val ≠ n.val := fun e => h md (Fin.ext e ▸ hd)
    simp [this]
  | _ => simp [Regs.wv]
theorem Regs.lane_landOne (r : Regs) (f : Flight) (n : Fin 64) {i : Nat} (hi : i < 128) :
    lane (r.landOne f).v[n] i = if f.dst = .v n ∧ f.mask.getLsbD i = true then lane f.val i else lane r.v[n] i := by
  unfold Regs.landOne
  cases f.dst with
  | v k => simp only [Regs.lane_wv _ _ _ _ _ hi, FDest.v.injEq]
  | _ => simp
theorem Regs.cb_landOne (r : Regs) (f : Flight) (n : Fin 16) :
    (r.landOne f).cb[n] = if f.dst = .cb n then f.val.setWidth 64 else r.cb[n] := by
  unfold Regs.landOne
  cases f.dst with
  | cb k => simp [Vector.getElem_set, Fin.ext_iff]
  | _ => simp [Regs.wv]
theorem Regs.cq_landOne (r : Regs) (f : Flight) (n : Fin 32) :
    (r.landOne f).cq[n] = if f.dst = .cq n then f.val.setWidth 64 else r.cq[n] := by
  unfold Regs.landOne
  cases f.dst with
  | cq k => simp [Vector.getElem_set, Fin.ext_iff]
  | _ => simp [Regs.wv]

/-! ### The other places where a result lands -/
/-- VCTL after the landing of a result (R68). -/
def FpCtl.landOne (c : FpCtl) (f : Flight) : FpCtl :=
  if f.dst = .flags then { c with vctl := c.vctl ||| ((f.val.setWidth 32 &&& 0x1F#32) <<< 11) } else c
/-- RCTL after the landing of a TRCON or TRCOFF (R339). -/
def Observe.landOne (o : Observe) (own : Option (BitVec 12)) (f : Flight) : Observe :=
  match f.dst with
  | .trc on => o.trc own on (f.val.setWidth 64)
  | _ => o
/-- The latches after the landing of a result: with no active lane its latch keeps its value (R89). -/
def Latches.landOne (l : Latches) (f : Flight) : Latches :=
  match f.latch with
  | some n => if f.mask = 0 then l else l.put n f.mask f.val
  | none => l
theorem Observe.landOne_of_ne_trc (o : Observe) (own : Option (BitVec 12)) (f : Flight) (h : ∀ b, f.dst ≠ .trc b) :
    o.landOne own f = o := by
  unfold Observe.landOne
  split
  · next b hb => exact absurd hb (h b)
  · rfl
theorem Latches.landOne_keeps (l : Latches) (f : Flight) (h : f.latch = none ∨ f.mask = 0) : l.landOne f = l := by
  unfold Latches.landOne
  rcases h with h | h
  · rw [h]
  · split
    · exact if_pos h
    · rfl
theorem Latches.landOne_puts (l : Latches) (f : Flight) {n : Latch} (hn : f.latch = some n) (h : f.mask ≠ 0) :
    l.landOne f = l.put n f.mask f.val := by
  rw [Latches.landOne, hn]
  exact if_neg h
/-- A latch of scalar width takes the value of a result with an active lane, whole. -/
theorem Latches.scalars_landOne (l : Latches) (f : Flight) (h : f.mask ≠ 0) :
    (l.landOne f).ls0 = (if f.latch = some .ls0 then f.val.setWidth 64 else l.ls0) ∧
    (l.landOne f).ls1 = (if f.latch = some .ls1 then f.val.setWidth 64 else l.ls1) ∧
    (l.landOne f).la0 = (if f.latch = some .la0 then f.val.setWidth 32 else l.la0) ∧
    (l.landOne f).la1 = (if f.latch = some .la1 then f.val.setWidth 32 else l.la1) := by
  cases hl : f.latch with
  | none => simp [l.landOne_keeps f (.inl hl)]
  | some n =>
    rw [l.landOne_puts f hl h]
    cases n <;> simp [Latches.put]
/-- A latch of vector width takes the active lanes of a result (R221). -/
theorem Latches.lanes_landOne (l : Latches) (f : Flight) {i : Nat} (hi : i < 128) :
    let new := fun (n : Latch) (old : VecVal) => if f.latch = some n ∧ f.mask.getLsbD i = true then lane f.val i else lane old i
    lane (l.landOne f).lv0 i = new .lv0 l.lv0 ∧ lane (l.landOne f).lv1 i = new .lv1 l.lv1 ∧
    lane (l.landOne f).lvm i = new .lvm l.lvm ∧ lane (l.landOne f).lac i = new .lac l.lac := by
  cases hl : f.latch with
  | none => simp [l.landOne_keeps f (.inl hl)]
  | some n =>
    by_cases h : f.mask = 0
    · simp [l.landOne_keeps f (.inr h), h]
    · rw [l.landOne_puts f hl h]
      simp only [Latches.put, maskedWrite_eq_mergeLanes]
      cases n <;> simp [lane_mergeLanes _ _ _ hi]

/-! ### A landing result as one update of its unit -/
/-- A unit after the landing of a result that is not a CSRW's, `own` the owner of the unit. -/
def UnitSt.landOne (x : UnitSt) (own : Option (BitVec 12)) (f : Flight) : UnitSt :=
  { x with regs := x.regs.landOne f, lat := x.lat.landOne f, fp := x.fp.landOne f, obs := x.obs.landOne own f }
theorem State.land_eq (s : State) (u : UnitId) (f : Flight) (h : ∀ n, f.dst ≠ .csr n) :
    s.land u f = s.modUnit u fun x => x.landOne (s.ownerOf u) f := by
  simp only [State.land, UnitSt.landOne, Regs.landOne, FpCtl.landOne, Observe.landOne, Latches.landOne]
  cases hd : f.dst with
  | csr n => exact absurd hd (h n)
  | _ =>
    cases f.latch with
    | none => simp only [reduceCtorEq, if_true, if_false]
    | some l =>
      by_cases hm : f.mask = 0
      · simp only [if_pos hm, reduceCtorEq, if_true, if_false]
      · simp only [if_neg hm, reduceCtorEq, if_true, if_false, State.modUnit_modUnit, Function.comp_def]
/-- The unit on which a result lands. -/
theorem State.unit_land (s : State) (u : UnitId) (f : Flight) (h : ∀ n, f.dst ≠ .csr n) :
    (s.land u f).unit u = (s.unit u).landOne (s.ownerOf u) f := by
  rw [s.land_eq u f h, State.unit_modUnit_self]
theorem State.dev_land (s : State) (u : UnitId) (f : Flight) (h : ∀ n, f.dst ≠ .csr n) : (s.land u f).dev = s.dev := by
  rw [s.land_eq u f h, State.dev_modUnit]

/-! ### A result put in flight -/
theorem Boost.lvl_eq_none_iff (b : Boost) : Boost.lvl b = none ↔ b = .none := by cases b <;> simp [Boost.lvl]
/-- A boosted result goes to its buffer alone (R179). -/
theorem UnitSt.emit_flights_of_boosted (x : UnitSt) (r : Result) (h : r.bst ≠ .none) : (x.emit r).seq.flights = x.seq.flights := by
  obtain ⟨l, hl⟩ := Option.ne_none_iff_exists'.1 fun e => h ((Boost.lvl_eq_none_iff _).1 e)
  simp only [UnitSt.emit, hl]
/-- An unboosted result is one more flight, behind it one for its flags if it has any (R68). -/
theorem UnitSt.emit_of_unboosted (x : UnitSt) (r : Result) (h : r.bst = .none) :
    (x.emit r).seq.boost = x.seq.boost ∧ ∃ more, (x.emit r).seq.flights = x.seq.flights ++
      ⟨x.seq.nextId, r.slot, if r.nw then .none else r.dst, x.ck.scyc + r.lat, r.mask, r.val, r.latch⟩ :: more ∧
      (r.flags = 0 → more = []) ∧ ∀ f ∈ more, f.dst = .flags := by
  simp only [UnitSt.emit, h, Boost.lvl, if_true]
  refine ⟨trivial, _, rfl, fun hf => if_pos hf, fun f hf => ?_⟩
  split at hf
  · cases hf
  · rw [List.mem_singleton.1 hf]
/-- A result put in flight with its charge changes the sequencer and ECTR of its unit. -/
theorem State.sends_eq (s : State) (c : Fin 16) (r : Result) :
    ∃ e : Word, s.sends c r = s.modMe fun x => { x.emit r with ck := { x.ck with ectr := e } } := by
  obtain ⟨e, he⟩ := (s.emit r).charge_frame s.cur c 1
  refine ⟨e, ?_⟩
  rw [State.sends, he, State.emit, State.modMe, State.modUnit_modUnit, State.modMe]
  congr 1
  funext x
  simp

/-! ### The order of landing (R68, R186) -/
theorem mem_insFlight (f g : Flight) (l : List Flight) : g ∈ insFlight f l ↔ g = f ∨ g ∈ l := by
  induction l with
  | nil => simp [insFlight]
  | cons a t ih =>
    unfold insFlight
    split
    · simp
    · simp [ih, or_left_comm]
theorem insFlight_sorted (f : Flight) (l : List Flight) (h : l.Pairwise fun a b => a.rank ≤ b.rank) :
    (insFlight f l).Pairwise fun a b => a.rank ≤ b.rank := by
  induction l with
  | nil => simp [insFlight]
  | cons a t ih =>
    obtain ⟨ha, ht⟩ := List.pairwise_cons.1 h
    unfold insFlight
    split
    · next hf =>
      refine List.pairwise_cons.2 ⟨fun g hg => ?_, h⟩
      rcases List.mem_cons.1 hg with rfl | hg
      · exact hf.le
      · exact hf.le.trans (ha g hg)
    · next hf =>
      refine List.pairwise_cons.2 ⟨fun g hg => ?_, ih ht⟩
      rcases (mem_insFlight f g t).1 hg with rfl | hg
      · exact Nat.le_of_not_lt hf
      · exact ha g hg
theorem mem_landOrder (g : Flight) (l : List Flight) : g ∈ landOrder l ↔ g ∈ l := by
  have key : ∀ t, g ∈ l.foldl (fun t f => insFlight f t) t ↔ g ∈ l ∨ g ∈ t := by
    induction l with
    | nil => simp
    | cons f l ih => intro t; simp [ih, mem_insFlight, or_left_comm, or_assoc]
  simpa [landOrder] using key []
theorem landOrder_sorted (l : List Flight) : (landOrder l).Pairwise fun a b => a.rank ≤ b.rank :=
  List.foldlRecOn l _ List.Pairwise.nil fun t ht f _ => insFlight_sorted f t ht
theorem Flight.rank_of_ne_csr (f : Flight) (h : ∀ c, f.dst ≠ .csr c) : f.rank = f.id + 1 := by
  unfold Flight.rank
  split
  · next c hc => exact absurd hc (h c)
  · rfl

/-! ### Several results that land in one schedule cycle (R186) -/
/-- What no step of a fold changes, the fold does not change. -/
theorem foldl_keeps {σ α β : Type} {step : σ → α → σ} (obs : σ → β) (l : List α) (s : σ)
    (h : ∀ t, ∀ a ∈ l, obs (step t a) = obs t) : obs (l.foldl step s) = obs s :=
  List.foldlRecOn l step (motive := fun t => obs t = obs s) rfl fun t ht a ha => (h t a ha).trans ht
/-- Of the results that write one place, landing in the order of their ranks, the one of the highest rank remains. -/
theorem foldl_last_writer {σ β : Type} {step : σ → Flight → σ} (obs : σ → β) (writes : Flight → Prop) (f : Flight) (v : β)
    (hw : ∀ t, obs (step t f) = v) {l : List Flight} (hl : l.Pairwise fun a b => a.rank ≤ b.rank) (hf : f ∈ l)
    (hk : ∀ t, ∀ g ∈ l, ¬writes g → obs (step t g) = obs t) (hlast : ∀ g ∈ l, writes g → g ≠ f → g.rank < f.rank) (s : σ) :
    obs (l.foldl step s) = v := by
  induction l generalizing s with
  | nil => cases hf
  | cons a l ih =>
    obtain ⟨ha, hl⟩ := List.pairwise_cons.1 hl
    rw [List.foldl_cons]
    by_cases hm : f ∈ l
    · exact ih hl hm (fun t g hg => hk t g (.tail _ hg)) (fun g hg => hlast g (.tail _ hg)) _
    · obtain rfl : f = a := (List.mem_cons.1 hf).resolve_right hm
      have quiet : ∀ g ∈ l, ¬writes g := fun g hg hwr =>
        absurd (hlast g (.tail _ hg) hwr fun e => hm (e ▸ hg)) (Nat.not_lt.2 (ha g hg))
      rw [foldl_keeps obs l _ fun t g hg => hk t g (.tail _ hg) (quiet g hg), hw]

/-- The state before the results due at the schedule cycle `sc` land: they have left the flights of their unit. -/
def State.takeDue (s : State) (u : UnitId) (sc : Nat) : State :=
  s.modUnit u fun x => { x with seq := { x.seq with flights := x.seq.flights.filter fun f => sc < f.due } }
/-- The results that land at the schedule cycle `sc`, in their order. -/
def State.dueOrder (s : State) (u : UnitId) (sc : Nat) : List Flight :=
  landOrder ((s.unit u).seq.flights.filter fun f => f.due ≤ sc)
theorem State.mem_dueOrder (s : State) (u : UnitId) (sc : Nat) (f : Flight) :
    f ∈ s.dueOrder u sc ↔ f ∈ (s.unit u).seq.flights ∧ f.due ≤ sc := by
  simp [State.dueOrder, mem_landOrder]
theorem State.landAll_eq (s : State) (u : UnitId) (sc : Nat) :
    s.landAll u sc = (s.dueOrder u sc).foldl (fun s f => s.land u f) (s.takeDue u sc) := by
  unfold State.landAll State.dueOrder State.takeDue
  simp only
  split
  · next h =>
    have none_due : (s.unit u).seq.flights.filter (fun f => f.due ≤ sc) = [] := List.isEmpty_iff.1 h
    have all_stay : (s.unit u).seq.flights.filter (fun f => sc < f.due) = (s.unit u).seq.flights :=
      List.filter_eq_self.2 fun f hf => by simpa using List.filter_eq_nil_iff.1 none_due f hf
    rw [none_due, State.modUnit, all_stay]
    exact (s.setUnit_unit u).symm
  · rfl

section
variable (s : State) (u : UnitId) (sc : Nat) (hq : ∀ f ∈ (s.unit u).seq.flights, ∀ c, f.dst ≠ .csr c)
/-- What no due result changes when it lands is as it was before the landing. -/
theorem State.landAll_keeps {β : Type} (obs : State → β)
    (hk : ∀ t : State, ∀ g ∈ (s.unit u).seq.flights, g.due ≤ sc → obs (t.land u g) = obs t) :
    obs (s.landAll u sc) = obs (s.takeDue u sc) := by
  rw [State.landAll_eq]
  refine foldl_keeps obs _ _ fun t g hg => ?_
  obtain ⟨hm, hd⟩ := (s.mem_dueOrder u sc g).1 hg
  exact hk t g hm hd
include hq
theorem State.flights_landAll :
    ((s.landAll u sc).unit u).seq.flights = (s.unit u).seq.flights.filter fun f => sc < f.due := by
  rw [s.landAll_keeps u sc fun t => (t.unit u).seq.flights]
  · rw [State.takeDue, State.unit_modUnit_self]
  · intro t g hg _
    rw [t.unit_land u g (hq g hg)]
    rfl
theorem State.dev_landAll : (s.landAll u sc).dev = s.dev :=
  s.landAll_keeps u sc (fun t => t.dev) fun t g hg _ => t.dev_land u g (hq g hg)
/-- A register that no due result names keeps its value. -/
theorem State.rs_landAll_keeps (n : Fin 64) (hn : ∀ g ∈ (s.unit u).seq.flights, g.due ≤ sc → g.dst ≠ .s n) :
    ((s.landAll u sc).unit u).regs.rs n = (s.unit u).regs.rs n := by
  rw [s.landAll_keeps u sc fun t => (t.unit u).regs.rs n]
  · rw [State.takeDue, State.unit_modUnit_self]
  · intro t g hg hd
    rw [t.unit_land u g (hq g hg)]
    exact (Regs.rs_landOne _ g n).trans (if_neg fun h => hn g hg hd h.1)
/-- A part of the registers holds what the due result of the latest issue among those that write it has written. -/
theorem State.landAll_last_writer {β : Type} (part : Regs → β) (writes : Flight → Prop) (f : Flight) (v : β)
    (hf : f ∈ (s.unit u).seq.flights) (hd : f.due ≤ sc) (hw : ∀ r : Regs, part (r.landOne f) = v)
    (hk : ∀ (r : Regs) (g : Flight), ¬writes g → part (r.landOne g) = part r)
    (hlast : ∀ g ∈ (s.unit u).seq.flights, g.due ≤ sc → writes g → g ≠ f → g.id < f.id) :
    part ((s.landAll u sc).unit u).regs = v := by
  rw [State.landAll_eq]
  refine foldl_last_writer (fun t : State => part (t.unit u).regs) writes f v (fun t => ?_) (landOrder_sorted _)
    ((s.mem_dueOrder u sc f).2 ⟨hf, hd⟩) (fun t g hg hn => ?_) (fun g hg hwr hne => ?_) _
  · rw [t.unit_land u f (hq f hf)]
    exact hw _
  · rw [t.unit_land u g (hq g ((s.mem_dueOrder u sc g).1 hg).1)]
    exact hk _ g hn
  · obtain ⟨hm, hgd⟩ := (s.mem_dueOrder u sc g).1 hg
    rw [g.rank_of_ne_csr (hq g hm), f.rank_of_ne_csr (hq f hf)]
    exact Nat.succ_lt_succ (hlast g hm hgd hwr hne)
end

/-- Settles O57: a result in flight is an entry of the sequencer alone, its landing is the one update `UnitSt.landOne` of its
unit, and of the results due at once the writer of the highest rank lands last. -/
theorem resultsAndFrames : Obligations.ResultsAndFrames := by
  refine ⟨fun x b => ⟨x.rdS_zero b, x.rdP_zero b, x.regs.rs_zero, x.regs.rp_zero⟩, fun s c r => ?_,
    fun s u f hf => ?_, fun s u sc => ?_⟩
  · obtain ⟨e, he⟩ := s.sends_eq c r
    obtain ⟨fl, bo, hemit⟩ := s.me.emit_frame r
    simp only [he, State.me_modMe, State.dev_modMe, State.agenda_modMe, State.cur_modMe, State.free_modMe]
    refine ⟨trivial, trivial, trivial, trivial, fun v hv => s.unit_modMe_ne _ hv, ?_, ?_,
      s.me.emit_flights_of_boosted r, s.me.emit_of_unboosted r⟩
    · rw [hemit]
    · rw [hemit]
  · have hu := s.unit_land u f hf
    have eq := s.land_eq u f hf
    refine ⟨s.dev_land u f hf, by rw [eq, State.agenda_modUnit], by rw [eq, State.cur_modUnit],
      fun v hv => by rw [eq, State.unit_modUnit_ne _ _ hv], ?_⟩
    rw [hu]
    refine ⟨rfl, Regs.rs_landOne _ f, fun n i => Regs.getLsbD_rp_landOne _ f n,
      fun n => ⟨Regs.val_landOne _ f n, Regs.md_landOne _ f n⟩, fun n i => Regs.lane_landOne _ f n, Regs.cb_landOne _ f,
      Regs.cq_landOne _ f, fun h => if_neg h, fun h => if_pos h, Observe.landOne_of_ne_trc _ _ f, Latches.landOne_keeps _ f,
      fun hm => ?_⟩
    obtain ⟨h0, h1, h2, h3⟩ := (s.unit u).lat.scalars_landOne f hm
    exact ⟨h0, h1, h2, h3, fun i hi => Latches.lanes_landOne _ f hi⟩
  · intro q y hq
    refine ⟨s.flights_landAll u sc hq, s.dev_landAll u sc hq, s.rs_landAll_keeps u sc hq, fun f n hf hd hs h0 hlast => ?_,
      fun f n i hf hd hv hi hm hlast => ?_⟩
    · exact s.landAll_last_writer u sc hq (fun r => r.rs n) (fun g => g.dst = .s n) f _ hf hd
        (fun r => (r.rs_landOne f n).trans (if_pos ⟨hs, h0⟩))
        (fun r g hg => (r.rs_landOne g n).trans (if_neg fun h => hg h.1)) hlast
    · exact s.landAll_last_writer u sc hq (fun r => lane r.v[n] i) (fun g => g.dst = .v n ∧ g.mask.getLsbD i = true) f _ hf hd
        (fun r => (r.lane_landOne f n hi).trans (if_pos ⟨hv, hm⟩))
        (fun r g hg => (r.lane_landOne g n hi).trans (if_neg hg)) fun g hg hgd hwr => hlast g hg hgd hwr.1 hwr.2

end Sys2Proof.Machine
end

section
/-! SUPPORT. The register forms of the S slots (R205, R206, Tables 8.6 and 8.7): what the issue of each shared shape
`sArith`, `sTwin`, `sLogic` and `sUn` does with the low w bits of its sources, and the zero divisor of R207. -/
namespace Sys2Proof.Machine

/-! ### Operands of width w -/
theorem operandInt_eq_zero_iff (u : Bool) {w : Nat} (x : BitVec w) : operandInt u x = 0 ↔ x = 0 := by
  cases u
  · simp [operandInt, ← BitVec.toInt_inj]
  · simp [operandInt, BitVec.toNat_eq]
theorem ofNat_srcS (s : State) (b : Boost) (w : IWidth) (a : SSrc) :
    BitVec.ofNat (wBits w) (s.me.srcS b a).toNat = s.opnd b w a := BitVec.ofNat_toNat _ _
theorem readInt_srcS (s : State) (b : Boost) (w : IWidth) (u : Bool) (a : SSrc) :
    readInt (wBits w) u (s.me.srcS b a).toNat = operandInt u (s.opnd b w a) := readInt_eq _ _ _

/-- The issue of an S operation with a cause of its own: the trap, or the result that holds it where it is boosted (R199). -/
theorem runOp_sOp_fault {s : State} {i : Instr} {h : SHd} {dst : FDest} {lat : Nat} {srcs : List SSrc} {val : Nat} {fl : FFlags}
    {own : List (Bool × BitVec 8 × Word)} {c : BitVec 8} {v : Word} (hp : s.performs h.bst h.g)
    (ho : firstFault own = some (c, v)) :
    (h.bst = .none → runOp (sOp s i h dst lat srcs val fl own) s = .next (s.traps c (scalarSlot h) v)) ∧
    (h.bst ≠ .none → ∃ r : Result, r.held = some (c, v) ∧ runOp (sOp s i h dst lat srcs val fl own) s = .next (s.sends 1 r)) := by
  refine ⟨fun hb => ?_, fun hb => ⟨_, (if_neg hb).trans ho, runOp_effect hp rfl rfl (if_neg hb) rfl rfl rfl⟩⟩
  have guarded : (!s.me.guardOn h.bst h.g) = false := by rw [hp.1]; rfl
  exact runOp_traps s guarded rfl (Op.trapOf_fault ((if_pos hb).trans ho) rfl 0 [])

/-! ### Forms on exact integers -/
/-- ADD, SUB and MUL: the exact value of `f`, saturated or reduced, and extended. -/
theorem runOp_sArith {s : State} {a : SArith} (i : Instr) (lat : Nat) (f : Int → Int → Int) (hp : s.performs a.h.bst a.h.g) :
    let r := f (operandInt a.u (s.opnd a.h.bst a.w a.a)) (operandInt a.u (s.opnd a.h.bst a.w a.b))
    runOp (sArith s i a lat f) s = .next (s.sends 1 (scalarTo a.h a.dst lat
      (extend64 a.u (BitVec.ofInt (wBits a.w) (if a.sat then clampInt a.u (wBits a.w) r else r))))) := by
  refine runOp_sOp_s hp rfl ?_
  rw [intRes, satInt_eq, extW_ofInt, readInt_srcS, readInt_srcS]

section
variable {s : State} {a : STwin} (i : Instr) (u : Bool) (lat : Nat) (f : Nat → Int → Int → Int) (hp : s.performs a.h.bst a.h.g)
include hp
/-- A form with an N twin, no divide by zero: the exact value of `f` reduced and extended. -/
theorem runOp_sTwin (div : Bool) (hd : div = true → operandInt u (s.opnd a.h.bst a.w a.b) ≠ 0) :
    runOp (sTwin s i a u lat f div) s = .next (s.sends 1 (scalarTo a.h a.dst lat (extend64 u (BitVec.ofInt (wBits a.w)
      (f (wBits a.w) (operandInt u (s.opnd a.h.bst a.w a.a)) (operandInt u (s.opnd a.h.bst a.w a.b))))))) := by
  refine runOp_sOp_s hp ?_ ?_
  · cases div
    · rfl
    · simp [firstFault, readInt_srcS, hd]
  · rw [extW_ofInt, readInt_srcS, readInt_srcS]
/-- A divide by zero has the cause DIV_ZERO with the dividend as its value (R207). -/
theorem runOp_sTwin_zero (hz : s.opnd a.h.bst a.w a.b = 0) :
    let v := extend64 u (s.opnd a.h.bst a.w a.a)
    (a.h.bst = .none → runOp (sTwin s i a u lat f true) s = .next (s.traps cDIV_ZERO (scalarSlot a.h) v)) ∧
    (a.h.bst ≠ .none → ∃ r : Result, r.held = some (cDIV_ZERO, v) ∧
      runOp (sTwin s i a u lat f true) s = .next (s.sends 1 r)) := by
  refine runOp_sOp_fault hp ?_
  rw [readInt_srcS, readInt_srcS, extW_ofInt, ofInt_operandInt, (operandInt_eq_zero_iff u _).2 hz, BitVec.ofNat_toNat,
    BitVec.setWidth_eq]
  rfl
end

/-! ### Forms on bits -/
/-- A bitwise form, shift or rotate: `v` is its value at width w. -/
theorem runOp_sLogic {s : State} {a : SLogic} (i : Instr) (f : Nat → Nat → Nat → Nat) {v : BitVec (wBits a.w)}
    (hp : s.performs a.h.bst a.h.g)
    (hv : BitVec.ofNat (wBits a.w) (f (wBits a.w) (s.me.srcS a.h.bst a.a).toNat (s.me.srcS a.h.bst a.b).toNat) = v) :
    runOp (sLogic s i a f) s = .next (s.sends 1 (scalarTo a.h a.dst 1 (extend64 a.u v))) := by
  refine runOp_sOp_s hp rfl ?_
  rw [← BitVec.toNat_ofNat, hv, extW_eq _ _ _ (wBits_le a.w)]
/-- A count or reversal of the bits of one operand. -/
theorem runOp_sUn {s : State} {a : SUn} (i : Instr) (f : Nat → Nat → Nat) (hp : s.performs a.h.bst a.h.g) :
    runOp (sUn s i a f) s = .next (s.sends 1 (scalarTo a.h a.dst 1
      (extend64 a.u (BitVec.ofNat (wBits a.w) (f (wBits a.w) (s.opnd a.h.bst a.w a.a).toNat))))) := by
  refine runOp_sOp_s hp rfl ?_
  rw [extW_mod _ _ _ (wBits_le a.w), State.opnd, BitVec.toNat_setWidth]

/-- ANDN at width w. -/
theorem ofNat_andn (w x y : Nat) :
    BitVec.ofNat w (x &&& (2 ^ w - 1 - y % 2 ^ w)) = BitVec.ofNat w x &&& ~~~BitVec.ofNat w y := by
  rw [BitVec.ofNat_and, ← BitVec.toNat_ofNat, ← BitVec.toNat_not, BitVec.ofNat_toNat, BitVec.setWidth_eq]
/-- CLZ: n zeros from the top, then a one unless the value is 0. -/
theorem clzN_spec {w : Nat} (x : BitVec w) : clzN w x.toNat ≤ w ∧ (∀ j < clzN w x.toNat, x.getMsbD j = false) ∧
    (clzN w x.toNat < w → x.getMsbD (clzN w x.toNat) = true) := by
  rw [clzN, Nat.mod_eq_of_lt x.isLt]
  split
  · next h =>
    obtain rfl : x = 0 := BitVec.eq_of_toNat_eq h
    exact ⟨le_rfl, fun j _ => BitVec.getMsbD_zero, fun h => absurd h (lt_irrefl w)⟩
  · next h =>
    have top : x.toNat.log2 < w := (Nat.log2_lt h).2 x.isLt
    refine ⟨by omega, fun j hj => ?_, fun _ => ?_⟩
    · have above : x.toNat < 2 ^ (w - 1 - j) := (Nat.log2_lt h).1 (by omega)
      rw [BitVec.getMsbD, ← BitVec.testBit_toNat, Nat.testBit_lt_two_pow above, Bool.and_false]
    · have at_top : w - 1 - (w - 1 - x.toNat.log2) = x.toNat.log2 := by omega
      rw [BitVec.getMsbD, ← BitVec.testBit_toNat, at_top, Nat.testBit_log2 h, Bool.and_true, decide_eq_true_eq]
      omega
/-- CTZ: n zeros from the bottom, then a one unless the value is 0. -/
theorem ctzN_spec {w : Nat} (x : BitVec w) : ctzN w x.toNat ≤ w ∧ (∀ j < ctzN w x.toNat, x.getLsbD j = false) ∧
    (ctzN w x.toNat < w → x.getLsbD (ctzN w x.toNat) = true) := by
  obtain ⟨-, le, zeros, one⟩ := ctzGo_spec x.toNat w 0
  rw [Nat.zero_add] at le one
  exact ⟨le, fun j hj => zeros j (Nat.zero_le j) hj, one⟩
theorem popN_eq {w : Nat} (x : BitVec w) : popN w x.toNat = (List.range w).countP fun j => x.getLsbD j :=
  List.countP_eq_length_filter.symm
theorem ofNat_brevN {w : Nat} (x : BitVec w) : BitVec.ofNat w (brevN w x.toNat) = x.reverse := by
  apply BitVec.eq_of_getLsbD_eq
  intro j hj
  rw [BitVec.getLsbD_ofNat, brevN, testBit_natOfBits, BitVec.getLsbD_reverse, BitVec.getMsbD, BitVec.testBit_toNat]
  simp [hj]

/-! ### The forms whose mnemonic gives the signedness -/
section
variable (s : State) (a : STwin) (u : Bool)
theorem exec_min_twin : exec (if u then .minn a else .min a) s =
    runOp (sTwin s (if u then .minn a else .min a) a u 1 fun _ x y => min x y) s := by cases u <;> rfl
theorem exec_max_twin : exec (if u then .maxn a else .max a) s =
    runOp (sTwin s (if u then .maxn a else .max a) a u 1 fun _ x y => max x y) s := by cases u <;> rfl
theorem exec_mulh_twin : exec (if u then .mulhn a else .mulh a) s =
    runOp (sTwin s (if u then .mulhn a else .mulh a) a u 3 mulHigh) s := by cases u <;> rfl
theorem exec_div_twin : exec (if u then .divn a else .div a) s =
    runOp (sTwin s (if u then .divn a else .div a) a u 18 (fun _ x y => x.tdiv y) true) s := by cases u <;> rfl
theorem exec_rem_twin : exec (if u then .remn a else .rem a) s =
    runOp (sTwin s (if u then .remn a else .rem a) a u 18 (fun _ x y => x - y * x.tdiv y) true) s := by cases u <;> rfl
end

/-- Settles O1: each mnemonic is one of the two shapes `sArith` and `sTwin`, whose issue the laws above give. -/
theorem scalarArithmeticAndDivision : Obligations.ScalarArithmeticAndDivision := by
  refine ⟨⟨fun s a hp => ?_, fun s a u hp => ?_⟩, fun s a u hp => ?_, fun s a u i hi hp hz => ?_⟩
  · exact ⟨runOp_sArith (.add a) 1 (· + ·) hp, runOp_sArith (.sub a) 1 (· - ·) hp, runOp_sArith (.mul a) 3 (· * ·) hp⟩
  · intro x y res
    rw [exec_min_twin, exec_max_twin, runOp_sTwin _ u _ _ hp false nofun, runOp_sTwin _ u _ _ hp false nofun, min_def, max_def]
    exact ⟨rfl, rfl⟩
  · intro w x y res
    refine ⟨?_, fun hy => ?_⟩
    · rw [exec_mulh_twin, runOp_sTwin _ u _ _ hp false nofun, mulHigh, Nat.cast_pow, Nat.cast_ofNat]
    · rw [exec_div_twin, exec_rem_twin, runOp_sTwin _ u _ _ hp true fun _ => hy, runOp_sTwin _ u _ _ hp true fun _ => hy,
        ← Int.tmod_def]
      exact ⟨rfl, rfl⟩
  · rcases hi with rfl | rfl
    · rw [exec_div_twin]
      exact runOp_sTwin_zero _ u 18 _ hp hz
    · rw [exec_rem_twin]
      exact runOp_sTwin_zero _ u 18 _ hp hz

/-- Settles O2: each mnemonic is one of the two shapes `sLogic` and `sUn`, with the bit vector operation that its number
function computes at width w. -/
theorem scalarLogicShiftsAndCounts : Obligations.ScalarLogicShiftsAndCounts := by
  refine ⟨fun s a hp => ?_, fun s a hp => ?_⟩
  · refine ⟨runOp_sLogic (.and a) _ hp ?_, runOp_sLogic (.or a) _ hp ?_, runOp_sLogic (.xor a) _ hp ?_,
      runOp_sLogic (.andn a) _ hp ?_, runOp_sLogic (.shl a) _ hp ?_, runOp_sLogic (.shr a) _ hp ?_,
      runOp_sLogic (.sar a) _ hp ?_, runOp_sLogic (.rotl a) _ hp ?_⟩
    · rw [BitVec.ofNat_and, ofNat_srcS, ofNat_srcS]
    · rw [BitVec.ofNat_or, ofNat_srcS, ofNat_srcS]
    · rw [BitVec.ofNat_xor, ofNat_srcS, ofNat_srcS]
    · rw [ofNat_andn, ofNat_srcS, ofNat_srcS]
    · rw [ofNat_shlN, ofNat_srcS]
    · rw [ofNat_shrN, ofNat_srcS]
    · rw [ofNat_sarN, ofNat_srcS]
    · rw [ofNat_rotlN _ _ _ (wBits_pos a.w), ofNat_srcS]
  · intro w x res
    refine ⟨⟨_, runOp_sUn (.clz a) clzN hp, clzN_spec x⟩, ⟨_, runOp_sUn (.ctz a) ctzN hp, ctzN_spec x⟩,
      (runOp_sUn (.popc a) popN hp).trans ?_, (runOp_sUn (.brev a) brevN hp).trans ?_⟩
    · rw [popN_eq]
    · rw [ofNat_brevN]

end Sys2Proof.Machine
end
